-- ==== Sys2Proof/Word.lean ====
section
/-! DEFINITION. Words, bytes and the finite map with a default (`Bank`) in which the model keeps registers,
memory and every other collection that is named by a number.

A `Bank` lists keys in strictly rising order. `Bank.set` also removes an entry equal to the default, so that
equal contents are equal data; `Bank.put` keeps every entry (used for records whose default depends on the key). -/

namespace Sys2Proof

/-- A scalar register's contents (R10). -/
abbrev Word := BitVec 64
/-- One byte of memory. -/
abbrev Byte := BitVec 8

/-- A finite map from numbers, in rising order of key. -/
abbrev Bank (α : Type) := List (Nat × α)

/-- The value at key `k`; `d` where the map lists none. -/
def Bank.get {α : Type} (d : α) : Bank α → Nat → α
  | [], _ => d
  | (j, v) :: t, k => if k < j then d else if k = j then v else Bank.get d t k

/-- Drops the leading entries with a key at most `k`. -/
def Bank.dropLe {α : Type} (k : Nat) : Bank α → Bank α
  | [] => []
  | (j, v) :: t => if j ≤ k then Bank.dropLe k t else (j, v) :: t

/-- Writes `v` at key `k` and keeps the entry whatever `v` is. -/
def Bank.put {α : Type} : Bank α → Nat → α → Bank α
  | [], k, v => [(k, v)]
  | (j, w) :: t, k, v =>
    if k < j then (k, v) :: (j, w) :: t
    else if k = j then (j, v) :: t
    else (j, w) :: Bank.put t k v

/-- Writes `v` at key `k`; a `v` equal to the default `d` removes the entry. -/
def Bank.set {α : Type} [DecidableEq α] (d : α) : Bank α → Nat → α → Bank α
  | [], k, v => if v = d then [] else [(k, v)]
  | (j, w) :: t, k, v =>
    if k < j then (if v = d then (j, w) :: t else (k, v) :: (j, w) :: t)
    else if k = j then (if v = d then Bank.dropLe k t else (j, v) :: t)
    else (j, w) :: Bank.set d t k v

/-- Removes key `k`. -/
def Bank.erase {α : Type} (b : Bank α) (k : Nat) : Bank α := b.filter (fun e => e.1 != k)

/-- The entry at key `k`, if the map lists one. -/
def Bank.find {α : Type} : Bank α → Nat → Option α
  | [], _ => none
  | (j, v) :: t, k => if k < j then none else if k = j then some v else Bank.find t k

/-- Keys strictly above `k`, rising, and no entry equal to the default `d`. -/
def Bank.wfFrom {α : Type} [DecidableEq α] (d : α) (k : Nat) : Bank α → Bool
  | [] => true
  | (j, v) :: t => decide (k ≤ j) && decide (v ≠ d) && Bank.wfFrom d (j + 1) t

/-- The canonical form: keys strictly rising and no entry equal to the default `d`. -/
def Bank.wf {α : Type} [DecidableEq α] (d : α) (b : Bank α) : Bool := Bank.wfFrom d 0 b

/-- `len` bits of the number `w` from bit `lo` upward. -/
def bits (w lo len : Nat) : Nat := w / 2 ^ lo % 2 ^ len

/-- A one-bit flag as a number. -/
def bit (b : Bool) : Nat := if b then 1 else 0

/-- A signed number held modulo `2 ^ w`. -/
def ofInt (w : Nat) (i : Int) : Nat := (i % (2 ^ w : Int)).toNat

/-- `n` read as a two's-complement number of `w` bits. -/
def toInt (w n : Nat) : Int :=
  let m := n % 2 ^ w
  if 2 * m < 2 ^ w then (m : Int) else (m : Int) - (2 ^ w : Nat)

end Sys2Proof
end

