-- ==== Sys2Proof/Config.lean ====
section
/-! DEFINITION. What one package fixes (sizes and places the spec states, choices of the model that a log entry
names) and the free values, which have no body. -/

namespace Sys2Proof.Config
open Sys2Proof

/-- Ring cores of the package (R3). -/
def ringCores : Nat := 768
/-- Ring cores and Curator cores (R3). -/
def allCores : Nat := 780
/-- Compute dies (R1). -/
def dies : Nat := 12
/-- Bytes of one scratchpad (R4). -/
def scratchBytes : Nat := 0x80000
/-- First address that no page table translates (R259). -/
def untranslated : Nat := 0xFFFFFE0000000000
/-- First byte of the package-global scratchpads (R259, R260). -/
def globalScratch : Nat := 0xFFFFFE0000000000
/-- End of the package-global scratchpads (R259). -/
def globalScratchEnd : Nat := 0xFFFFFE0180000000
/-- First byte of the own scratchpad's windows (R259, R260). -/
def ownScratch : Nat := 0xFFFFFF0000000000
/-- End of the own scratchpad's windows (R259). -/
def ownScratchEnd : Nat := 0xFFFFFF0000800000
/-- The CAPS register (R8). -/
def caps : Nat := 0xFFFFFDFFFFFF0000
/-- Physical base of the overflow and dead-message areas is left to the Curator (R238, R369); their sizes are: -/
def overflowBytes : Nat := 0x10000
/-- Bytes and records of one dead-message area (R369). -/
def deadBytes : Nat := 0x8000
def deadRecords : Nat := 56

/-- FREE VALUE (log 4): the reply token of the n-th message that expects a reply. R23 states only that it is not 0. -/
opaque replyToken : Nat → BitVec 64
/-- FREE VALUE (log 5): the SM3 digest of a measurement block with the given contents (Table 23.5 names the blocks and
states no digest); block 0 stands for a certificate chain. -/
opaque spdmDigest : Nat → List Nat → BitVec 256
/-- FREE VALUE (log 5): an SM2 signature under the device identity key of the given contents (R387). -/
opaque spdmSignature : List Nat → BitVec 512
/-- FREE VALUE (log 5): the certificate chain of slot 0, to Sahden's root (R387). -/
opaque certificateChain : Nat
/-- FREE VALUE (log 6): the SM3 digest of a firmware image's body (R386). -/
opaque bodyDigest : Nat → Nat
/-- FREE VALUE (log 6): the check of the signature over an image's header: its kind, security version, length and body
digest (R386 states the algorithm, not the keys). -/
opaque signatureGood : List Nat → Nat → Bool

/-- FREE VALUE (log 3): whether an access to a page whose CONT declaration is false translates as the group's first
entry implies; of the address space, the page and the count of open choices (R308). -/
opaque contByGroup : Nat → Nat → Nat → Bool

/-- FREE VALUE (log 2): the n-th open choice of the manual that no explicit choice settles. -/
opaque openChoice : Nat → Nat

end Sys2Proof.Config
end

