-- ==== Sys2Proof/Machine/Wire.lean ====
section
/-! DEFINITION. The register names, the causes of Table 22.5, and the records that travel between the agents of the
package (messages, far atomics, packets, grants) or that its events carry. -/

namespace Sys2Proof

/-- s0–s63 (R52). -/
abbrev SReg := BitVec 6
/-- v0–v31 (R52). -/
abbrev VReg := BitVec 5
/-- p0–p15 (R52). -/
abbrev PReg := BitVec 4
/-- k0–k7 (R52). -/
abbrev KReg := BitVec 3
/-- c0–c3 (Table 0.5). -/
abbrev Chan := BitVec 2

/-- The causes of Table 22.5 (R372). -/
inductive Cause where
  | illegalInstruction | privilege | loopNesting | loopEndHazard | trapInstruction | breakpoint
  | fetchTranslation | loadTranslation | storeTranslation | fetchProtection | loadProtection | storeProtection
  | misalignedAccess | accessTarget | awRange | awWrite
  | vectorConfiguration | pairOverlap | vectorOverlap | matrixConfiguration
  | forkConfiguration | forkState | assuredRange | handlerBudget | handlerBlocking | handlerState
  | messageConfiguration | messageOverflow | launchRefused
  | writeFrozen | freezeRange | freezeDepth | freezeCapacity | freezeHandle | remapFrozen
  | syncRegisterRange | syncOperand | copyConfiguration
  | poisonConsumed | uncorrectableCheck | contextSaveCommand
  deriving DecidableEq, Repr

/-- The 7-bit code of a cause (Table 22.5). -/
def Cause.code : Cause → BitVec 7
  | .illegalInstruction => 0x00 | .privilege => 0x01 | .loopNesting => 0x02 | .loopEndHazard => 0x03
  | .trapInstruction => 0x04 | .breakpoint => 0x05
  | .fetchTranslation => 0x10 | .loadTranslation => 0x11 | .storeTranslation => 0x12
  | .fetchProtection => 0x13 | .loadProtection => 0x14 | .storeProtection => 0x15
  | .misalignedAccess => 0x16 | .accessTarget => 0x17 | .awRange => 0x18 | .awWrite => 0x19
  | .vectorConfiguration => 0x20 | .pairOverlap => 0x21 | .vectorOverlap => 0x22 | .matrixConfiguration => 0x23
  | .forkConfiguration => 0x30 | .forkState => 0x31 | .assuredRange => 0x32 | .handlerBudget => 0x33
  | .handlerBlocking => 0x34 | .handlerState => 0x35 | .messageConfiguration => 0x36 | .messageOverflow => 0x37
  | .launchRefused => 0x38
  | .writeFrozen => 0x40 | .freezeRange => 0x41 | .freezeDepth => 0x42 | .freezeCapacity => 0x43
  | .freezeHandle => 0x44 | .remapFrozen => 0x45 | .syncRegisterRange => 0x46 | .syncOperand => 0x47
  | .copyConfiguration => 0x48 | .poisonConsumed => 0x50 | .uncorrectableCheck => 0x51 | .contextSaveCommand => 0x52

/-- A physical place (R261): a byte of device HBM, of one scratchpad, of the host's memory, of a peer's window. -/
inductive Loc where
  | hbm (pa : Nat)
  | scratch (core off : Nat)
  | host (addr : Nat)
  | peer (pkg off : Nat)
  deriving DecidableEq, Repr

/-- A 128-byte line (R4): of device HBM, by its number, or of a scratchpad. -/
inductive LineId where
  | hbm (line : Nat)
  | scratch (core line : Nat)
  deriving DecidableEq, Repr

/-- A message (R188–R190, R237, R240). `payload` holds `len` bytes. -/
structure Msg where
  /-- Sending core, 0–779; 0 when it comes from the host or a peer. -/
  src : Nat
  /-- Sent through the host send window (R354). -/
  host : Bool
  /-- Sending package when it comes from a peer (R357). -/
  peer : Option Nat
  /-- Sent by `sendv` (R23). -/
  vec : Bool
  /-- The destination: a core; a peer package with a core; or a host mailbox class (Table 9.7). -/
  dst : Nat
  toHost : Bool
  toPeer : Option Nat
  cls : Nat
  asid : Nat
  /-- The sender's logical time (R269). -/
  stamp : Nat
  /-- Reply expected, and the class that receives it (R189). -/
  re : Bool
  rclass : Nat
  len : Nat
  payload : BitVec 4096
  /-- The launch that sent it no longer runs: 0 when it has ended, else the number of the held launch (R293). -/
  left : Option Nat := none
  deriving DecidableEq, Repr

/-- A far atomic on its way to the owner (R106, Table 6.5). -/
structure FarReq where
  src : Nat
  hnd : Bool
  owner : Nat
  asid : Nat
  stamp : Nat
  ea : Word
  loc : Loc
  b : Word
  cmp : Word
  fn : BitVec 4
  dbl : Bool
  /-- The issuer waits for the old value in `rd` (R107). -/
  reply : Bool
  rd : SReg
  /-- The package that sent it, when it comes from a peer (R356). -/
  peer : Option Nat := none
  /-- The launch that issued it no longer runs: 0 when it has ended, else the number of the held launch (R293). -/
  left : Option Nat := none
  deriving DecidableEq, Repr

/-- What comes back from a far atomic: the old value, or the cause the owner met (R107, R108, R239). -/
inductive FarAnswer where
  | old (v : Word)
  | failed (c : Cause)
  deriving DecidableEq, Repr

/-- A write of part of one scratchpad line, applied by the owner's network agent (R149, R255, R266). -/
structure Packet where
  src : Nat
  dst : Nat
  asid : Nat
  /-- Line number within the scratchpad. -/
  line : Nat
  data : BitVec 1024
  /-- One bit for each bit that is written (R149). -/
  mask : BitVec 1024
  /-- Elements are added instead of written, at this ETYPE (R252). -/
  add : Option (BitVec 3) := none
  /-- Sync word to count into, by core and offset, with the bytes counted (R250, R255). -/
  sync : Option (Nat × Nat)
  bytes : Nat
  /-- Poisoned 16-byte granules of the data (R380). -/
  poison : BitVec 8
  /-- The transfer of `src` that writes it: its channel and identifier (R167, R260). -/
  copy : Option (Nat × Nat) := none
  /-- As for a far atomic (R293). -/
  left : Option Nat := none
  deriving DecidableEq, Repr

/-- A load of a remote scratchpad (R98, R266). -/
structure RemoteLoadReq where
  src : Nat
  hnd : Bool
  dst : Nat
  asid : Nat
  off : Nat
  ea : Word
  sz : BitVec 2
  sx : Bool
  rd : SReg
  deriving DecidableEq, Repr

/-- A reduce-add contribution on its way to an Annex combining buffer (R252). -/
structure Contribution where
  die : Nat
  line : Nat
  etype : BitVec 3
  data : BitVec 1024
  /-- One bit for each byte of the line that takes part. -/
  mask : BitVec 128
  /-- Poisoned 16-byte granules of the line. -/
  poison : BitVec 8
  core : Nat
  chan : Nat
  tid : Nat
  /-- As for a far atomic (R293). -/
  left : Option Nat := none
  deriving DecidableEq, Repr

/-- The answer to a version probe (R212): the older chunk that holds a version, its store count, and the line with its
poisoned granules. -/
inductive ProbeReply where
  | none
  | version (chunk count : Nat) (data : BitVec 1024) (poison : BitVec 8)
  deriving DecidableEq, Repr

/-- Annex line states (Table 19.2). `mp` remembers whether the line is M or O under its pending mirrors. -/
inductive Moesi where
  | i | s | e | m | o | mp (owned : Bool) | f
  deriving DecidableEq, Repr

/-- A line's data with its poisoned 16-byte granules (R380). -/
structure LineData where
  bits : BitVec 1024
  poison : BitVec 8 := 0
  deriving DecidableEq, Repr

/-- The answer of the Catalogue to a request (R332). -/
structure Grant where
  /-- State in which the requester's Annex takes the line. -/
  state : Moesi
  /-- The line; `none` for an upgrade, whose requester holds the data. -/
  data : Option LineData
  wts : Nat
  rts : Nat
  deriving DecidableEq, Repr

/-- A peer package's access to this package's peer window (R356). -/
inductive PeerAcc where
  | load (off len : Nat)
  /-- Each byte with its poison (R380). -/
  | store (id off : Nat) (data : List (BitVec 8 × Bool))
  | atomic (off : Nat) (fn : BitVec 4) (dbl : Bool) (b cmp : Word)
  deriving DecidableEq, Repr

/-- A peer package's answer to a read or an atomic (R108, R356): the data with the poisoned granules of its line, or the
cause that the access met there. -/
inductive PeerReply where
  | data (d : BitVec 1024) (poison : BitVec 8)
  | failed (c : Cause)
  deriving DecidableEq, Repr

/-- What of a core waits for a read of host memory: a context's load, or a transfer (R351). -/
inductive ReadAsk where
  | context (hnd : Bool)
  | copy (chan tid : Nat)
  deriving DecidableEq, Repr

/-- The way of a sync-word count: the core whose traffic carries it, and the core that holds the word (R250, R255). -/
structure CountWay where
  src : Nat
  core : Nat
  /-- As for a far atomic (R293). -/
  left : Option Nat := none
  deriving DecidableEq, Repr

/-- A request at the host port: its requester, the relaxed-ordering attribute (R350), and, once the port holds it, its
number there and the place that it named when it arrived (log 69). -/
structure PortReq where
  req : Nat
  relaxed : Bool := false
  held : Option (Nat × Nat) := none
  deriving DecidableEq, Repr

/-- The source of a peer's access: its package and core, and, once the station holds the access, its number there
(R355, log 69). -/
structure PeerSrc where
  pkg : Nat
  core : Nat
  held : Option Nat := none
  deriving DecidableEq, Repr

/-- What a debugger reads or writes of a halted core (R381): a register, or a byte of its scratchpad or planes. -/
inductive StateSel where
  | scalar (hnd : Bool) (n : Nat)
  | cond (hnd : Bool) (n : Nat)
  | vectorWord (hnd : Bool) (n i : Nat)
  | predWord (hnd : Bool) (n i : Nat)
  | pc (hnd : Bool)
  | system (num : Nat)
  | scratchByte (off : Nat)
  | planeValue (active : Bool) (row col : Nat)
  /-- The position of a stored value within its group of 8 (R161), and the scale or descriptor of group `g` of a column. -/
  | planePos (active : Bool) (row col : Nat)
  | planeDesc (active : Bool) (g col : Nat)
  /-- KIND, format, stored rows, columns and group rows of a plane, from bit 0 in bytes. -/
  | planeShape (active : Bool)
  deriving DecidableEq, Repr

/-- The logs of Table 23.2. -/
inductive LogKind where
  | machine | launch | refusal | drop
  deriving DecidableEq, Repr

/-- A firmware image (R386): the fields of its header, the number of the signature over them, and its body's number. -/
structure FirmwareImage where
  curator : Bool
  version : Nat
  length : Nat
  digest : Nat
  body : Nat
  signature : Nat := 0
  deriving DecidableEq, Repr

/-- An SPDM request (R387): a measurement block, the certificate chain of a slot, a challenge on a slot with its nonce. -/
inductive SpdmReq where
  | measurement (block nonce : Nat)
  | certificate (slot : Nat)
  | challenge (slot nonce : Nat)
  deriving DecidableEq, Repr

/-- What a read of a memory word meets (R377, R379): an error of one bit or symbol, which ECC corrects; an error that it
only detects; bursts whose CRC fails `n` times in a row. -/
inductive ReadError where
  | corrected
  | uncorrectable
  | crc (n : Nat)
  deriving DecidableEq, Repr

/-- A double-bit error of a tag or directory array (R377), which the next look-up of the entry meets. -/
inductive TagError where
  | l1 (core line : Nat)
  | icache (core line : Nat)
  | annex (die line : Nat)
  | catalogue (line : Nat)
  | vitrine (entry : Nat)
  deriving DecidableEq, Repr

end Sys2Proof
end

