-- ==== Sys2Proof/Syntax.lean ====
section
/-! DEFINITION. The steps of the package as data: `Instr` has one constructor for each row of spec/opcode_table.json. -/

namespace Sys2Proof

/-- The steps of the part: one constructor for each row of the opcode table. The rows without an encoding stand first:
they are events of the package, whose arguments say which agent, line, chunk, transfer or message they concern. The 310
that follow are instructions; their arguments are the fields of their encoding. -/
inductive Instr where
  /-- SYNC_MIRROR_UPDATE (R111): A sync-register update broadcast reaches a die's mirror in home order. -/
  | syncMirrorUpdate (die : Nat) (y : Nat) (value : BitVec 64)
  /-- YBAR_RELEASE (R112): A waiting barrier completes once the mirror reaches its target. -/
  | ybarRelease (core : Nat)
  /-- SWAIT_RETURN (R116): A waiting swait returns once GEN passes g or POISON is set. -/
  | swaitReturn (core : Nat)
  /-- COPY_WRITE (R168): A transfer writes or reduce-adds bytes at its destination. -/
  | copyWrite (core : Nat) (chan : Nat) (tid : Nat)
  /-- COPY_TRANSFER_COMPLETE (R167): A transfer completes and CPYDONE advances. -/
  | copyTransferComplete (core : Nat) (chan : Nat) (tid : Nat)
  /-- COPY_FAULT (R170): A running transfer faults, records FAULT and poisons its sync word. -/
  | copyFault (core : Nat) (chan : Nat) (tid : Nat) (cause : Cause)
  /-- FOLLOW_ON_COMMAND (R171): When the last byte lands, the engine sends its command to the array. -/
  | followOnCommand (core : Nat) (chan : Nat) (tid : Nat)
  /-- COPY_RETRANSLATE (R312): A transfer translates again at a 64 KiB boundary. -/
  | copyRetranslate (core : Nat) (chan : Nat) (tid : Nat)
  /-- CPYWAIT_RETURN (R173): A waiting cpywait returns with k0. -/
  | cpywaitReturn (core : Nat)
  /-- SYNC_WORD_COUNT (R249): Counts bytes into a sync word, advancing GEN. -/
  | syncWordCount (way : CountWay) (asid : Nat) (off : Nat) (n : Nat)
  /-- COMBINE_CONTRIBUTION (R252): A reduce-add contribution enters an Annex combining buffer. -/
  | combineContribution (c : Contribution)
  /-- COMBINE_TIMEOUT (R253): 64 fabric cycles after a first contribution the buffer is emptied. -/
  | combineTimeout (die : Nat) (line : Nat)
  /-- THAWQ_RETURN (R196): A waiting thawq returns once the ticket completes. -/
  | thawqReturn (core : Nat)
  /-- JOIN_COMPLETE (R184): The last commit returns the Ensign and the waiting join completes. -/
  | joinComplete (ring : Nat)
  /-- CHUNK_PLACEMENT (R205): The walker places the next chunk on its position. -/
  | chunkPlacement (ring : Nat)
  /-- CHUNK_START (R233): A placed chunk starts once its position is free and no range conflicts. -/
  | chunkStart (ring : Nat) (q : Nat)
  /-- LIVE_IN_ARRIVAL (R208): A forwarded live-in arrives over the Halyard. -/
  | liveInArrival (ring : Nat) (q : Nat) (n : Nat) (value : BitVec 4096)
  /-- VERSION_PROBE (R212): A version probe travels west to older chunks. -/
  | versionProbe (ring : Nat) (asker : Nat) (line : LineId)
  /-- PROBE_ANSWER (R212): A probe answer delivers a version or none. -/
  | probeAnswer (ring : Nat) (asker : Nat) (line : LineId) (answer : ProbeReply)
  /-- STORE_BROADCAST (R217): A chunk store broadcast reaches a younger chunk and is checked. -/
  | storeBroadcast (ring : Nat) (storer : Nat) (reader : Nat) (line : LineId) (count : Nat)
  /-- SQUASH_NOTICE (R219): A squash notice reaches a younger position. -/
  | squashNotice (ring : Nat) (oldest : Nat) (q : Nat)
  /-- SQUASH_DISCARDED (R219): All squashed positions have discarded; SQCNT rises and chunks are placed again. -/
  | squashDiscarded (ring : Nat)
  /-- BROADCAST_ACKNOWLEDGEMENT (R217): A younger chunk acknowledges a broadcast. -/
  | broadcastAcknowledgement (ring : Nat) (acker : Nat) (storer : Nat)
  /-- ENSIGN_ARRIVAL (R206): The Ensign reaches the next chunk. -/
  | ensignArrival (ring : Nat) (q : Nat) (time : Nat)
  /-- COMMIT_COMPLETE (R221): Mirror acknowledgements arrive; locks release and the Ensign passes. -/
  | commitComplete (ring : Nat) (q : Nat)
  /-- MESSAGE_ARRIVAL (R237): A network agent accepts a message into queue or overflow. -/
  | messageArrival (m : Msg)
  /-- HANDLER_DISPATCH (R241): At a dispatch boundary the oldest bound message starts a handler. -/
  | handlerDispatch (core : Nat)
  /-- HANDLER_BUDGET (R243): A 513th handler instruction raises the handler-budget cause. -/
  | handlerBudget (core : Nat)
  /-- FAR_ATOMIC_STEP (R247): The owner performs a far atomic at the coherence point. -/
  | farAtomicStep (r : FarReq)
  /-- FAR_ATOMIC_REPLY (R107): The reply of a far atomic writes the issuer's rd. -/
  | farAtomicReply (r : FarReq) (answer : FarAnswer)
  /-- REMOTE_STORE_PACKET (R266): A network agent applies a remote-store packet indivisibly. -/
  | remoteStorePacket (p : Packet)
  /-- REMOTE_LOAD (R266): A network agent serves a remote scratchpad load. -/
  | remoteLoad (r : RemoteLoadReq)
  /-- MMROT_PACKET (R255): An mmrot packet is applied at a neighbour and counted. -/
  | mmrotPacket (p : Packet)
  /-- VTYPE_WRITE (R20): A syswr to VTYPE sets EW, VILL and re-grants VL. -/
  | vtypeWrite (rs : SReg)
  /-- SEED_WRITE (R20): A syswr to SEED stores 1 in place of 0. -/
  | seedWrite (rs : SReg)
  /-- LEASE_WRITE (R20): A syswr to LEASE stores 1 in place of 0. -/
  | leaseWrite (rs : SReg)
  /-- RNDM_WRITE (R20): A syswr to RNDM stores MODE or raises illegal-instruction for 6 or 7. -/
  | rndmWrite (rs : SReg)
  /-- CHKMODE_WRITE (R20): A syswr to CHKMODE sets CHK unless LOCK is set. -/
  | chkmodeWrite (rs : SReg)
  /-- HALT_EVENT (R200): An event directed to a halted context resumes its issue. -/
  | haltEvent (core : Nat)
  /-- LTS_TICK (R271): A running core's logical time rises by 1 every 64 clk. -/
  | ltsTick (core : Nat)
  /-- CATALOGUE_RD (R332): A read request is resolved at the line's Catalogue quarter. -/
  | catalogueRd (die : Nat) (line : Nat)
  /-- CATALOGUE_RFO (R332): A read-for-ownership is resolved at the quarter. -/
  | catalogueRfo (die : Nat) (line : Nat)
  /-- CATALOGUE_UPG (R332): An upgrade request is resolved at the quarter. -/
  | catalogueUpg (die : Nat) (line : Nat)
  /-- EVICTION_NOTICE (R332): An Annex eviction notice updates the Catalogue entry. -/
  | evictionNotice (die : Nat) (line : Nat)
  /-- CATALOGUE_ANSWER (R332): The requester receives data, wts and rts. -/
  | catalogueAnswer (die : Nat) (line : Nat) (grant : Grant)
  /-- FORWARDED_READ (R327): An owning Annex supplies data for a forwarded read. -/
  | forwardedRead (owner : Nat) (die : Nat) (line : Nat)
  /-- INVALIDATE (R327): An Annex gives up its copy for another die's RFO. -/
  | invalidate (holder : Nat) (line : Nat)
  /-- RECALL (R327): An Annex gives up a recalled line and reports rts. -/
  | recallLine (holder : Nat) (line : Nat)
  /-- FREEZE_CONVERT (R327): An S line becomes a Frozen replica. -/
  | freezeConvert (holder : Nat) (line : Nat)
  /-- MIRROR_WRITE (R328): The home applies an Annex mirror write in sequence order. -/
  | mirrorWrite (die : Nat) (line : Nat) (seq : Nat) (data : LineData) (mask : BitVec 128) (wts : Nat)
  /-- MIRROR_ACK (R328): The Annex receives the home's acknowledgement and leaves MP. -/
  | mirrorAck (die : Nat) (line : Nat) (seq : Nat)
  /-- SWITCH_DIE_LOSS (R336): A missed heartbeat of 2,000 fabric cycles starts switch-die recovery. -/
  | switchDieLoss (xd : Nat)
  /-- STATION_LOSS (R355): Traffic is routed around a lost UALink station. -/
  | stationLoss (station : Nat)
  /-- SEAL_COMPLETE (R339): The seal completes; frames become FROZEN and frz returns. -/
  | sealComplete (entry : Nat)
  /-- TICKET_COMPLETE (R343): Every die acknowledges collection; the ticket completes and frames turn PLAIN. -/
  | ticketComplete (asid : Nat)
  /-- LAUNCH_GO (R288): A GO to a ring window submits a launch. -/
  | launchGo (req : Nat) (ring : Nat)
  /-- BROADCAST_GO (R287): A broadcast GO submits a packet to every masked ring. -/
  | broadcastGo (req : Nat)
  /-- FLUSH (R299): Removes queued launches of named priorities. -/
  | flush (ring : Nat) (prios : BitVec 4)
  /-- LAUNCH_FENCE_CLEAR (R289): Earlier posted writes are acknowledged and the launch fence clears. -/
  | launchFenceClear (ring : Nat) (id : Nat)
  /-- LAUNCH_MESSAGE (R294): A class-63 message to a head core is taken as a launch. -/
  | launchMessage (m : Msg)
  /-- LAUNCH_START (R291): A free ring starts its highest-priority ready candidate. -/
  | launchStart (ring : Nat)
  /-- LAUNCH_COMPLETE (R293): After drains the Curator signals SIGREG and frees the ring. -/
  | launchComplete (ring : Nat)
  /-- QUANTUM_EXPIRY (R297): The running launch's quantum passes with a higher head ready. -/
  | quantumExpiry (ring : Nat)
  /-- TIMEOUT_EXPIRY (R298): A ring not stopped within TIMEOUT has its launch ended. -/
  | timeoutExpiry (ring : Nat)
  /-- POLICY_WRITE (R298): Writes the pre-emption policy register. -/
  | policyWrite (value : BitVec 64)
  /-- REGISTER_WRITE (R286): Writes a control BAR register that has no behaviour of its own. -/
  | registerWrite (off : Nat) (value : BitVec 64)
  /-- APBASE_WRITE (R349): Sets BAR2's physical base, masked to the BAR size. -/
  | apbaseWrite (value : BitVec 64)
  /-- HOST_BAR2_READ (R350): A host read through BAR2 reaches device HBM. -/
  | hostBar2Read (req : PortReq) (off : Nat) (len : Nat)
  /-- HOST_BAR2_WRITE (R350): A host posted write through BAR2 reaches device HBM. -/
  | hostBar2Write (req : PortReq) (off : Nat) (data : List (BitVec 8))
  /-- HOST_READ_COMPLETION (R351): A completion returns for a device read of the host window. -/
  | hostReadCompletion (core : Nat) (ask : ReadAsk) (error : Bool)
  /-- MAILBOX_CONTROL_WRITE (R352): Writes a mailbox class control word under the OPEN rules. -/
  | mailboxControlWrite (cls : Nat) (word : Nat) (value : BitVec 64)
  /-- MAILBOX_MESSAGE (R353): A host-class message is written to a slot and PROD rises. -/
  | mailboxMessage (m : Msg)
  /-- SEND_WINDOW_GO (R354): Sends the host send window's message to a core. -/
  | sendWindowGo (req : Nat)
  /-- SYNC_WINDOW_READ (R360): A read of VAL returns a sync register's home value. -/
  | syncWindowRead (req : PortReq)
  /-- VAL_WRITE (R360): Performs yst of the written value at the home. -/
  | valWrite (req : Nat) (value : BitVec 64)
  /-- ADD_WRITE (R360): Performs yfad at the home and keeps OLD. -/
  | addWrite (req : Nat) (value : BitVec 64)
  /-- PEER_ACCESS (R356): A peer access into the peer window is served or refused. -/
  | peerAccess (src : PeerSrc) (a : PeerAcc)
  /-- PEER_MESSAGE (R357): A peer message arrives at a core in the peer table's ASID. -/
  | peerMessage (pkg : Nat) (m : Msg)
  /-- PEER_WRITE_ACK (R358): The far side acknowledges a peer write. -/
  | peerWriteAck (id : Nat) (refused : Bool)
  /-- COMPUTE_DROP (R383): Takes a die's cores out of service and moves far atomics. -/
  | computeDrop (die : Nat)
  /-- FULL_DROP (R384): Removes a die and reinitialises package memory. -/
  | fullDrop (die : Nat)
  /-- PATROL_SCRUB (R378): The scrubber reads and corrects words in idle bank cycles. -/
  | patrolScrub (loc : Loc)
  /-- FRAME_REPORT (R379): A frame reaching 64 corrections in 24 hours is reported. -/
  | frameReport (frame : Nat)
  /-- TEMPERATURE_REPORT (R388): A die's temperature report applies the thermal thresholds. -/
  | temperatureReport (die : Nat) (celsius : Nat)
  /-- POWER_BUDGET (R390): Every 1 µs the power manager grants each die a budget. -/
  | powerBudget (die : Nat) (watts : Nat)
  /-- POWER_ON (R389): Bring-up verifies firmware, trains, tests and releases the Curator. -/
  | powerOn
  /-- SECURITY_COUNTER (R386): After 24 hours without machine error the fused counter rises. -/
  | securityCounter (version : Nat)
  /-- SPDM_REQUEST (R387): A Registrar answers an SPDM request. -/
  | spdmRequest (req : SpdmReq)
  /-- END_LAUNCH (R381): Ends a running or held launch with ABORT. -/
  | endLaunch (ring : Nat) (prio : Nat)
  /-- DEBUG_HALT (R371): Halts a core for a debugger. -/
  | debugHalt (core : Nat)
  /-- RELEASE (R371): Releases a debugger-halted core. -/
  | release (core : Nat)
  /-- READ_STATE (R381): Reads a halted core's state. -/
  | readState (core : Nat) (sel : StateSel)
  /-- WRITE_STATE (R381): Writes a halted core's state. -/
  | writeState (core : Nat) (sel : StateSel) (value : BitVec 64)
  /-- READ_LOG (R381): Reads a log record. -/
  | readLog (log : LogKind) (index : Nat)
  /-- CLEAR_LOG (R381): Clears a log. -/
  | clearLog (log : LogKind)
  /-- RESTORE_DIE (R383): Reverses a compute-drop after a module reset. -/
  | restoreDie (die : Nat)
  /-- POWER_LIMIT (R390): Sets the module power cap. -/
  | powerLimit (watts : Nat)
  /-- RESERVED_ENCODING (R51): A parcel or word that names no instruction reaches execution and raises the illegal-instruction cause with EPC at its first parcel. -/
  | reservedEncoding (len : Nat)
  /-- MODULE_RESET (R382): A module reset reinitialises the package, returns switch dies to service and allows RESTORE_DIE and regaining the host. -/
  | moduleReset
  /-- BAR2_RESIZE (R349): A resize of BAR2 clears APBASE bits below the new size and changes the BAR2 field of the capability chain. -/
  | bar2Resize (log2Size : Nat)
  /-- LINK_RETRAINING (R359): The PCIe link retrains and the Curator rewrites the chain's WIDTH and SPEED fields. -/
  | linkRetraining (width : Nat) (speed : Nat)
  /-- PEER_COMPLETION (R356): A peer's response, read data or an error status, returns to the issuing package and completes or faults the load, or is logged for a refused store. -/
  | peerCompletion (id : Nat) (r : PeerReply)
  /-- FAULT_POLICY_WAIT_LIMIT (R365): The wait limit of an address space's fault policy passes before the trap's condition is removed, and the Curator ends the launch. -/
  | faultPolicyWaitLimit (core : Nat)
  /-- FIRMWARE_IMAGE_UPDATE (R386): A new firmware image arrives through the management interface while the package is in recovery and is verified. -/
  | firmwareImageUpdate (img : FirmwareImage)
  /-- ADD (R78): Writes the wrapped sum of two scalar registers, 64-bit, or 32-bit with .w. -/
  | add (w : Bool) (rd : SReg) (rs1 : SReg) (rs2 : SReg)
  /-- SUB (R78): Writes the wrapped difference of two scalar registers. -/
  | sub (w : Bool) (rd : SReg) (rs1 : SReg) (rs2 : SReg)
  /-- AND (R78): Writes the bitwise AND of two scalar registers. -/
  | and (w : Bool) (rd : SReg) (rs1 : SReg) (rs2 : SReg)
  /-- OR (R78): Writes the bitwise OR of two scalar registers. -/
  | or (w : Bool) (rd : SReg) (rs1 : SReg) (rs2 : SReg)
  /-- XOR (R78): Writes the bitwise XOR of two scalar registers. -/
  | xor (w : Bool) (rd : SReg) (rs1 : SReg) (rs2 : SReg)
  /-- ANDN (R78): Writes a AND NOT b. -/
  | andn (w : Bool) (rd : SReg) (rs1 : SReg) (rs2 : SReg)
  /-- SLL (R78): Shifts left logically by the low bits of rs2. -/
  | sll (w : Bool) (rd : SReg) (rs1 : SReg) (rs2 : SReg)
  /-- SRL (R78): Shifts right logically by the low bits of rs2. -/
  | srl (w : Bool) (rd : SReg) (rs1 : SReg) (rs2 : SReg)
  /-- SRA (R78): Shifts right arithmetically by the low bits of rs2. -/
  | sra (w : Bool) (rd : SReg) (rs1 : SReg) (rs2 : SReg)
  /-- ROL (R78): Rotates left within the operand width. -/
  | rol (w : Bool) (rd : SReg) (rs1 : SReg) (rs2 : SReg)
  /-- MIN (R78): Writes the signed minimum. -/
  | min (w : Bool) (rd : SReg) (rs1 : SReg) (rs2 : SReg)
  /-- MAX (R78): Writes the signed maximum. -/
  | max (w : Bool) (rd : SReg) (rs1 : SReg) (rs2 : SReg)
  /-- MINU (R78): Writes the unsigned minimum. -/
  | minu (w : Bool) (rd : SReg) (rs1 : SReg) (rs2 : SReg)
  /-- MAXU (R78): Writes the unsigned maximum. -/
  | maxu (w : Bool) (rd : SReg) (rs1 : SReg) (rs2 : SReg)
  /-- MUL (R78): Writes the low half of the product. -/
  | mul (w : Bool) (rd : SReg) (rs1 : SReg) (rs2 : SReg)
  /-- MULH (R78): Writes the high half of the signed product. -/
  | mulh (w : Bool) (rd : SReg) (rs1 : SReg) (rs2 : SReg)
  /-- MULHU (R78): Writes the high half of the unsigned product. -/
  | mulhu (w : Bool) (rd : SReg) (rs1 : SReg) (rs2 : SReg)
  /-- MULHSU (R78): Writes the high half of signed by unsigned product. -/
  | mulhsu (w : Bool) (rd : SReg) (rs1 : SReg) (rs2 : SReg)
  /-- DIV (R79): Signed division truncating toward zero, with fixed edge results. -/
  | div (w : Bool) (rd : SReg) (rs1 : SReg) (rs2 : SReg)
  /-- DIVU (R79): Unsigned division with fixed result for division by zero. -/
  | divu (w : Bool) (rd : SReg) (rs1 : SReg) (rs2 : SReg)
  /-- REM (R79): Signed remainder taking the dividend's sign. -/
  | rem (w : Bool) (rd : SReg) (rs1 : SReg) (rs2 : SReg)
  /-- REMU (R79): Unsigned remainder. -/
  | remu (w : Bool) (rd : SReg) (rs1 : SReg) (rs2 : SReg)
  /-- CLZ (R78): Counts leading zero bits. -/
  | clz (w : Bool) (rd : SReg) (rs1 : SReg)
  /-- CTZ (R78): Counts trailing zero bits. -/
  | ctz (w : Bool) (rd : SReg) (rs1 : SReg)
  /-- POPC (R78): Counts one bits. -/
  | popc (w : Bool) (rd : SReg) (rs1 : SReg)
  /-- REV8 (R78): Reverses the bytes of the operand. -/
  | rev8 (w : Bool) (rd : SReg) (rs1 : SReg)
  /-- BFXU (R81): Extracts a bitfield zero-extended. -/
  | bfxu (rd : SReg) (rs1 : SReg) (pos : BitVec 6) (len : BitVec 6)
  /-- BFXS (R81): Extracts a bitfield sign-extended. -/
  | bfxs (rd : SReg) (rs1 : SReg) (pos : BitVec 6) (len : BitVec 6)
  /-- BFI (R81): Inserts the low bits of rs1 into a field of rd. -/
  | bfi (rd : SReg) (rs1 : SReg) (pos : BitVec 6) (len : BitVec 6)
  /-- SLLI (R80): Shifts left logically by an immediate amount. -/
  | slli (w : Bool) (rd : SReg) (rs1 : SReg) (n : BitVec 6)
  /-- SRLI (R80): Shifts right logically by an immediate amount. -/
  | srli (w : Bool) (rd : SReg) (rs1 : SReg) (n : BitVec 6)
  /-- SRAI (R80): Shifts right arithmetically by an immediate amount. -/
  | srai (w : Bool) (rd : SReg) (rs1 : SReg) (n : BitVec 6)
  /-- RORI (R80): Rotates right by an immediate amount. -/
  | rori (w : Bool) (rd : SReg) (rs1 : SReg) (n : BitVec 6)
  /-- ADDI (R82): Adds a signed 12-bit immediate. -/
  | addi (rd : SReg) (rs1 : SReg) (imm : BitVec 12)
  /-- ANDI (R82): ANDs with a sign-extended immediate. -/
  | andi (rd : SReg) (rs1 : SReg) (imm : BitVec 12)
  /-- ORI (R82): ORs with a sign-extended immediate. -/
  | ori (rd : SReg) (rs1 : SReg) (imm : BitVec 12)
  /-- XORI (R82): XORs with a sign-extended immediate. -/
  | xori (rd : SReg) (rs1 : SReg) (imm : BitVec 12)
  /-- LI (R83): Loads a signed 18-bit immediate. -/
  | li (rd : SReg) (imm : BitVec 18)
  /-- LIH (R83): Shifts rd left by 18 and ORs an unsigned immediate. -/
  | lih (rd : SReg) (imm : BitVec 18)
  /-- LEA_PC (R83): Writes the instruction address plus a signed immediate. -/
  | leaPc (rd : SReg) (imm : BitVec 18)
  /-- LEA (R83): Writes rs1 plus rs2 shifted by q. -/
  | lea (q : BitVec 2) (rd : SReg) (rs1 : SReg) (rs2 : SReg)
  /-- KEQ (R84): Sets a condition bit to equality of two registers. -/
  | keq (w : Bool) (kd : KReg) (rs1 : SReg) (rs2 : SReg)
  /-- KNE (R84): Sets a condition bit to inequality. -/
  | kne (w : Bool) (kd : KReg) (rs1 : SReg) (rs2 : SReg)
  /-- KLT (R84): Sets a condition bit to signed less-than. -/
  | klt (w : Bool) (kd : KReg) (rs1 : SReg) (rs2 : SReg)
  /-- KGE (R84): Sets a condition bit to signed greater-or-equal. -/
  | kge (w : Bool) (kd : KReg) (rs1 : SReg) (rs2 : SReg)
  /-- KLTU (R84): Sets a condition bit to unsigned less-than. -/
  | kltu (w : Bool) (kd : KReg) (rs1 : SReg) (rs2 : SReg)
  /-- KGEU (R84): Sets a condition bit to unsigned greater-or-equal. -/
  | kgeu (w : Bool) (kd : KReg) (rs1 : SReg) (rs2 : SReg)
  /-- KAND (R84): ANDs two condition bits. -/
  | kand (kd : KReg) (ka : KReg) (kb : KReg)
  /-- KOR (R84): ORs two condition bits. -/
  | kor (kd : KReg) (ka : KReg) (kb : KReg)
  /-- KXOR (R84): XORs two condition bits. -/
  | kxor (kd : KReg) (ka : KReg) (kb : KReg)
  /-- KSET (R84): Sets a condition bit when rs1 is non-zero. -/
  | kset (kd : KReg) (rs1 : SReg)
  /-- SEL (R85): Selects rs1 or rs2 by a condition bit. -/
  | sel (rd : SReg) (k : KReg) (rs1 : SReg) (rs2 : SReg)
  /-- FADD (R86): Floating-point add, .d or .s, rounded under RNDM. -/
  | fadd (sg : Bool) (rd : SReg) (rs1 : SReg) (rs2 : SReg)
  /-- FSUB (R86): Floating-point subtract. -/
  | fsub (sg : Bool) (rd : SReg) (rs1 : SReg) (rs2 : SReg)
  /-- FMUL (R86): Floating-point multiply. -/
  | fmul (sg : Bool) (rd : SReg) (rs1 : SReg) (rs2 : SReg)
  /-- FDIV (R86): Floating-point divide. -/
  | fdiv (sg : Bool) (rd : SReg) (rs1 : SReg) (rs2 : SReg)
  /-- FSQRT (R86): Floating-point square root. -/
  | fsqrt (sg : Bool) (rd : SReg) (rs1 : SReg)
  /-- FMIN (R86): Floating-point minimum. -/
  | fmin (sg : Bool) (rd : SReg) (rs1 : SReg) (rs2 : SReg)
  /-- FMAX (R86): Floating-point maximum. -/
  | fmax (sg : Bool) (rd : SReg) (rs1 : SReg) (rs2 : SReg)
  /-- FMACC (R86): Fused multiply-add into rd. -/
  | fmacc (sg : Bool) (rd : SReg) (rs1 : SReg) (rs2 : SReg)
  /-- FMSAC (R86): Fused multiply-subtract from rd. -/
  | fmsac (sg : Bool) (rd : SReg) (rs1 : SReg) (rs2 : SReg)
  /-- FNEG (R86): Inverts the sign bit. -/
  | fneg (sg : Bool) (rd : SReg) (rs1 : SReg)
  /-- FABS (R86): Clears the sign bit. -/
  | fabs (sg : Bool) (rd : SReg) (rs1 : SReg)
  /-- KFEQ (R87): Sets a condition bit to floating-point equality. -/
  | kfeq (sg : Bool) (kd : KReg) (rs1 : SReg) (rs2 : SReg)
  /-- KFLT (R87): Sets a condition bit to floating-point less-than. -/
  | kflt (sg : Bool) (kd : KReg) (rs1 : SReg) (rs2 : SReg)
  /-- KFLE (R87): Sets a condition bit to floating-point less-or-equal. -/
  | kfle (sg : Bool) (kd : KReg) (rs1 : SReg) (rs2 : SReg)
  /-- KFUN (R87): Sets a condition bit when either operand is NaN. -/
  | kfun (sg : Bool) (kd : KReg) (rs1 : SReg) (rs2 : SReg)
  /-- FCVT_S_D (R88): Converts FP64 to FP32, a narrowing conversion. -/
  | fcvtSD (rm : BitVec 3) (rd : SReg) (rs1 : SReg)
  /-- FCVT_D_S (R88): Converts FP32 to FP64 exactly. -/
  | fcvtDS (rd : SReg) (rs1 : SReg)
  /-- FCVT_L_F (R88): Converts float to INT64. -/
  | fcvtLF (sg : Bool) (rm : BitVec 3) (rd : SReg) (rs1 : SReg)
  /-- FCVT_LU_F (R88): Converts float to UINT64. -/
  | fcvtLuF (sg : Bool) (rm : BitVec 3) (rd : SReg) (rs1 : SReg)
  /-- FCVT_F_L (R88): Converts INT64 to float. -/
  | fcvtFL (sg : Bool) (rm : BitVec 3) (rd : SReg) (rs1 : SReg)
  /-- FCVT_F_LU (R88): Converts UINT64 to float. -/
  | fcvtFLu (sg : Bool) (rm : BitVec 3) (rd : SReg) (rs1 : SReg)
  /-- FCVT_W_F (R88): Converts float to INT32, sign-extended. -/
  | fcvtWF (sg : Bool) (rm : BitVec 3) (rd : SReg) (rs1 : SReg)
  /-- FCVT_F_W (R88): Converts INT32 to float. -/
  | fcvtFW (sg : Bool) (rm : BitVec 3) (rd : SReg) (rs1 : SReg)
  /-- BEQ (R89): Branches when two registers are equal. -/
  | beq (rs1 : SReg) (rs2 : SReg) (off : BitVec 11)
  /-- BNE (R89): Branches when two registers differ. -/
  | bne (rs1 : SReg) (rs2 : SReg) (off : BitVec 11)
  /-- BLT (R89): Branches on signed less-than. -/
  | blt (rs1 : SReg) (rs2 : SReg) (off : BitVec 11)
  /-- BGE (R89): Branches on signed greater-or-equal. -/
  | bge (rs1 : SReg) (rs2 : SReg) (off : BitVec 11)
  /-- BLTU (R89): Branches on unsigned less-than. -/
  | bltu (rs1 : SReg) (rs2 : SReg) (off : BitVec 11)
  /-- BGEU (R89): Branches on unsigned greater-or-equal. -/
  | bgeu (rs1 : SReg) (rs2 : SReg) (off : BitVec 11)
  /-- BKT (R89): Branches when a condition bit is set. -/
  | bkt (k : KReg) (off : BitVec 20)
  /-- BKF (R89): Branches when a condition bit is clear. -/
  | bkf (k : KReg) (off : BitVec 20)
  /-- JAL (R89): Jumps PC-relative and writes the link register. -/
  | jal (rd : SReg) (off : BitVec 18)
  /-- JALR (R89): Jumps to rs1 plus immediate and writes the link register. -/
  | jalr (rd : SReg) (rs1 : SReg) (imm : BitVec 12)
  /-- LOOP (R92): Opens a hardware loop counted by a register. -/
  | loop (rs1 : SReg) (off : BitVec 12)
  /-- LOOPI (R92): Opens a hardware loop counted by an immediate. -/
  | loopi (cnt : BitVec 12) (off : BitVec 12)
  /-- LD (R99): Sign-extending scalar load of 1, 2, 4 or 8 bytes, rlx sys. -/
  | ld (sz : BitVec 2) (reg : SReg) (base : SReg) (off : BitVec 10)
  /-- LDU (R99): Zero-extending scalar load of 1, 2 or 4 bytes. -/
  | ldu (sz : BitVec 2) (reg : SReg) (base : SReg) (off : BitVec 10)
  /-- ST (R99): Scalar store of 1, 2, 4 or 8 bytes. -/
  | st (sz : BitVec 2) (reg : SReg) (base : SReg) (off : BitVec 10)
  /-- LDO (R100): Scalar load with order and scope suffixes. -/
  | ldo (ord : BitVec 2) (sc : BitVec 3) (x : Bool) (sz : BitVec 2) (reg : SReg) (base : SReg) (off : BitVec 4)
  /-- STO (R100): Scalar store with order and scope suffixes. -/
  | sto (ord : BitVec 2) (sc : BitVec 3) (sz : BitVec 2) (reg : SReg) (base : SReg) (off : BitVec 4)
  /-- AMSWAP (R103): Local atomic swap, word or doubleword. -/
  | amSwap (d : Bool) (ord : BitVec 2) (rd : SReg) (rs1 : SReg) (rs2 : SReg)
  /-- AMADD (R103): Local atomic add. -/
  | amAdd (d : Bool) (ord : BitVec 2) (rd : SReg) (rs1 : SReg) (rs2 : SReg)
  /-- AMAND (R103): Local atomic AND. -/
  | amAnd (d : Bool) (ord : BitVec 2) (rd : SReg) (rs1 : SReg) (rs2 : SReg)
  /-- AMOR (R103): Local atomic OR. -/
  | amOr (d : Bool) (ord : BitVec 2) (rd : SReg) (rs1 : SReg) (rs2 : SReg)
  /-- AMXOR (R103): Local atomic XOR. -/
  | amXor (d : Bool) (ord : BitVec 2) (rd : SReg) (rs1 : SReg) (rs2 : SReg)
  /-- AMMIN (R103): Local atomic signed minimum. -/
  | amMin (d : Bool) (ord : BitVec 2) (rd : SReg) (rs1 : SReg) (rs2 : SReg)
  /-- AMMAX (R103): Local atomic signed maximum. -/
  | amMax (d : Bool) (ord : BitVec 2) (rd : SReg) (rs1 : SReg) (rs2 : SReg)
  /-- AMMINU (R103): Local atomic unsigned minimum. -/
  | amMinu (d : Bool) (ord : BitVec 2) (rd : SReg) (rs1 : SReg) (rs2 : SReg)
  /-- AMMAXU (R103): Local atomic unsigned maximum. -/
  | amMaxu (d : Bool) (ord : BitVec 2) (rd : SReg) (rs1 : SReg) (rs2 : SReg)
  /-- AMCAS (R103): Local atomic compare-and-swap against rd. -/
  | amCas (d : Bool) (ord : BitVec 2) (rd : SReg) (rs1 : SReg) (rs2 : SReg)
  /-- FAR_SWAP (R106): Sends a swap to the owning core as a far atomic. -/
  | farSwap (d : Bool) (rd : SReg) (rs1 : SReg) (rs2 : SReg)
  /-- FAR_ADD (R106): Far atomic add at the owner. -/
  | farAdd (d : Bool) (rd : SReg) (rs1 : SReg) (rs2 : SReg)
  /-- FAR_AND (R106): Far atomic AND at the owner. -/
  | farAnd (d : Bool) (rd : SReg) (rs1 : SReg) (rs2 : SReg)
  /-- FAR_OR (R106): Far atomic OR at the owner. -/
  | farOr (d : Bool) (rd : SReg) (rs1 : SReg) (rs2 : SReg)
  /-- FAR_XOR (R106): Far atomic XOR at the owner. -/
  | farXor (d : Bool) (rd : SReg) (rs1 : SReg) (rs2 : SReg)
  /-- FAR_MIN (R106): Far atomic signed minimum. -/
  | farMin (d : Bool) (rd : SReg) (rs1 : SReg) (rs2 : SReg)
  /-- FAR_MAX (R106): Far atomic signed maximum. -/
  | farMax (d : Bool) (rd : SReg) (rs1 : SReg) (rs2 : SReg)
  /-- FAR_MINU (R106): Far atomic unsigned minimum. -/
  | farMinu (d : Bool) (rd : SReg) (rs1 : SReg) (rs2 : SReg)
  /-- FAR_MAXU (R106): Far atomic unsigned maximum. -/
  | farMaxu (d : Bool) (rd : SReg) (rs1 : SReg) (rs2 : SReg)
  /-- FAR_CAS (R106): Far atomic compare-and-swap. -/
  | farCas (d : Bool) (rd : SReg) (rs1 : SReg) (rs2 : SReg)
  /-- YLD (R110): Reads a sync register from this die's mirror. -/
  | yld (y : BitVec 16) (reg : SReg)
  /-- YST (R110): Stores a sync register at its home. -/
  | yst (y : BitVec 16) (reg : SReg)
  /-- YTS (R110): Test-and-set of a sync register at its home. -/
  | yts (y : BitVec 16) (reg : SReg)
  /-- YFAD (R110): Fetch-and-add of a sync register at its home. -/
  | yfad (y : BitVec 16) (reg : SReg)
  /-- YBAR (R112): Adds 1 to a barrier counter and waits for the target. -/
  | ybar (y : BitVec 16) (reg : SReg)
  /-- YLD_INDEXED (R110): yld with the register number in rs1. -/
  | yldX (rd : SReg) (rs1 : SReg)
  /-- YST_INDEXED (R110): yst with the register number in rs1. -/
  | ystX (rs1 : SReg) (rs2 : SReg)
  /-- YTS_INDEXED (R110): yts with the register number in rs1. -/
  | ytsX (rd : SReg) (rs1 : SReg)
  /-- YFAD_INDEXED (R110): yfad with the register number in rs1, addend rs2. -/
  | yfadX (rd : SReg) (rs1 : SReg) (rs2 : SReg)
  /-- YBAR_INDEXED (R112): ybar with the register number in rs1. -/
  | ybarX (rs1 : SReg) (rs2 : SReg)
  /-- SWAIT (R116): Waits on a sync word's generation or poison. -/
  | swait (rs1 : SReg) (rs2 : SReg)
  /-- FENCE (R117): Orders the context's LSU accesses at a scope by kind. -/
  | fence (ord : BitVec 2) (sc : BitVec 3)
  /-- FENCE_X (R118): Waits for accesses on named paths before later paths issue. -/
  | fenceX (sc : BitVec 3) (pa : BitVec 7) (pb : BitVec 7)
  /-- VDRAIN (R119): Waits until earlier vector memory instructions have completed. -/
  | vdrain
  /-- SETVL (R129): Sets element width and grants VL from a register request. -/
  | setvl (ew : BitVec 3) (rd : SReg) (rs1 : SReg)
  /-- SETVLI (R129): Sets element width and grants VL from an immediate request. -/
  | setvli (ew : BitVec 3) (rd : SReg) (uimm : BitVec 12)
  /-- VADD (R130): Element-wise integer add. -/
  | vadd (pm : Bool) (pg : PReg) (vd : VReg) (vs1 : VReg) (vs2 : VReg)
  /-- VSUB (R130): Element-wise integer subtract. -/
  | vsub (pm : Bool) (pg : PReg) (vd : VReg) (vs1 : VReg) (vs2 : VReg)
  /-- VMUL (R130): Element-wise low product. -/
  | vmul (pm : Bool) (pg : PReg) (vd : VReg) (vs1 : VReg) (vs2 : VReg)
  /-- VMULH (R130): Element-wise signed high product. -/
  | vmulh (pm : Bool) (pg : PReg) (vd : VReg) (vs1 : VReg) (vs2 : VReg)
  /-- VAND (R130): Element-wise AND. -/
  | vand (pm : Bool) (pg : PReg) (vd : VReg) (vs1 : VReg) (vs2 : VReg)
  /-- VOR (R130): Element-wise OR. -/
  | vor (pm : Bool) (pg : PReg) (vd : VReg) (vs1 : VReg) (vs2 : VReg)
  /-- VXOR (R130): Element-wise XOR. -/
  | vxor (pm : Bool) (pg : PReg) (vd : VReg) (vs1 : VReg) (vs2 : VReg)
  /-- VSLL (R130): Element-wise shift left. -/
  | vsll (pm : Bool) (pg : PReg) (vd : VReg) (vs1 : VReg) (vs2 : VReg)
  /-- VSRL (R130): Element-wise logical shift right. -/
  | vsrl (pm : Bool) (pg : PReg) (vd : VReg) (vs1 : VReg) (vs2 : VReg)
  /-- VSRA (R130): Element-wise arithmetic shift right. -/
  | vsra (pm : Bool) (pg : PReg) (vd : VReg) (vs1 : VReg) (vs2 : VReg)
  /-- VMIN (R130): Element-wise signed minimum. -/
  | vmin (pm : Bool) (pg : PReg) (vd : VReg) (vs1 : VReg) (vs2 : VReg)
  /-- VMAX (R130): Element-wise signed maximum. -/
  | vmax (pm : Bool) (pg : PReg) (vd : VReg) (vs1 : VReg) (vs2 : VReg)
  /-- VMINU (R130): Element-wise unsigned minimum. -/
  | vminu (pm : Bool) (pg : PReg) (vd : VReg) (vs1 : VReg) (vs2 : VReg)
  /-- VMAXU (R130): Element-wise unsigned maximum. -/
  | vmaxu (pm : Bool) (pg : PReg) (vd : VReg) (vs1 : VReg) (vs2 : VReg)
  /-- VSADD (R130): Element-wise saturating signed add. -/
  | vsadd (pm : Bool) (pg : PReg) (vd : VReg) (vs1 : VReg) (vs2 : VReg)
  /-- VSSUB (R130): Element-wise saturating signed subtract. -/
  | vssub (pm : Bool) (pg : PReg) (vd : VReg) (vs1 : VReg) (vs2 : VReg)
  /-- VADD_VX (R130): Adds a scalar to every active element. -/
  | vaddVx (pm : Bool) (pg : PReg) (vd : VReg) (vs1 : VReg) (rs : SReg)
  /-- VSUB_VX (R130): Subtracts a scalar from every active element. -/
  | vsubVx (pm : Bool) (pg : PReg) (vd : VReg) (vs1 : VReg) (rs : SReg)
  /-- VMUL_VX (R130): Multiplies every active element by a scalar. -/
  | vmulVx (pm : Bool) (pg : PReg) (vd : VReg) (vs1 : VReg) (rs : SReg)
  /-- VAND_VX (R130): ANDs every active element with a scalar. -/
  | vandVx (pm : Bool) (pg : PReg) (vd : VReg) (vs1 : VReg) (rs : SReg)
  /-- VSLL_VX (R130): Shifts elements left by a scalar. -/
  | vsllVx (pm : Bool) (pg : PReg) (vd : VReg) (vs1 : VReg) (rs : SReg)
  /-- VSRL_VX (R130): Shifts elements right logically by a scalar. -/
  | vsrlVx (pm : Bool) (pg : PReg) (vd : VReg) (vs1 : VReg) (rs : SReg)
  /-- VSRA_VX (R130): Shifts elements right arithmetically by a scalar. -/
  | vsraVx (pm : Bool) (pg : PReg) (vd : VReg) (vs1 : VReg) (rs : SReg)
  /-- VMV_VX (R130): Writes a scalar to every active element. -/
  | vmvVx (pm : Bool) (pg : PReg) (vd : VReg) (rs : SReg)
  /-- VFADD (R131): Element-wise floating-point add. -/
  | vfadd (pm : Bool) (pg : PReg) (vd : VReg) (vs1 : VReg) (vs2 : VReg)
  /-- VFSUB (R131): Element-wise floating-point subtract. -/
  | vfsub (pm : Bool) (pg : PReg) (vd : VReg) (vs1 : VReg) (vs2 : VReg)
  /-- VFMUL (R131): Element-wise floating-point multiply. -/
  | vfmul (pm : Bool) (pg : PReg) (vd : VReg) (vs1 : VReg) (vs2 : VReg)
  /-- VFDIV (R131): Element-wise floating-point divide. -/
  | vfdiv (pm : Bool) (pg : PReg) (vd : VReg) (vs1 : VReg) (vs2 : VReg)
  /-- VFMIN (R131): Element-wise floating-point minimum. -/
  | vfmin (pm : Bool) (pg : PReg) (vd : VReg) (vs1 : VReg) (vs2 : VReg)
  /-- VFMAX (R131): Element-wise floating-point maximum. -/
  | vfmax (pm : Bool) (pg : PReg) (vd : VReg) (vs1 : VReg) (vs2 : VReg)
  /-- VFMACC (R131): Element-wise fused multiply-add into vd. -/
  | vfmacc (pm : Bool) (pg : PReg) (vd : VReg) (vs1 : VReg) (vs2 : VReg)
  /-- VFMSAC (R131): Element-wise fused multiply-subtract from vd. -/
  | vfmsac (pm : Bool) (pg : PReg) (vd : VReg) (vs1 : VReg) (vs2 : VReg)
  /-- VFSQRT (R131): Element-wise square root. -/
  | vfsqrt (pm : Bool) (pg : PReg) (vd : VReg) (vs1 : VReg)
  /-- VFNEG (R131): Element-wise sign inversion. -/
  | vfneg (pm : Bool) (pg : PReg) (vd : VReg) (vs1 : VReg)
  /-- VFABS (R131): Element-wise sign clearing. -/
  | vfabs (pm : Bool) (pg : PReg) (vd : VReg) (vs1 : VReg)
  /-- VFADD_VX (R131): Adds a scalar float to every active element. -/
  | vfaddVx (pm : Bool) (pg : PReg) (vd : VReg) (vs1 : VReg) (rs : SReg)
  /-- VFMUL_VX (R131): Multiplies every active element by a scalar float. -/
  | vfmulVx (pm : Bool) (pg : PReg) (vd : VReg) (vs1 : VReg) (rs : SReg)
  /-- VFMACC_VX (R131): Fused multiply-add with a scalar float. -/
  | vfmaccVx (pm : Bool) (pg : PReg) (vd : VReg) (vs1 : VReg) (rs : SReg)
  /-- VFMV_VX (R131): Copies a scalar float to every active element. -/
  | vfmvVx (pm : Bool) (pg : PReg) (vd : VReg) (rs : SReg)
  /-- VDEQ (R136): Dequantises AQ4 or AQ8 codes with group descriptors. -/
  | vdeq (aq8 : Bool) (grp : BitVec 2) (pm : Bool) (pg : PReg) (vd : VReg) (vs1 : VReg) (vs2 : VReg)
  /-- VQUANT (R136): Quantises floating-point elements into AQ4 or AQ8 codes. -/
  | vquant (aq8 : Bool) (grp : BitVec 2) (pm : Bool) (pg : PReg) (vd : VReg) (vs1 : VReg) (vs2 : VReg)
  /-- VWMACC (R133): Widening signed multiply-accumulate into a register pair. -/
  | vwmacc (pm : Bool) (pg : PReg) (vdp : BitVec 4) (vs1 : VReg) (vs2 : VReg)
  /-- VWMACCU (R133): Widening unsigned multiply-accumulate. -/
  | vwmaccu (pm : Bool) (pg : PReg) (vdp : BitVec 4) (vs1 : VReg) (vs2 : VReg)
  /-- VWMACCSU (R133): Widening signed-by-unsigned multiply-accumulate. -/
  | vwmaccsu (pm : Bool) (pg : PReg) (vdp : BitVec 4) (vs1 : VReg) (vs2 : VReg)
  /-- VFWMACC (R133): Widening floating-point multiply-accumulate. -/
  | vfwmacc (pm : Bool) (pg : PReg) (vdp : BitVec 4) (vs1 : VReg) (vs2 : VReg)
  /-- VBFWMACC (R133): Widening BF16 multiply-accumulate into FP32. -/
  | vbfwmacc (pm : Bool) (pg : PReg) (vdp : BitVec 4) (vs1 : VReg) (vs2 : VReg)
  /-- VWMUL (R133): Widening signed multiply. -/
  | vwmul (pm : Bool) (pg : PReg) (vdp : BitVec 4) (vs1 : VReg) (vs2 : VReg)
  /-- VWMULU (R133): Widening unsigned multiply. -/
  | vwmulu (pm : Bool) (pg : PReg) (vdp : BitVec 4) (vs1 : VReg) (vs2 : VReg)
  /-- VFWMUL (R133): Widening floating-point multiply. -/
  | vfwmul (pm : Bool) (pg : PReg) (vdp : BitVec 4) (vs1 : VReg) (vs2 : VReg)
  /-- VNCVT (R134): Narrows keeping the low half of each element. -/
  | vncvt (pm : Bool) (pg : PReg) (vd : VReg) (vs1 : VReg)
  /-- VNCLIP (R134): Narrows with signed saturation. -/
  | vnclip (pm : Bool) (pg : PReg) (vd : VReg) (vs1 : VReg)
  /-- VNCLIPU (R134): Narrows with unsigned saturation. -/
  | vnclipu (pm : Bool) (pg : PReg) (vd : VReg) (vs1 : VReg)
  /-- VFCVT (R135): Converts native floats to a named float format. -/
  | vfcvt (pm : Bool) (pg : PReg) (vd : VReg) (vs1 : VReg) (fmt : BitVec 5)
  /-- VFCVT_X (R135): Converts native floats to signed integers. -/
  | vfcvtX (pm : Bool) (pg : PReg) (vd : VReg) (vs1 : VReg)
  /-- VFCVT_F (R135): Converts signed integers to a named float format. -/
  | vfcvtF (pm : Bool) (pg : PReg) (vd : VReg) (vs1 : VReg) (fmt : BitVec 5)
  /-- VREDSUM (R137): Integer sum reduction into element 0. -/
  | vredsum (pm : Bool) (pg : PReg) (vd : VReg) (vs1 : VReg) (vs2 : VReg)
  /-- VREDMAX (R137): Signed maximum reduction. -/
  | vredmax (pm : Bool) (pg : PReg) (vd : VReg) (vs1 : VReg) (vs2 : VReg)
  /-- VREDMIN (R137): Signed minimum reduction. -/
  | vredmin (pm : Bool) (pg : PReg) (vd : VReg) (vs1 : VReg) (vs2 : VReg)
  /-- VREDMAXU (R137): Unsigned maximum reduction. -/
  | vredmaxu (pm : Bool) (pg : PReg) (vd : VReg) (vs1 : VReg) (vs2 : VReg)
  /-- VREDMINU (R137): Unsigned minimum reduction. -/
  | vredminu (pm : Bool) (pg : PReg) (vd : VReg) (vs1 : VReg) (vs2 : VReg)
  /-- VFREDSUM_O (R41): Ordered floating-point sum reduction. -/
  | vfredsumO (pm : Bool) (pg : PReg) (vd : VReg) (vs1 : VReg) (vs2 : VReg)
  /-- VFREDSUM_T (R41): Tree-ordered floating-point sum reduction. -/
  | vfredsumT (pm : Bool) (pg : PReg) (vd : VReg) (vs1 : VReg) (vs2 : VReg)
  /-- VFREDMAX (R137): Floating-point maximum reduction. -/
  | vfredmax (pm : Bool) (pg : PReg) (vd : VReg) (vs1 : VReg) (vs2 : VReg)
  /-- VFREDMIN (R137): Floating-point minimum reduction. -/
  | vfredmin (pm : Bool) (pg : PReg) (vd : VReg) (vs1 : VReg) (vs2 : VReg)
  /-- VSCAN (R137): Inclusive integer scan. -/
  | vscan (pm : Bool) (pg : PReg) (vd : VReg) (vs1 : VReg) (vs2 : VReg)
  /-- VFSCAN (R137): Inclusive sequential floating-point scan. -/
  | vfscan (pm : Bool) (pg : PReg) (vd : VReg) (vs1 : VReg) (vs2 : VReg)
  /-- VRGATHER (R138): Gathers elements of vs1 by indices in vs2. -/
  | vrgather (pm : Bool) (pg : PReg) (vd : VReg) (vs1 : VReg) (vs2 : VReg)
  /-- VCOMPRESS (R139): Packs active elements to the front of vd. -/
  | vcompress (pm : Bool) (pg : PReg) (vd : VReg) (vs1 : VReg)
  /-- VIOTA (R138): Writes counts of set predicate bits below each element. -/
  | viota (pm : Bool) (pg : PReg) (vd : VReg)
  /-- VID (R138): Writes each element's index. -/
  | vid (pm : Bool) (pg : PReg) (vd : VReg)
  /-- VSLIDEUP (R138): Slides elements up by a scalar amount. -/
  | vslideup (pm : Bool) (pg : PReg) (vd : VReg) (vs1 : VReg) (rs : SReg)
  /-- VSLIDEDN (R138): Slides elements down by a scalar amount. -/
  | vslidedn (pm : Bool) (pg : PReg) (vd : VReg) (vs1 : VReg) (rs : SReg)
  /-- VSLIDE1UP (R138): Slides up by one inserting a scalar at element 0. -/
  | vslide1up (pm : Bool) (pg : PReg) (vd : VReg) (vs1 : VReg) (rs : SReg)
  /-- VSLIDE1DN (R138): Slides down by one inserting a scalar at the top. -/
  | vslide1dn (pm : Bool) (pg : PReg) (vd : VReg) (vs1 : VReg) (rs : SReg)
  /-- VMV_XS (R140): Moves element 0 to a scalar register. -/
  | vmvXs (rs : SReg) (vs1 : VReg)
  /-- VMV_SX (R140): Moves a scalar into element 0. -/
  | vmvSx (vd : VReg) (rs : SReg)
  /-- VEXP2 (R141): Correctly rounded 2 to the power x per element. -/
  | vexp2 (pm : Bool) (pg : PReg) (vd : VReg) (vs1 : VReg)
  /-- VLOG2 (R141): Correctly rounded log2 per element. -/
  | vlog2 (pm : Bool) (pg : PReg) (vd : VReg) (vs1 : VReg)
  /-- VRCP (R141): Correctly rounded reciprocal per element. -/
  | vrcp (pm : Bool) (pg : PReg) (vd : VReg) (vs1 : VReg)
  /-- VRSQRT (R141): Correctly rounded reciprocal square root. -/
  | vrsqrt (pm : Bool) (pg : PReg) (vd : VReg) (vs1 : VReg)
  /-- VSIN (R141): Correctly rounded sine. -/
  | vsin (pm : Bool) (pg : PReg) (vd : VReg) (vs1 : VReg)
  /-- VCOS (R141): Correctly rounded cosine. -/
  | vcos (pm : Bool) (pg : PReg) (vd : VReg) (vs1 : VReg)
  /-- VTANH (R141): Correctly rounded hyperbolic tangent. -/
  | vtanh (pm : Bool) (pg : PReg) (vd : VReg) (vs1 : VReg)
  /-- VERF (R141): Correctly rounded error function. -/
  | verf (pm : Bool) (pg : PReg) (vd : VReg) (vs1 : VReg)
  /-- VMSEQ (R142): Sets predicate bits on element equality. -/
  | vmseq (pm : Bool) (pg : PReg) (pd : PReg) (vs1 : VReg) (vs2 : VReg)
  /-- VMSNE (R142): Sets predicate bits on inequality. -/
  | vmsne (pm : Bool) (pg : PReg) (pd : PReg) (vs1 : VReg) (vs2 : VReg)
  /-- VMSLT (R142): Sets predicate bits on signed less-than. -/
  | vmslt (pm : Bool) (pg : PReg) (pd : PReg) (vs1 : VReg) (vs2 : VReg)
  /-- VMSLE (R142): Sets predicate bits on signed less-or-equal. -/
  | vmsle (pm : Bool) (pg : PReg) (pd : PReg) (vs1 : VReg) (vs2 : VReg)
  /-- VMSLTU (R142): Sets predicate bits on unsigned less-than. -/
  | vmsltu (pm : Bool) (pg : PReg) (pd : PReg) (vs1 : VReg) (vs2 : VReg)
  /-- VMSLEU (R142): Sets predicate bits on unsigned less-or-equal. -/
  | vmsleu (pm : Bool) (pg : PReg) (pd : PReg) (vs1 : VReg) (vs2 : VReg)
  /-- VMFEQ (R142): Sets predicate bits on floating-point equality. -/
  | vmfeq (pm : Bool) (pg : PReg) (pd : PReg) (vs1 : VReg) (vs2 : VReg)
  /-- VMFLT (R142): Sets predicate bits on floating-point less-than. -/
  | vmflt (pm : Bool) (pg : PReg) (pd : PReg) (vs1 : VReg) (vs2 : VReg)
  /-- VMFLE (R142): Sets predicate bits on floating-point less-or-equal. -/
  | vmfle (pm : Bool) (pg : PReg) (pd : PReg) (vs1 : VReg) (vs2 : VReg)
  /-- VMFUN (R142): Sets predicate bits where either element is NaN. -/
  | vmfun (pm : Bool) (pg : PReg) (pd : PReg) (vs1 : VReg) (vs2 : VReg)
  /-- PAND (R143): ANDs two predicates. -/
  | pand (pg : PReg) (pd : PReg) (pa : PReg) (pb : PReg)
  /-- POR (R143): ORs two predicates. -/
  | por (pg : PReg) (pd : PReg) (pa : PReg) (pb : PReg)
  /-- PXOR (R143): XORs two predicates. -/
  | pxor (pg : PReg) (pd : PReg) (pa : PReg) (pb : PReg)
  /-- PANDN (R143): ANDs a predicate with the complement of another. -/
  | pandn (pg : PReg) (pd : PReg) (pa : PReg) (pb : PReg)
  /-- PNOT (R143): Complements a predicate. -/
  | pnot (pg : PReg) (pd : PReg) (pa : PReg)
  /-- PCUT (R143): Sets bits up to and including the first set bit. -/
  | pcut (pg : PReg) (pd : PReg) (pa : PReg)
  /-- PFIND (R143): Writes the index of the lowest set active bit. -/
  | pfind (pg : PReg) (rd : SReg) (pa : PReg)
  /-- PPOPC (R143): Writes the number of set active bits. -/
  | ppopc (pg : PReg) (rd : SReg) (pa : PReg)
  /-- PSETN (R143): Builds a predicate of the first n bits. -/
  | psetn (pg : PReg) (pd : PReg) (rs : SReg)
  /-- PANY (R143): Sets a condition bit if any active bit is set. -/
  | pany (pg : PReg) (kd : KReg) (pa : PReg)
  /-- VLD (R144): Unit-stride vector load with bit offset. -/
  | vld (pm : Bool) (pg : PReg) (v : VReg) (base : SReg) (b : BitVec 3)
  /-- VLDS (R144): Strided vector load. -/
  | vlds (pm : Bool) (pg : PReg) (v : VReg) (base : SReg) (rs : SReg)
  /-- VLDX (R144): Indexed vector load. -/
  | vldx (pm : Bool) (pg : PReg) (v : VReg) (base : SReg) (vi : VReg)
  /-- VLDFF (R147): First-fault unit-stride load that may shorten VL. -/
  | vldff (pm : Bool) (pg : PReg) (v : VReg) (base : SReg) (b : BitVec 3)
  /-- VST (R146): Unit-stride vector store. -/
  | vst (pm : Bool) (pg : PReg) (v : VReg) (base : SReg) (b : BitVec 3)
  /-- VSTS (R146): Strided vector store. -/
  | vsts (pm : Bool) (pg : PReg) (v : VReg) (base : SReg) (rs : SReg)
  /-- VSTX (R146): Indexed vector store. -/
  | vstx (pm : Bool) (pg : PReg) (v : VReg) (base : SReg) (vi : VReg)
  /-- VSTR (R149): Vector store to a remote scratchpad in line packets. -/
  | vstr (pm : Bool) (pg : PReg) (v : VReg) (base : SReg) (b : BitVec 3)
  /-- VLDBC (R148): Loads one element and broadcasts it. -/
  | vldbc (pm : Bool) (pg : PReg) (v : VReg) (base : SReg)
  /-- VLDSR (R148): Slides vd down and loads the vacated tail. -/
  | vldsr (v : VReg) (base : SReg) (rs : SReg)
  /-- MLD (R161): Fills the shadow plane from the scratchpad. -/
  | mld (rsa : SReg) (rsb : SReg)
  /-- MSWP (R162): Exchanges the active and shadow planes. -/
  | mswp
  /-- MMA (R163): Streams A rows past a PLAIN or BLOCK plane into C. -/
  | mma (rsc : SReg) (rsa : SReg) (rsb : SReg)
  /-- MMAS (R163): Row-streaming product with a SPARSE plane. -/
  | mmas (rsc : SReg) (rsa : SReg) (rsb : SReg)
  /-- MQMA (R163): Row-streaming product with an AQ plane. -/
  | mqma (rsc : SReg) (rsa : SReg) (rsb : SReg)
  /-- MMROT (R165): Product then sends A west and B north to neighbours. -/
  | mmrot (rsc : SReg) (rsa : SReg) (rsb : SReg)
  /-- MZERO (R164): Zeroes M accumulator rows. -/
  | mzero (rsc : SReg) (rsb : SReg)
  /-- MCFG (R160): Writes the matrix configuration. -/
  | mcfg (rsa : SReg)
  /-- CPYSET (R168): Writes a copy shadow field of a channel. -/
  | cpyset (c : Chan) (f : BitVec 6) (rs1 : SReg)
  /-- ACK (R172): Acknowledges the fault of a named transfer. -/
  | ack (c : Chan) (rs1 : SReg)
  /-- CPYGO (R168): Snapshots, checks and starts a copy transfer. -/
  | cpygo (c : Chan) (rd : SReg)
  /-- CPYST (R172): Reads the channel status. -/
  | cpyst (c : Chan) (rd : SReg)
  /-- CPYWAIT (R173): Waits for a transfer to complete or fault. -/
  | cpywait (c : Chan) (rs1 : SReg)
  /-- CPYMM (R171): Starts a copy with a follow-on matrix command. -/
  | cpymm (c : Chan) (rd : SReg) (rs1 : SReg)
  /-- FORK (R181): Opens a speculative fork region from a fork record. -/
  | fork (rs1 : SReg)
  /-- FORKA (R181): Opens an assured fork region. -/
  | forka (rs1 : SReg)
  /-- CEND (R185): Ends a chunk body, forwarding live-ins and committing. -/
  | cend
  /-- JOIN (R184): Waits for the region to complete and takes the last chunk's state. -/
  | join
  /-- FWD (R186): Forwards a live-in to the next chunk at once. -/
  | fwd (n : BitVec 3)
  /-- NSPEC (R187): Waits for the Ensign and makes the chunk non-speculative. -/
  | nspec
  /-- FRZ (R194): Freezes a region and records a Vitrine entry. -/
  | frz (rd : SReg) (rs1 : SReg) (rs2 : SReg)
  /-- THAW (R195): Lowers depth or begins collection and issues a ticket. -/
  | thaw (rd : SReg) (rs1 : SReg)
  /-- THAWQ (R196): Waits until THAWTKT reaches a ticket. -/
  | thawq (rd : SReg) (rs1 : SReg)
  /-- SEQLD (R198): Loads a whole vector register from 512 bytes. -/
  | seqld (v : VReg) (rs1 : SReg)
  /-- SEQST (R198): Stores a whole vector register as 512 bytes. -/
  | seqst (v : VReg) (rs1 : SReg)
  /-- SEND (R189): Queues a 64-byte message to a destination. -/
  | send (rs1 : SReg) (rs2 : SReg)
  /-- SENDV (R189): Queues a message carrying vector bytes. -/
  | sendv (rs1 : SReg) (vs : VReg) (rs2 : SReg)
  /-- REPLY (R190): Sends the handler's reply and consumes its token. -/
  | reply (rs1 : SReg) (rs2 : SReg)
  /-- HBIND (R191): Binds or unbinds a message class. -/
  | hbind (rs1 : SReg) (rs2 : SReg)
  /-- HEND (R191): Ends the handler and discards its registers. -/
  | hend
  /-- SYSRD (R199): Reads a system register. -/
  | sysrd (num : BitVec 12) (reg : SReg)
  /-- SYSWR (R199): Writes a system register that has no behaviour of its own. -/
  | syswr (num : BitVec 12) (reg : SReg)
  /-- TRAP (R199): Raises the trap-instruction cause; trap 0 ends the launch. -/
  | trap (imm : BitVec 12)
  /-- ERET (R363): Returns from a trap to EPC, restoring bank and loop stack. -/
  | eret
  /-- BRK (R199): Raises the breakpoint cause. -/
  | brk (imm : BitVec 12)
  /-- HALT (R200): Stops issue until an event arrives or consumes a pending one. -/
  | halt
  /-- NOP (R199): No effect. -/
  | nop
  /-- TLBINV_PAGE (R311): Invalidates translations of one page of an ASID. -/
  | tlbinvPage (rs : SReg)
  /-- TLBINV_ASID (R311): Invalidates every translation of an ASID. -/
  | tlbinvAsid (rs : SReg)
  /-- TLBINV_ALL (R311): Invalidates every translation. -/
  | tlbinvAll (rs : SReg)
  /-- STOP (R316): ctxsv STOP brings a ring's activities to their stop points. -/
  | stop (rs : SReg)
  /-- SAVE (R319): ctxsv SAVE writes a stopped ring to its save area. -/
  | save (rs : SReg)
  /-- RESTORE (R321): ctxsv RESTORE writes the save area back and releases the ring. -/
  | restore (rs : SReg)
  /-- ABORT (R318): ctxsv ABORT stops the ring and discards its launch. -/
  | abort (rs : SReg)
  /-- CCLEAN (R201): Writes the newest committed line value to its home. -/
  | cclean (rs : SReg)
  /-- CINV (R201): Cleans a line then invalidates its non-frozen copies. -/
  | cinv (rs : SReg)
  /-- IINV (R201): Invalidates the core's instruction cache. -/
  | iinv
  /-- C_ADDI (R63): Compact add immediate. -/
  | cAddi (rd : SReg) (imm : BitVec 4)
  /-- C_LI (R63): Compact load immediate. -/
  | cLi (rd : SReg) (imm : BitVec 4)
  /-- C_SLLI (R63): Compact shift left. -/
  | cSlli (rd : SReg) (n : BitVec 4)
  /-- C_SRLI (R63): Compact logical shift right. -/
  | cSrli (rd : SReg) (n : BitVec 4)
  /-- C_SRAI (R63): Compact arithmetic shift right. -/
  | cSrai (rd : SReg) (n : BitVec 4)
  /-- C_ANDI (R63): Compact AND immediate. -/
  | cAndi (rd : SReg) (imm : BitVec 4)
  /-- C_MV (R63): Compact register move. -/
  | cMv (rd : SReg) (rs : SReg)
  /-- C_ADD (R63): Compact add. -/
  | cAdd (rd : SReg) (rs : SReg)
  /-- C_SUB (R63): Compact subtract. -/
  | cSub (rd : SReg) (rs : SReg)
  /-- C_AND (R63): Compact AND. -/
  | cAnd (rd : SReg) (rs : SReg)
  /-- C_NOP (R63): Compact no-operation. -/
  | cNop
  /-- C_J (R63): Compact jump. -/
  | cJ (off : BitVec 11)
  /-- C_JR (R63): Compact jump to register. -/
  | cJr (rs : SReg)
  /-- C_HEND (R63): Compact hend. -/
  | cHend
  /-- C_NSPEC (R63): Compact nspec. -/
  | cNspec
  /-- C_CEND (R63): Compact cend. -/
  | cCend
  /-- C_BRK (R63): Compact brk 0. -/
  | cBrk
  /-- C_BNEZ (R63): Compact branch if non-zero. -/
  | cBnez (rs : SReg) (off : BitVec 5)
  /-- C_BEQZ (R63): Compact branch if zero. -/
  | cBeqz (rs : SReg) (off : BitVec 5)
  /-- C_BKT (R63): Compact branch if condition bit set. -/
  | cBkt (k : KReg) (off : BitVec 8)
  /-- C_BKF (R63): Compact branch if condition bit clear. -/
  | cBkf (k : KReg) (off : BitVec 8)
  deriving DecidableEq, Repr

end Sys2Proof
end

