-- ==== Sys2Proof/WellFormed.lean ====
section
/-! DEFINITION. The checks that an instruction's field values pass: every value that the encoding chapter reserves
(R50, R54–R64) is refused here. An event's operands name agents that the package has (R3). -/

namespace Sys2Proof

/-- True when no field holds a reserved value. -/
def Instr.wellFormed : Instr → Bool
  | .add _ _ _ _ => true
  | .sub _ _ _ _ => true
  | .and _ _ _ _ => true
  | .or _ _ _ _ => true
  | .xor _ _ _ _ => true
  | .andn _ _ _ _ => true
  | .sll _ _ _ _ => true
  | .srl _ _ _ _ => true
  | .sra _ _ _ _ => true
  | .rol _ _ _ _ => true
  | .min _ _ _ _ => true
  | .max _ _ _ _ => true
  | .minu _ _ _ _ => true
  | .maxu _ _ _ _ => true
  | .mul _ _ _ _ => true
  | .mulh _ _ _ _ => true
  | .mulhu _ _ _ _ => true
  | .mulhsu _ _ _ _ => true
  | .div _ _ _ _ => true
  | .divu _ _ _ _ => true
  | .rem _ _ _ _ => true
  | .remu _ _ _ _ => true
  | .clz _ _ _ => true
  | .ctz _ _ _ => true
  | .popc _ _ _ => true
  | .rev8 _ _ _ => true
  | .bfxu _ _ pos len => decide (pos.toNat + len.toNat + 1 ≤ 64)
  | .bfxs _ _ pos len => decide (pos.toNat + len.toNat + 1 ≤ 64)
  | .bfi _ _ pos len => decide (pos.toNat + len.toNat + 1 ≤ 64)
  | .slli w _ _ n => decide (w = false ∨ n.toNat < 32)
  | .srli w _ _ n => decide (w = false ∨ n.toNat < 32)
  | .srai w _ _ n => decide (w = false ∨ n.toNat < 32)
  | .rori w _ _ n => decide (w = false ∨ n.toNat < 32)
  | .addi _ _ _ => true
  | .andi _ _ _ => true
  | .ori _ _ _ => true
  | .xori _ _ _ => true
  | .li _ _ => true
  | .lih _ _ => true
  | .leaPc _ _ => true
  | .lea _ _ _ _ => true
  | .keq _ _ _ _ => true
  | .kne _ _ _ _ => true
  | .klt _ _ _ _ => true
  | .kge _ _ _ _ => true
  | .kltu _ _ _ _ => true
  | .kgeu _ _ _ _ => true
  | .kand _ _ _ => true
  | .kor _ _ _ => true
  | .kxor _ _ _ => true
  | .kset _ _ => true
  | .sel _ _ _ _ => true
  | .fadd _ _ _ _ => true
  | .fsub _ _ _ _ => true
  | .fmul _ _ _ _ => true
  | .fdiv _ _ _ _ => true
  | .fsqrt _ _ _ => true
  | .fmin _ _ _ _ => true
  | .fmax _ _ _ _ => true
  | .fmacc _ _ _ _ => true
  | .fmsac _ _ _ _ => true
  | .fneg _ _ _ => true
  | .fabs _ _ _ => true
  | .kfeq _ _ _ _ => true
  | .kflt _ _ _ _ => true
  | .kfle _ _ _ _ => true
  | .kfun _ _ _ _ => true
  | .fcvtSD rm _ _ => decide (rm ≠ 5 ∧ rm ≠ 6)
  | .fcvtDS _ _ => true
  | .fcvtLF _ rm _ _ => decide (rm ≠ 5 ∧ rm ≠ 6)
  | .fcvtLuF _ rm _ _ => decide (rm ≠ 5 ∧ rm ≠ 6)
  | .fcvtFL _ rm _ _ => decide (rm ≠ 5 ∧ rm ≠ 6)
  | .fcvtFLu _ rm _ _ => decide (rm ≠ 5 ∧ rm ≠ 6)
  | .fcvtWF _ rm _ _ => decide (rm ≠ 5 ∧ rm ≠ 6)
  | .fcvtFW _ rm _ _ => decide (rm ≠ 5 ∧ rm ≠ 6)
  | .beq _ _ _ => true
  | .bne _ _ _ => true
  | .blt _ _ _ => true
  | .bge _ _ _ => true
  | .bltu _ _ _ => true
  | .bgeu _ _ _ => true
  | .bkt _ _ => true
  | .bkf _ _ => true
  | .jal _ _ => true
  | .jalr _ _ _ => true
  | .loop _ off => decide (2 ≤ off.toNat)
  | .loopi _ off => decide (2 ≤ off.toNat)
  | .ld _ _ _ _ => true
  | .ldu sz _ _ _ => decide (sz ≠ 3)
  | .st _ _ _ _ => true
  | .ldo ord sc x sz _ _ _ => decide (ord ≠ 2 ∧ sc.toNat ≤ 4 ∧ ¬(x = true ∧ sz = 3))
  | .sto ord sc _ _ _ _ => decide (ord ≠ 1 ∧ sc.toNat ≤ 4)
  | .amSwap _ _ _ _ _ => true
  | .amAdd _ _ _ _ _ => true
  | .amAnd _ _ _ _ _ => true
  | .amOr _ _ _ _ _ => true
  | .amXor _ _ _ _ _ => true
  | .amMin _ _ _ _ _ => true
  | .amMax _ _ _ _ _ => true
  | .amMinu _ _ _ _ _ => true
  | .amMaxu _ _ _ _ _ => true
  | .amCas _ _ _ _ _ => true
  | .farSwap _ _ _ _ => true
  | .farAdd _ _ _ _ => true
  | .farAnd _ _ _ _ => true
  | .farOr _ _ _ _ => true
  | .farXor _ _ _ _ => true
  | .farMin _ _ _ _ => true
  | .farMax _ _ _ _ => true
  | .farMinu _ _ _ _ => true
  | .farMaxu _ _ _ _ => true
  | .farCas _ _ _ _ => true
  | .yld _ _ => true
  | .yst _ _ => true
  | .yts _ _ => true
  | .yfad _ _ => true
  | .ybar _ _ => true
  | .yldX _ _ => true
  | .ystX _ _ => true
  | .ytsX _ _ => true
  | .yfadX _ _ _ => true
  | .ybarX _ _ => true
  | .swait _ _ => true
  | .fence _ sc => decide (sc.toNat ≤ 4)
  | .fenceX sc pa pb => decide (pa ≠ 0 ∧ pb ≠ 0 ∧ sc.toNat ≤ 4)
  | .vdrain => true
  | .setvl ew _ _ => decide (ew.toNat ≤ 5)
  | .setvli ew _ _ => decide (ew.toNat ≤ 5)
  | .vadd _ _ _ _ _ => true
  | .vsub _ _ _ _ _ => true
  | .vmul _ _ _ _ _ => true
  | .vmulh _ _ _ _ _ => true
  | .vand _ _ _ _ _ => true
  | .vor _ _ _ _ _ => true
  | .vxor _ _ _ _ _ => true
  | .vsll _ _ _ _ _ => true
  | .vsrl _ _ _ _ _ => true
  | .vsra _ _ _ _ _ => true
  | .vmin _ _ _ _ _ => true
  | .vmax _ _ _ _ _ => true
  | .vminu _ _ _ _ _ => true
  | .vmaxu _ _ _ _ _ => true
  | .vsadd _ _ _ _ _ => true
  | .vssub _ _ _ _ _ => true
  | .vaddVx _ _ _ _ _ => true
  | .vsubVx _ _ _ _ _ => true
  | .vmulVx _ _ _ _ _ => true
  | .vandVx _ _ _ _ _ => true
  | .vsllVx _ _ _ _ _ => true
  | .vsrlVx _ _ _ _ _ => true
  | .vsraVx _ _ _ _ _ => true
  | .vmvVx _ _ _ _ => true
  | .vfadd _ _ _ _ _ => true
  | .vfsub _ _ _ _ _ => true
  | .vfmul _ _ _ _ _ => true
  | .vfdiv _ _ _ _ _ => true
  | .vfmin _ _ _ _ _ => true
  | .vfmax _ _ _ _ _ => true
  | .vfmacc _ _ _ _ _ => true
  | .vfmsac _ _ _ _ _ => true
  | .vfsqrt _ _ _ _ => true
  | .vfneg _ _ _ _ => true
  | .vfabs _ _ _ _ => true
  | .vfaddVx _ _ _ _ _ => true
  | .vfmulVx _ _ _ _ _ => true
  | .vfmaccVx _ _ _ _ _ => true
  | .vfmvVx _ _ _ _ => true
  | .vdeq _ grp _ _ _ _ _ => decide (grp ≠ 3)
  | .vquant _ grp _ _ _ _ _ => decide (grp ≠ 3)
  | .vwmacc _ _ _ _ _ => true
  | .vwmaccu _ _ _ _ _ => true
  | .vwmaccsu _ _ _ _ _ => true
  | .vfwmacc _ _ _ _ _ => true
  | .vbfwmacc _ _ _ _ _ => true
  | .vwmul _ _ _ _ _ => true
  | .vwmulu _ _ _ _ _ => true
  | .vfwmul _ _ _ _ _ => true
  | .vncvt _ _ _ _ => true
  | .vnclip _ _ _ _ => true
  | .vnclipu _ _ _ _ => true
  | .vfcvt _ _ _ _ fmt => decide (fmt.toNat ≤ 8)
  | .vfcvtX _ _ _ _ => true
  | .vfcvtF _ _ _ _ fmt => decide (fmt.toNat ≤ 8)
  | .vredsum _ _ _ _ _ => true
  | .vredmax _ _ _ _ _ => true
  | .vredmin _ _ _ _ _ => true
  | .vredmaxu _ _ _ _ _ => true
  | .vredminu _ _ _ _ _ => true
  | .vfredsumO _ _ _ _ _ => true
  | .vfredsumT _ _ _ _ _ => true
  | .vfredmax _ _ _ _ _ => true
  | .vfredmin _ _ _ _ _ => true
  | .vscan _ _ _ _ _ => true
  | .vfscan _ _ _ _ _ => true
  | .vrgather _ _ _ _ _ => true
  | .vcompress _ _ _ _ => true
  | .viota _ _ _ => true
  | .vid _ _ _ => true
  | .vslideup _ _ _ _ _ => true
  | .vslidedn _ _ _ _ _ => true
  | .vslide1up _ _ _ _ _ => true
  | .vslide1dn _ _ _ _ _ => true
  | .vmvXs _ _ => true
  | .vmvSx _ _ => true
  | .vexp2 _ _ _ _ => true
  | .vlog2 _ _ _ _ => true
  | .vrcp _ _ _ _ => true
  | .vrsqrt _ _ _ _ => true
  | .vsin _ _ _ _ => true
  | .vcos _ _ _ _ => true
  | .vtanh _ _ _ _ => true
  | .verf _ _ _ _ => true
  | .vmseq _ _ _ _ _ => true
  | .vmsne _ _ _ _ _ => true
  | .vmslt _ _ _ _ _ => true
  | .vmsle _ _ _ _ _ => true
  | .vmsltu _ _ _ _ _ => true
  | .vmsleu _ _ _ _ _ => true
  | .vmfeq _ _ _ _ _ => true
  | .vmflt _ _ _ _ _ => true
  | .vmfle _ _ _ _ _ => true
  | .vmfun _ _ _ _ _ => true
  | .pand _ _ _ _ => true
  | .por _ _ _ _ => true
  | .pxor _ _ _ _ => true
  | .pandn _ _ _ _ => true
  | .pnot _ _ _ => true
  | .pcut _ _ _ => true
  | .pfind _ _ _ => true
  | .ppopc _ _ _ => true
  | .psetn _ _ _ => true
  | .pany _ _ _ => true
  | .vld _ _ _ _ _ => true
  | .vlds _ _ _ _ _ => true
  | .vldx _ _ _ _ _ => true
  | .vldff _ _ _ _ _ => true
  | .vst _ _ _ _ _ => true
  | .vsts _ _ _ _ _ => true
  | .vstx _ _ _ _ _ => true
  | .vstr _ _ _ _ _ => true
  | .vldbc _ _ _ _ => true
  | .vldsr _ _ _ => true
  | .mld _ _ => true
  | .mswp => true
  | .mma _ _ _ => true
  | .mmas _ _ _ => true
  | .mqma _ _ _ => true
  | .mmrot _ _ _ => true
  | .mzero _ _ => true
  | .mcfg _ => true
  | .cpyset _ f _ => decide (f.toNat ≤ 10)
  | .ack _ _ => true
  | .cpygo _ _ => true
  | .cpyst _ _ => true
  | .cpywait _ _ => true
  | .cpymm _ _ _ => true
  | .fork _ => true
  | .forka _ => true
  | .cend => true
  | .join => true
  | .fwd _ => true
  | .nspec => true
  | .frz _ _ _ => true
  | .thaw _ _ => true
  | .thawq _ _ => true
  | .seqld _ _ => true
  | .seqst _ _ => true
  | .send _ rs2 => decide (rs2.toNat ≤ 56)
  | .sendv _ _ _ => true
  | .reply _ rs2 => decide (rs2.toNat ≤ 56)
  | .hbind _ _ => true
  | .hend => true
  | .sysrd _ _ => true
  | .syswr _ _ => true
  | .trap _ => true
  | .eret => true
  | .brk _ => true
  | .halt => true
  | .nop => true
  | .tlbinvPage _ => true
  | .tlbinvAsid _ => true
  | .tlbinvAll _ => true
  | .stop _ => true
  | .save _ => true
  | .restore _ => true
  | .abort _ => true
  | .cclean _ => true
  | .cinv _ => true
  | .iinv => true
  | .cAddi rd _ => decide (rd ≠ 0)
  | .cLi rd _ => decide (rd ≠ 0)
  | .cSlli rd _ => decide (rd ≠ 0)
  | .cSrli rd _ => decide (rd ≠ 0)
  | .cSrai rd _ => decide (rd ≠ 0)
  | .cAndi rd _ => decide (rd ≠ 0)
  | .cMv rd _ => decide (rd ≠ 0)
  | .cAdd rd _ => decide (rd ≠ 0)
  | .cSub rd _ => decide (rd ≠ 0)
  | .cAnd rd _ => decide (rd ≠ 0)
  | .cNop => true
  | .cJ _ => true
  | .cJr _ => true
  | .cHend => true
  | .cNspec => true
  | .cCend => true
  | .cBrk => true
  | .cBnez _ _ => true
  | .cBeqz _ _ => true
  | .cBkt _ _ => true
  | .cBkf _ _ => true
  | .syncMirrorUpdate die y _ => decide (die < Config.dies ∧ y < 49152)
  | .ybarRelease core => decide (core < Config.allCores)
  | .swaitReturn core => decide (core < Config.allCores)
  | .copyWrite core chan _ => decide (core < Config.allCores ∧ chan < 4)
  | .copyTransferComplete core chan _ => decide (core < Config.allCores ∧ chan < 4)
  | .copyFault core chan _ _ => decide (core < Config.allCores ∧ chan < 4)
  | .followOnCommand core chan _ => decide (core < Config.allCores ∧ chan < 4)
  | .copyRetranslate core chan _ => decide (core < Config.allCores ∧ chan < 4)
  | .cpywaitReturn core => decide (core < Config.allCores)
  | .syncWordCount w _ _ _ => decide (w.src < Config.allCores) && decide (w.core < Config.allCores)
  | .combineContribution _ => true
  | .combineTimeout die _ => decide (die < Config.dies)
  | .thawqReturn core => decide (core < Config.allCores)
  | .joinComplete ring => decide (ring < 96)
  | .chunkPlacement ring => decide (ring < 96)
  | .chunkStart ring _ => decide (ring < 96)
  | .liveInArrival ring _ _ _ => decide (ring < 96)
  | .versionProbe ring _ _ => decide (ring < 96)
  | .probeAnswer ring _ _ _ => decide (ring < 96)
  | .storeBroadcast ring _ _ _ _ => decide (ring < 96)
  | .squashNotice ring _ _ => decide (ring < 96)
  | .squashDiscarded ring => decide (ring < 96)
  | .broadcastAcknowledgement ring _ _ => decide (ring < 96)
  | .ensignArrival ring _ _ => decide (ring < 96)
  | .commitComplete ring _ => decide (ring < 96)
  | .messageArrival _ => true
  | .handlerDispatch core => decide (core < Config.allCores)
  | .handlerBudget core => decide (core < Config.allCores)
  | .farAtomicStep _ => true
  | .farAtomicReply _ _ => true
  | .remoteStorePacket _ => true
  | .remoteLoad _ => true
  | .mmrotPacket _ => true
  | .vtypeWrite _ => true
  | .seedWrite _ => true
  | .leaseWrite _ => true
  | .rndmWrite _ => true
  | .chkmodeWrite _ => true
  | .haltEvent core => decide (core < Config.allCores)
  | .ltsTick core => decide (core < Config.allCores)
  | .catalogueRd die _ => decide (die < Config.dies)
  | .catalogueRfo die _ => decide (die < Config.dies)
  | .catalogueUpg die _ => decide (die < Config.dies)
  | .evictionNotice die _ => decide (die < Config.dies)
  | .catalogueAnswer die _ _ => decide (die < Config.dies)
  | .forwardedRead owner die _ => decide (owner < Config.dies ∧ die < Config.dies)
  | .invalidate holder _ => decide (holder < Config.dies)
  | .recallLine holder _ => decide (holder < Config.dies)
  | .freezeConvert holder _ => decide (holder < Config.dies)
  | .mirrorWrite die _ _ _ _ _ => decide (die < Config.dies)
  | .mirrorAck die _ _ => decide (die < Config.dies)
  | .switchDieLoss xd => decide (xd < 4)
  | .stationLoss station => decide (station < 8)
  | .sealComplete entry => decide (entry < 512)
  | .ticketComplete _ => true
  | .launchGo _ ring => decide (ring < 96)
  | .broadcastGo _ => true
  | .flush ring _ => decide (ring < 96)
  | .launchFenceClear ring _ => decide (ring < 96)
  | .launchMessage _ => true
  | .launchStart ring => decide (ring < 96)
  | .launchComplete ring => decide (ring < 96)
  | .quantumExpiry ring => decide (ring < 96)
  | .timeoutExpiry ring => decide (ring < 96)
  | .policyWrite _ => true
  | .registerWrite _ _ => true
  | .apbaseWrite _ => true
  | .hostBar2Read _ _ _ => true
  | .hostBar2Write _ _ _ => true
  | .hostReadCompletion core ask _ =>
    decide (core < Config.allCores) && (match ask with
      | .context _ => true
      | .copy chan _ => decide (chan < 4))
  | .mailboxControlWrite _ _ _ => true
  | .mailboxMessage _ => true
  | .sendWindowGo _ => true
  | .syncWindowRead _ => true
  | .valWrite _ _ => true
  | .addWrite _ _ => true
  | .peerAccess _ _ => true
  | .peerMessage _ _ => true
  | .peerWriteAck _ _ => true
  | .computeDrop die => decide (die < Config.dies)
  | .fullDrop die => decide (die < Config.dies)
  | .patrolScrub _ => true
  | .frameReport _ => true
  | .temperatureReport die _ => decide (die < Config.dies)
  | .powerBudget die _ => decide (die < Config.dies)
  | .powerOn => true
  | .securityCounter _ => true
  | .spdmRequest _ => true
  | .endLaunch ring _ => decide (ring < 96)
  | .debugHalt core => decide (core < Config.allCores)
  | .release core => decide (core < Config.allCores)
  | .readState core _ => decide (core < Config.allCores)
  | .writeState core _ _ => decide (core < Config.allCores)
  | .readLog _ _ => true
  | .clearLog _ => true
  | .restoreDie die => decide (die < Config.dies)
  | .powerLimit _ => true
  | .reservedEncoding _ => true
  | .moduleReset => true
  | .bar2Resize _ => true
  | .linkRetraining _ _ => true
  | .peerCompletion _ _ => true
  | .faultPolicyWaitLimit core => decide (core < Config.allCores)
  | .firmwareImageUpdate _ => true

end Sys2Proof
end

