-- ==== Sys2Proof/Decode.lean ====
section
/-! DEFINITION. The decoder, total on any bytes (R48–R64), and after it the encoder, written from the same tables.
The definitions marked noncomputable build values of `Instr` whose constructor number is above 244, for which Lean's
compiler has no object layout; the kernel evaluates them like any other.
A 32-bit word is W[31:16] = `hi`, W[15:14] = 0b11, W[13:8] = the major opcode and W[7:0] = `lo`. -/

namespace Sys2Proof

/-- What the parcels at an address are (R48, R50, R51). -/
inductive Decoded where
  /-- An instruction and its length in bytes. -/
  | instr (i : Instr) (len : Nat)
  /-- Permanently illegal: the parcel 0x0000 or major opcode 0x3F (R50). -/
  | permanentlyIllegal (len : Nat)
  /-- A reserved encoding (R50, R64). -/
  | reserved (len : Nat)
  /-- Fewer bytes than the encoding needs. -/
  | truncated
  deriving DecidableEq, Repr

/-- Major opcode 0x01 (Tables 3.7 to 3.13). -/
def decAlu (hi lo : Nat) : Option Instr :=
  match hi % 16 with
  | 0 => if lo % 4 < 2 then some (.add (lo % 4 == 1) (BitVec.ofNat 6 (lo / 4)) (BitVec.ofNat 6 (hi / 1024)) (BitVec.ofNat 6 (hi / 16))) else none
  | 1 => if lo % 4 < 2 then some (.sub (lo % 4 == 1) (BitVec.ofNat 6 (lo / 4)) (BitVec.ofNat 6 (hi / 1024)) (BitVec.ofNat 6 (hi / 16))) else none
  | 2 => if lo % 4 < 2 then some (.and (lo % 4 == 1) (BitVec.ofNat 6 (lo / 4)) (BitVec.ofNat 6 (hi / 1024)) (BitVec.ofNat 6 (hi / 16))) else none
  | 3 => if lo % 4 < 2 then some (.or (lo % 4 == 1) (BitVec.ofNat 6 (lo / 4)) (BitVec.ofNat 6 (hi / 1024)) (BitVec.ofNat 6 (hi / 16))) else none
  | 4 => if lo % 4 < 2 then some (.xor (lo % 4 == 1) (BitVec.ofNat 6 (lo / 4)) (BitVec.ofNat 6 (hi / 1024)) (BitVec.ofNat 6 (hi / 16))) else none
  | 5 => if lo % 4 < 2 then some (.andn (lo % 4 == 1) (BitVec.ofNat 6 (lo / 4)) (BitVec.ofNat 6 (hi / 1024)) (BitVec.ofNat 6 (hi / 16))) else none
  | 6 => if lo % 4 < 2 then some (.sll (lo % 4 == 1) (BitVec.ofNat 6 (lo / 4)) (BitVec.ofNat 6 (hi / 1024)) (BitVec.ofNat 6 (hi / 16))) else none
  | 7 => if lo % 4 < 2 then some (.srl (lo % 4 == 1) (BitVec.ofNat 6 (lo / 4)) (BitVec.ofNat 6 (hi / 1024)) (BitVec.ofNat 6 (hi / 16))) else none
  | 8 => if lo % 4 < 2 then some (.sra (lo % 4 == 1) (BitVec.ofNat 6 (lo / 4)) (BitVec.ofNat 6 (hi / 1024)) (BitVec.ofNat 6 (hi / 16))) else none
  | 9 => if lo % 4 < 2 then some (.rol (lo % 4 == 1) (BitVec.ofNat 6 (lo / 4)) (BitVec.ofNat 6 (hi / 1024)) (BitVec.ofNat 6 (hi / 16))) else none
  | 10 => if lo % 4 < 2 then some (.min (lo % 4 == 1) (BitVec.ofNat 6 (lo / 4)) (BitVec.ofNat 6 (hi / 1024)) (BitVec.ofNat 6 (hi / 16))) else none
  | 11 => if lo % 4 < 2 then some (.max (lo % 4 == 1) (BitVec.ofNat 6 (lo / 4)) (BitVec.ofNat 6 (hi / 1024)) (BitVec.ofNat 6 (hi / 16))) else none
  | 12 => if lo % 4 < 2 then some (.minu (lo % 4 == 1) (BitVec.ofNat 6 (lo / 4)) (BitVec.ofNat 6 (hi / 1024)) (BitVec.ofNat 6 (hi / 16))) else none
  | 13 => if lo % 4 < 2 then some (.maxu (lo % 4 == 1) (BitVec.ofNat 6 (lo / 4)) (BitVec.ofNat 6 (hi / 1024)) (BitVec.ofNat 6 (hi / 16))) else none
  | _ => none

/-- Major opcode 0x02 (Tables 3.7 to 3.13). -/
def decMul (hi lo : Nat) : Option Instr :=
  match hi % 16 with
  | 0 => if lo % 4 < 2 then some (.mul (lo % 4 == 1) (BitVec.ofNat 6 (lo / 4)) (BitVec.ofNat 6 (hi / 1024)) (BitVec.ofNat 6 (hi / 16))) else none
  | 1 => if lo % 4 < 2 then some (.mulh (lo % 4 == 1) (BitVec.ofNat 6 (lo / 4)) (BitVec.ofNat 6 (hi / 1024)) (BitVec.ofNat 6 (hi / 16))) else none
  | 2 => if lo % 4 < 2 then some (.mulhu (lo % 4 == 1) (BitVec.ofNat 6 (lo / 4)) (BitVec.ofNat 6 (hi / 1024)) (BitVec.ofNat 6 (hi / 16))) else none
  | 3 => if lo % 4 < 2 then some (.mulhsu (lo % 4 == 1) (BitVec.ofNat 6 (lo / 4)) (BitVec.ofNat 6 (hi / 1024)) (BitVec.ofNat 6 (hi / 16))) else none
  | 4 => if lo % 4 < 2 then some (.div (lo % 4 == 1) (BitVec.ofNat 6 (lo / 4)) (BitVec.ofNat 6 (hi / 1024)) (BitVec.ofNat 6 (hi / 16))) else none
  | 5 => if lo % 4 < 2 then some (.divu (lo % 4 == 1) (BitVec.ofNat 6 (lo / 4)) (BitVec.ofNat 6 (hi / 1024)) (BitVec.ofNat 6 (hi / 16))) else none
  | 6 => if lo % 4 < 2 then some (.rem (lo % 4 == 1) (BitVec.ofNat 6 (lo / 4)) (BitVec.ofNat 6 (hi / 1024)) (BitVec.ofNat 6 (hi / 16))) else none
  | 7 => if lo % 4 < 2 then some (.remu (lo % 4 == 1) (BitVec.ofNat 6 (lo / 4)) (BitVec.ofNat 6 (hi / 1024)) (BitVec.ofNat 6 (hi / 16))) else none
  | _ => none

/-- Major opcode 0x03 (Tables 3.7 to 3.13). -/
def decBit (hi lo : Nat) : Option Instr :=
  match hi % 16 with
  | 0 => if lo % 4 < 2 ∧ hi / 16 % 64 = 0 then some (.clz (lo % 4 == 1) (BitVec.ofNat 6 (lo / 4)) (BitVec.ofNat 6 (hi / 1024))) else none
  | 1 => if lo % 4 < 2 ∧ hi / 16 % 64 = 0 then some (.ctz (lo % 4 == 1) (BitVec.ofNat 6 (lo / 4)) (BitVec.ofNat 6 (hi / 1024))) else none
  | 2 => if lo % 4 < 2 ∧ hi / 16 % 64 = 0 then some (.popc (lo % 4 == 1) (BitVec.ofNat 6 (lo / 4)) (BitVec.ofNat 6 (hi / 1024))) else none
  | 3 => if lo % 4 < 2 ∧ hi / 16 % 64 = 0 then some (.rev8 (lo % 4 == 1) (BitVec.ofNat 6 (lo / 4)) (BitVec.ofNat 6 (hi / 1024))) else none
  | _ => none

/-- Major opcode 0x04 (Tables 3.7 to 3.13). -/
def decBfxu (hi lo : Nat) : Option Instr :=
  some (.bfxu (BitVec.ofNat 6 (lo / 4)) (BitVec.ofNat 6 (hi / 1024)) (BitVec.ofNat 6 (hi / 16)) (BitVec.ofNat 6 (hi % 16 * 4 + lo % 4)))

/-- Major opcode 0x05 (Tables 3.7 to 3.13). -/
def decBfxs (hi lo : Nat) : Option Instr :=
  some (.bfxs (BitVec.ofNat 6 (lo / 4)) (BitVec.ofNat 6 (hi / 1024)) (BitVec.ofNat 6 (hi / 16)) (BitVec.ofNat 6 (hi % 16 * 4 + lo % 4)))

/-- Major opcode 0x06 (Tables 3.7 to 3.13). -/
def decBfi (hi lo : Nat) : Option Instr :=
  some (.bfi (BitVec.ofNat 6 (lo / 4)) (BitVec.ofNat 6 (hi / 1024)) (BitVec.ofNat 6 (hi / 16)) (BitVec.ofNat 6 (hi % 16 * 4 + lo % 4)))

/-- Major opcode 0x07 (Tables 3.7 to 3.13). -/
def decShi (hi lo : Nat) : Option Instr :=
  match hi % 16 with
  | 0 => if lo % 4 < 2 then some (.slli (lo % 4 == 1) (BitVec.ofNat 6 (lo / 4)) (BitVec.ofNat 6 (hi / 1024)) (BitVec.ofNat 6 (hi / 16))) else none
  | 1 => if lo % 4 < 2 then some (.srli (lo % 4 == 1) (BitVec.ofNat 6 (lo / 4)) (BitVec.ofNat 6 (hi / 1024)) (BitVec.ofNat 6 (hi / 16))) else none
  | 2 => if lo % 4 < 2 then some (.srai (lo % 4 == 1) (BitVec.ofNat 6 (lo / 4)) (BitVec.ofNat 6 (hi / 1024)) (BitVec.ofNat 6 (hi / 16))) else none
  | 3 => if lo % 4 < 2 then some (.rori (lo % 4 == 1) (BitVec.ofNat 6 (lo / 4)) (BitVec.ofNat 6 (hi / 1024)) (BitVec.ofNat 6 (hi / 16))) else none
  | _ => none

/-- Major opcode 0x08 (Tables 3.7 to 3.13). -/
def decAddi (hi lo : Nat) : Option Instr :=
  some (.addi (BitVec.ofNat 6 (lo / 4)) (BitVec.ofNat 6 (hi / 1024)) (BitVec.ofNat 12 (hi % 1024 * 4 + lo % 4)))

/-- Major opcode 0x09 (Tables 3.7 to 3.13). -/
def decAndi (hi lo : Nat) : Option Instr :=
  some (.andi (BitVec.ofNat 6 (lo / 4)) (BitVec.ofNat 6 (hi / 1024)) (BitVec.ofNat 12 (hi % 1024 * 4 + lo % 4)))

/-- Major opcode 0x0A (Tables 3.7 to 3.13). -/
def decOri (hi lo : Nat) : Option Instr :=
  some (.ori (BitVec.ofNat 6 (lo / 4)) (BitVec.ofNat 6 (hi / 1024)) (BitVec.ofNat 12 (hi % 1024 * 4 + lo % 4)))

/-- Major opcode 0x0B (Tables 3.7 to 3.13). -/
def decXori (hi lo : Nat) : Option Instr :=
  some (.xori (BitVec.ofNat 6 (lo / 4)) (BitVec.ofNat 6 (hi / 1024)) (BitVec.ofNat 12 (hi % 1024 * 4 + lo % 4)))

/-- Major opcode 0x0C (Tables 3.7 to 3.13). -/
def decLi (hi lo : Nat) : Option Instr :=
  some (.li (BitVec.ofNat 6 (lo / 4)) (BitVec.ofNat 18 (hi * 4 + lo % 4)))

/-- Major opcode 0x0D (Tables 3.7 to 3.13). -/
def decLih (hi lo : Nat) : Option Instr :=
  some (.lih (BitVec.ofNat 6 (lo / 4)) (BitVec.ofNat 18 (hi * 4 + lo % 4)))

/-- Major opcode 0x0E (Tables 3.7 to 3.13). -/
def decLeaPc (hi lo : Nat) : Option Instr :=
  some (.leaPc (BitVec.ofNat 6 (lo / 4)) (BitVec.ofNat 18 (hi * 4 + lo % 4)))

/-- Major opcode 0x0F (Tables 3.7 to 3.13). -/
def decLea (hi lo : Nat) : Option Instr :=
  match hi % 16 with
  | 0 => some (.lea (BitVec.ofNat 2 (lo)) (BitVec.ofNat 6 (lo / 4)) (BitVec.ofNat 6 (hi / 1024)) (BitVec.ofNat 6 (hi / 16)))
  | _ => none

/-- Major opcode 0x10 (Tables 3.7 to 3.13). -/
def decCmpk (hi lo : Nat) : Option Instr :=
  match hi % 16 with
  | 0 => if lo % 4 < 2 ∧ lo / 32 = 0 then some (.keq (lo % 4 == 1) (BitVec.ofNat 3 (lo / 4)) (BitVec.ofNat 6 (hi / 1024)) (BitVec.ofNat 6 (hi / 16))) else none
  | 1 => if lo % 4 < 2 ∧ lo / 32 = 0 then some (.kne (lo % 4 == 1) (BitVec.ofNat 3 (lo / 4)) (BitVec.ofNat 6 (hi / 1024)) (BitVec.ofNat 6 (hi / 16))) else none
  | 2 => if lo % 4 < 2 ∧ lo / 32 = 0 then some (.klt (lo % 4 == 1) (BitVec.ofNat 3 (lo / 4)) (BitVec.ofNat 6 (hi / 1024)) (BitVec.ofNat 6 (hi / 16))) else none
  | 3 => if lo % 4 < 2 ∧ lo / 32 = 0 then some (.kge (lo % 4 == 1) (BitVec.ofNat 3 (lo / 4)) (BitVec.ofNat 6 (hi / 1024)) (BitVec.ofNat 6 (hi / 16))) else none
  | 4 => if lo % 4 < 2 ∧ lo / 32 = 0 then some (.kltu (lo % 4 == 1) (BitVec.ofNat 3 (lo / 4)) (BitVec.ofNat 6 (hi / 1024)) (BitVec.ofNat 6 (hi / 16))) else none
  | 5 => if lo % 4 < 2 ∧ lo / 32 = 0 then some (.kgeu (lo % 4 == 1) (BitVec.ofNat 3 (lo / 4)) (BitVec.ofNat 6 (hi / 1024)) (BitVec.ofNat 6 (hi / 16))) else none
  | 8 => if lo % 4 = 0 ∧ lo / 32 = 0 ∧ hi / 8192 = 0 ∧ hi / 128 % 8 = 0 then some (.kand (BitVec.ofNat 3 (lo / 4)) (BitVec.ofNat 3 (hi / 1024)) (BitVec.ofNat 3 (hi / 16))) else none
  | 9 => if lo % 4 = 0 ∧ lo / 32 = 0 ∧ hi / 8192 = 0 ∧ hi / 128 % 8 = 0 then some (.kor (BitVec.ofNat 3 (lo / 4)) (BitVec.ofNat 3 (hi / 1024)) (BitVec.ofNat 3 (hi / 16))) else none
  | 10 => if lo % 4 = 0 ∧ lo / 32 = 0 ∧ hi / 8192 = 0 ∧ hi / 128 % 8 = 0 then some (.kxor (BitVec.ofNat 3 (lo / 4)) (BitVec.ofNat 3 (hi / 1024)) (BitVec.ofNat 3 (hi / 16))) else none
  | 11 => if lo % 4 = 0 ∧ lo / 32 = 0 ∧ hi / 16 % 64 = 0 then some (.kset (BitVec.ofNat 3 (lo / 4)) (BitVec.ofNat 6 (hi / 1024))) else none
  | _ => none

/-- Major opcode 0x11 (Tables 3.7 to 3.13). -/
def decSel (hi lo : Nat) : Option Instr :=
  if lo % 4 = 0 ∧ hi / 8 % 2 = 0 then some (.sel (BitVec.ofNat 6 (lo / 4)) (BitVec.ofNat 3 (hi)) (BitVec.ofNat 6 (hi / 1024)) (BitVec.ofNat 6 (hi / 16))) else none

/-- Major opcode 0x12 (Tables 3.7 to 3.13). -/
def decFpa (hi lo : Nat) : Option Instr :=
  match hi % 16 with
  | 0 => if lo % 4 < 2 then some (.fadd (lo % 4 == 1) (BitVec.ofNat 6 (lo / 4)) (BitVec.ofNat 6 (hi / 1024)) (BitVec.ofNat 6 (hi / 16))) else none
  | 1 => if lo % 4 < 2 then some (.fsub (lo % 4 == 1) (BitVec.ofNat 6 (lo / 4)) (BitVec.ofNat 6 (hi / 1024)) (BitVec.ofNat 6 (hi / 16))) else none
  | 2 => if lo % 4 < 2 then some (.fmul (lo % 4 == 1) (BitVec.ofNat 6 (lo / 4)) (BitVec.ofNat 6 (hi / 1024)) (BitVec.ofNat 6 (hi / 16))) else none
  | 3 => if lo % 4 < 2 then some (.fdiv (lo % 4 == 1) (BitVec.ofNat 6 (lo / 4)) (BitVec.ofNat 6 (hi / 1024)) (BitVec.ofNat 6 (hi / 16))) else none
  | 4 => if lo % 4 < 2 ∧ hi / 16 % 64 = 0 then some (.fsqrt (lo % 4 == 1) (BitVec.ofNat 6 (lo / 4)) (BitVec.ofNat 6 (hi / 1024))) else none
  | 5 => if lo % 4 < 2 then some (.fmin (lo % 4 == 1) (BitVec.ofNat 6 (lo / 4)) (BitVec.ofNat 6 (hi / 1024)) (BitVec.ofNat 6 (hi / 16))) else none
  | 6 => if lo % 4 < 2 then some (.fmax (lo % 4 == 1) (BitVec.ofNat 6 (lo / 4)) (BitVec.ofNat 6 (hi / 1024)) (BitVec.ofNat 6 (hi / 16))) else none
  | 7 => if lo % 4 < 2 then some (.fmacc (lo % 4 == 1) (BitVec.ofNat 6 (lo / 4)) (BitVec.ofNat 6 (hi / 1024)) (BitVec.ofNat 6 (hi / 16))) else none
  | 8 => if lo % 4 < 2 then some (.fmsac (lo % 4 == 1) (BitVec.ofNat 6 (lo / 4)) (BitVec.ofNat 6 (hi / 1024)) (BitVec.ofNat 6 (hi / 16))) else none
  | 9 => if lo % 4 < 2 ∧ hi / 16 % 64 = 0 then some (.fneg (lo % 4 == 1) (BitVec.ofNat 6 (lo / 4)) (BitVec.ofNat 6 (hi / 1024))) else none
  | 10 => if lo % 4 < 2 ∧ hi / 16 % 64 = 0 then some (.fabs (lo % 4 == 1) (BitVec.ofNat 6 (lo / 4)) (BitVec.ofNat 6 (hi / 1024))) else none
  | _ => none

/-- Major opcode 0x13 (Tables 3.7 to 3.13). -/
def decFcmpk (hi lo : Nat) : Option Instr :=
  match hi % 16 with
  | 0 => if lo % 4 < 2 ∧ lo / 32 = 0 then some (.kfeq (lo % 4 == 1) (BitVec.ofNat 3 (lo / 4)) (BitVec.ofNat 6 (hi / 1024)) (BitVec.ofNat 6 (hi / 16))) else none
  | 1 => if lo % 4 < 2 ∧ lo / 32 = 0 then some (.kflt (lo % 4 == 1) (BitVec.ofNat 3 (lo / 4)) (BitVec.ofNat 6 (hi / 1024)) (BitVec.ofNat 6 (hi / 16))) else none
  | 2 => if lo % 4 < 2 ∧ lo / 32 = 0 then some (.kfle (lo % 4 == 1) (BitVec.ofNat 3 (lo / 4)) (BitVec.ofNat 6 (hi / 1024)) (BitVec.ofNat 6 (hi / 16))) else none
  | 3 => if lo % 4 < 2 ∧ lo / 32 = 0 then some (.kfun (lo % 4 == 1) (BitVec.ofNat 3 (lo / 4)) (BitVec.ofNat 6 (hi / 1024)) (BitVec.ofNat 6 (hi / 16))) else none
  | _ => none

/-- Major opcode 0x14 (Tables 3.7 to 3.13). -/
def decFcvt (hi lo : Nat) : Option Instr :=
  match hi % 16 with
  | 0 => if lo % 4 = 0 ∧ hi / 128 % 8 = 0 then some (.fcvtSD (BitVec.ofNat 3 (hi / 16)) (BitVec.ofNat 6 (lo / 4)) (BitVec.ofNat 6 (hi / 1024))) else none
  | 1 => if lo % 4 = 0 ∧ hi / 16 % 64 = 7 then some (.fcvtDS (BitVec.ofNat 6 (lo / 4)) (BitVec.ofNat 6 (hi / 1024))) else none
  | 2 => if lo % 4 < 2 ∧ hi / 128 % 8 = 0 then some (.fcvtLF (lo % 4 == 1) (BitVec.ofNat 3 (hi / 16)) (BitVec.ofNat 6 (lo / 4)) (BitVec.ofNat 6 (hi / 1024))) else none
  | 3 => if lo % 4 < 2 ∧ hi / 128 % 8 = 0 then some (.fcvtLuF (lo % 4 == 1) (BitVec.ofNat 3 (hi / 16)) (BitVec.ofNat 6 (lo / 4)) (BitVec.ofNat 6 (hi / 1024))) else none
  | 4 => if lo % 4 < 2 ∧ hi / 128 % 8 = 0 then some (.fcvtFL (lo % 4 == 1) (BitVec.ofNat 3 (hi / 16)) (BitVec.ofNat 6 (lo / 4)) (BitVec.ofNat 6 (hi / 1024))) else none
  | 5 => if lo % 4 < 2 ∧ hi / 128 % 8 = 0 then some (.fcvtFLu (lo % 4 == 1) (BitVec.ofNat 3 (hi / 16)) (BitVec.ofNat 6 (lo / 4)) (BitVec.ofNat 6 (hi / 1024))) else none
  | 6 => if lo % 4 < 2 ∧ hi / 128 % 8 = 0 then some (.fcvtWF (lo % 4 == 1) (BitVec.ofNat 3 (hi / 16)) (BitVec.ofNat 6 (lo / 4)) (BitVec.ofNat 6 (hi / 1024))) else none
  | 7 => if lo % 4 < 2 ∧ hi / 128 % 8 = 0 then some (.fcvtFW (lo % 4 == 1) (BitVec.ofNat 3 (hi / 16)) (BitVec.ofNat 6 (lo / 4)) (BitVec.ofNat 6 (hi / 1024))) else none
  | _ => none

/-- Major opcode 0x15 (Tables 3.7 to 3.13). -/
def decBeq (hi lo : Nat) : Option Instr :=
  match hi / 8 % 2 with
  | 0 => some (.beq (BitVec.ofNat 6 (hi / 1024)) (BitVec.ofNat 6 (hi / 16)) (BitVec.ofNat 11 (hi % 8 * 256 + lo)))
  | 1 => some (.bne (BitVec.ofNat 6 (hi / 1024)) (BitVec.ofNat 6 (hi / 16)) (BitVec.ofNat 11 (hi % 8 * 256 + lo)))
  | _ => none

/-- Major opcode 0x16 (Tables 3.7 to 3.13). -/
def decBlt (hi lo : Nat) : Option Instr :=
  match hi / 8 % 2 with
  | 0 => some (.blt (BitVec.ofNat 6 (hi / 1024)) (BitVec.ofNat 6 (hi / 16)) (BitVec.ofNat 11 (hi % 8 * 256 + lo)))
  | 1 => some (.bge (BitVec.ofNat 6 (hi / 1024)) (BitVec.ofNat 6 (hi / 16)) (BitVec.ofNat 11 (hi % 8 * 256 + lo)))
  | _ => none

/-- Major opcode 0x17 (Tables 3.7 to 3.13). -/
def decBltu (hi lo : Nat) : Option Instr :=
  match hi / 8 % 2 with
  | 0 => some (.bltu (BitVec.ofNat 6 (hi / 1024)) (BitVec.ofNat 6 (hi / 16)) (BitVec.ofNat 11 (hi % 8 * 256 + lo)))
  | 1 => some (.bgeu (BitVec.ofNat 6 (hi / 1024)) (BitVec.ofNat 6 (hi / 16)) (BitVec.ofNat 11 (hi % 8 * 256 + lo)))
  | _ => none

/-- Major opcode 0x18 (Tables 3.7 to 3.13). -/
def decBk (hi lo : Nat) : Option Instr :=
  match hi / 4096 % 2 with
  | 0 => some (.bkt (BitVec.ofNat 3 (hi / 8192)) (BitVec.ofNat 20 (hi % 4096 * 256 + lo)))
  | 1 => some (.bkf (BitVec.ofNat 3 (hi / 8192)) (BitVec.ofNat 20 (hi % 4096 * 256 + lo)))
  | _ => none

/-- Major opcode 0x19 (Tables 3.7 to 3.13). -/
def decJal (hi lo : Nat) : Option Instr :=
  some (.jal (BitVec.ofNat 6 (lo / 4)) (BitVec.ofNat 18 (hi * 4 + lo % 4)))

/-- Major opcode 0x1A (Tables 3.7 to 3.13). -/
def decJalr (hi lo : Nat) : Option Instr :=
  some (.jalr (BitVec.ofNat 6 (lo / 4)) (BitVec.ofNat 6 (hi / 1024)) (BitVec.ofNat 12 (hi % 1024 * 4 + lo % 4)))

/-- Major opcode 0x1B (Tables 3.7 to 3.13). -/
def decLoop (hi lo : Nat) : Option Instr :=
  if hi / 16 % 64 = 0 then some (.loop (BitVec.ofNat 6 (hi / 1024)) (BitVec.ofNat 12 (hi % 16 * 256 + lo))) else none

/-- Major opcode 0x1C (Tables 3.7 to 3.13). -/
def decLoopi (hi lo : Nat) : Option Instr :=
  some (.loopi (BitVec.ofNat 12 (hi / 16)) (BitVec.ofNat 12 (hi % 16 * 256 + lo)))

/-- Major opcode 0x1D (Tables 3.7 to 3.13). -/
def decLd (hi lo : Nat) : Option Instr :=
  some (.ld (BitVec.ofNat 2 (lo)) (BitVec.ofNat 6 (lo / 4)) (BitVec.ofNat 6 (hi / 1024)) (BitVec.ofNat 10 (hi)))

/-- Major opcode 0x1E (Tables 3.7 to 3.13). -/
def decLdu (hi lo : Nat) : Option Instr :=
  some (.ldu (BitVec.ofNat 2 (lo)) (BitVec.ofNat 6 (lo / 4)) (BitVec.ofNat 6 (hi / 1024)) (BitVec.ofNat 10 (hi)))

/-- Major opcode 0x1F (Tables 3.7 to 3.13). -/
def decSt (hi lo : Nat) : Option Instr :=
  some (.st (BitVec.ofNat 2 (lo)) (BitVec.ofNat 6 (lo / 4)) (BitVec.ofNat 6 (hi / 1024)) (BitVec.ofNat 10 (hi)))

/-- Major opcode 0x20 (Tables 3.7 to 3.13). -/
def decLdo (hi lo : Nat) : Option Instr :=
  some (.ldo (BitVec.ofNat 2 (hi / 256)) (BitVec.ofNat 3 (hi / 32)) (hi / 16 % 2 == 1) (BitVec.ofNat 2 (lo)) (BitVec.ofNat 6 (lo / 4)) (BitVec.ofNat 6 (hi / 1024)) (BitVec.ofNat 4 (hi)))

/-- Major opcode 0x21 (Tables 3.7 to 3.13). -/
def decSto (hi lo : Nat) : Option Instr :=
  if hi / 16 % 2 = 0 then some (.sto (BitVec.ofNat 2 (hi / 256)) (BitVec.ofNat 3 (hi / 32)) (BitVec.ofNat 2 (lo)) (BitVec.ofNat 6 (lo / 4)) (BitVec.ofNat 6 (hi / 1024)) (BitVec.ofNat 4 (hi))) else none

/-- Major opcode 0x22 (Tables 3.7 to 3.13). -/
def decAm (major : Nat) (hi lo : Nat) : Option Instr :=
  match hi % 16 with
  | 0 => some (.amSwap (major == 0x23) (BitVec.ofNat 2 (lo)) (BitVec.ofNat 6 (lo / 4)) (BitVec.ofNat 6 (hi / 1024)) (BitVec.ofNat 6 (hi / 16)))
  | 1 => some (.amAdd (major == 0x23) (BitVec.ofNat 2 (lo)) (BitVec.ofNat 6 (lo / 4)) (BitVec.ofNat 6 (hi / 1024)) (BitVec.ofNat 6 (hi / 16)))
  | 2 => some (.amAnd (major == 0x23) (BitVec.ofNat 2 (lo)) (BitVec.ofNat 6 (lo / 4)) (BitVec.ofNat 6 (hi / 1024)) (BitVec.ofNat 6 (hi / 16)))
  | 3 => some (.amOr (major == 0x23) (BitVec.ofNat 2 (lo)) (BitVec.ofNat 6 (lo / 4)) (BitVec.ofNat 6 (hi / 1024)) (BitVec.ofNat 6 (hi / 16)))
  | 4 => some (.amXor (major == 0x23) (BitVec.ofNat 2 (lo)) (BitVec.ofNat 6 (lo / 4)) (BitVec.ofNat 6 (hi / 1024)) (BitVec.ofNat 6 (hi / 16)))
  | 5 => some (.amMin (major == 0x23) (BitVec.ofNat 2 (lo)) (BitVec.ofNat 6 (lo / 4)) (BitVec.ofNat 6 (hi / 1024)) (BitVec.ofNat 6 (hi / 16)))
  | 6 => some (.amMax (major == 0x23) (BitVec.ofNat 2 (lo)) (BitVec.ofNat 6 (lo / 4)) (BitVec.ofNat 6 (hi / 1024)) (BitVec.ofNat 6 (hi / 16)))
  | 7 => some (.amMinu (major == 0x23) (BitVec.ofNat 2 (lo)) (BitVec.ofNat 6 (lo / 4)) (BitVec.ofNat 6 (hi / 1024)) (BitVec.ofNat 6 (hi / 16)))
  | 8 => some (.amMaxu (major == 0x23) (BitVec.ofNat 2 (lo)) (BitVec.ofNat 6 (lo / 4)) (BitVec.ofNat 6 (hi / 1024)) (BitVec.ofNat 6 (hi / 16)))
  | 9 => some (.amCas (major == 0x23) (BitVec.ofNat 2 (lo)) (BitVec.ofNat 6 (lo / 4)) (BitVec.ofNat 6 (hi / 1024)) (BitVec.ofNat 6 (hi / 16)))
  | _ => none

/-- Major opcode 0x24 (Tables 3.7 to 3.13). -/
def decFar (hi lo : Nat) : Option Instr :=
  match hi % 16 with
  | 0 => if 2 ≤ lo % 4 then some (.farSwap (lo % 4 == 3) (BitVec.ofNat 6 (lo / 4)) (BitVec.ofNat 6 (hi / 1024)) (BitVec.ofNat 6 (hi / 16))) else none
  | 1 => if 2 ≤ lo % 4 then some (.farAdd (lo % 4 == 3) (BitVec.ofNat 6 (lo / 4)) (BitVec.ofNat 6 (hi / 1024)) (BitVec.ofNat 6 (hi / 16))) else none
  | 2 => if 2 ≤ lo % 4 then some (.farAnd (lo % 4 == 3) (BitVec.ofNat 6 (lo / 4)) (BitVec.ofNat 6 (hi / 1024)) (BitVec.ofNat 6 (hi / 16))) else none
  | 3 => if 2 ≤ lo % 4 then some (.farOr (lo % 4 == 3) (BitVec.ofNat 6 (lo / 4)) (BitVec.ofNat 6 (hi / 1024)) (BitVec.ofNat 6 (hi / 16))) else none
  | 4 => if 2 ≤ lo % 4 then some (.farXor (lo % 4 == 3) (BitVec.ofNat 6 (lo / 4)) (BitVec.ofNat 6 (hi / 1024)) (BitVec.ofNat 6 (hi / 16))) else none
  | 5 => if 2 ≤ lo % 4 then some (.farMin (lo % 4 == 3) (BitVec.ofNat 6 (lo / 4)) (BitVec.ofNat 6 (hi / 1024)) (BitVec.ofNat 6 (hi / 16))) else none
  | 6 => if 2 ≤ lo % 4 then some (.farMax (lo % 4 == 3) (BitVec.ofNat 6 (lo / 4)) (BitVec.ofNat 6 (hi / 1024)) (BitVec.ofNat 6 (hi / 16))) else none
  | 7 => if 2 ≤ lo % 4 then some (.farMinu (lo % 4 == 3) (BitVec.ofNat 6 (lo / 4)) (BitVec.ofNat 6 (hi / 1024)) (BitVec.ofNat 6 (hi / 16))) else none
  | 8 => if 2 ≤ lo % 4 then some (.farMaxu (lo % 4 == 3) (BitVec.ofNat 6 (lo / 4)) (BitVec.ofNat 6 (hi / 1024)) (BitVec.ofNat 6 (hi / 16))) else none
  | 9 => if 2 ≤ lo % 4 then some (.farCas (lo % 4 == 3) (BitVec.ofNat 6 (lo / 4)) (BitVec.ofNat 6 (hi / 1024)) (BitVec.ofNat 6 (hi / 16))) else none
  | _ => none

/-- Major opcode 0x25 (Tables 3.7 to 3.13). -/
def decYa (hi lo : Nat) : Option Instr :=
  match lo % 4 with
  | 0 => some (.yld (BitVec.ofNat 16 (hi)) (BitVec.ofNat 6 (lo / 4)))
  | 1 => some (.yst (BitVec.ofNat 16 (hi)) (BitVec.ofNat 6 (lo / 4)))
  | 2 => some (.yts (BitVec.ofNat 16 (hi)) (BitVec.ofNat 6 (lo / 4)))
  | 3 => some (.yfad (BitVec.ofNat 16 (hi)) (BitVec.ofNat 6 (lo / 4)))
  | _ => none

/-- Major opcode 0x26 (Tables 3.7 to 3.13). -/
def decYb (hi lo : Nat) : Option Instr :=
  match lo % 4 with
  | 0 => some (.ybar (BitVec.ofNat 16 (hi)) (BitVec.ofNat 6 (lo / 4)))
  | _ => none

/-- Major opcode 0x27 (Tables 3.7 to 3.13). -/
def decYr (hi lo : Nat) : Option Instr :=
  match hi % 16 with
  | 0 => if lo % 4 = 0 ∧ hi / 16 % 64 = 0 then some (.yldX (BitVec.ofNat 6 (lo / 4)) (BitVec.ofNat 6 (hi / 1024))) else none
  | 1 => if lo = 0 then some (.ystX (BitVec.ofNat 6 (hi / 1024)) (BitVec.ofNat 6 (hi / 16))) else none
  | 2 => if lo % 4 = 0 ∧ hi / 16 % 64 = 0 then some (.ytsX (BitVec.ofNat 6 (lo / 4)) (BitVec.ofNat 6 (hi / 1024))) else none
  | 3 => if lo % 4 = 0 then some (.yfadX (BitVec.ofNat 6 (lo / 4)) (BitVec.ofNat 6 (hi / 1024)) (BitVec.ofNat 6 (hi / 16))) else none
  | 4 => if lo = 0 then some (.ybarX (BitVec.ofNat 6 (hi / 1024)) (BitVec.ofNat 6 (hi / 16))) else none
  | 5 => if lo = 0 then some (.swait (BitVec.ofNat 6 (hi / 1024)) (BitVec.ofNat 6 (hi / 16))) else none
  | _ => none

/-- Major opcode 0x28 (Tables 3.7 to 3.13). -/
def decFence (hi lo : Nat) : Option Instr :=
  match hi % 16 with
  | 0 => if hi / 512 = 0 ∧ lo = 0 then some (.fence (BitVec.ofNat 2 (hi / 16)) (BitVec.ofNat 3 (hi / 64))) else none
  | 1 => if hi / 16 % 4 = 0 ∧ lo % 2 = 0 then some (.fenceX (BitVec.ofNat 3 (hi / 64)) (BitVec.ofNat 7 (hi / 512)) (BitVec.ofNat 7 (lo / 2))) else none
  | 2 => if hi = 2 ∧ lo = 0 then some .vdrain else none
  | _ => none

/-- Major opcode 0x29 (Tables 3.7 to 3.13). -/
def decVcfg (hi lo : Nat) : Option Instr :=
  match lo % 4 with
  | 0 => if hi / 16 % 64 = 0 ∧ hi / 8 % 2 = 0 then some (.setvl (BitVec.ofNat 3 (hi)) (BitVec.ofNat 6 (lo / 4)) (BitVec.ofNat 6 (hi / 1024))) else none
  | 1 => if hi / 8 % 2 = 0 then some (.setvli (BitVec.ofNat 3 (hi)) (BitVec.ofNat 6 (lo / 4)) (BitVec.ofNat 12 (hi / 16))) else none
  | _ => none

/-- Major opcode 0x2A (Tables 3.7 to 3.13). -/
noncomputable def decVi (hi lo : Nat) : Option Instr :=
  match hi % 4 * 4 + lo % 4 with
  | 0 => some (.vadd (lo / 4 % 2 == 1) (BitVec.ofNat 4 (hi / 4)) (BitVec.ofNat 5 (lo / 8)) (BitVec.ofNat 5 (hi / 2048)) (BitVec.ofNat 5 (hi / 64)))
  | 1 => some (.vsub (lo / 4 % 2 == 1) (BitVec.ofNat 4 (hi / 4)) (BitVec.ofNat 5 (lo / 8)) (BitVec.ofNat 5 (hi / 2048)) (BitVec.ofNat 5 (hi / 64)))
  | 2 => some (.vmul (lo / 4 % 2 == 1) (BitVec.ofNat 4 (hi / 4)) (BitVec.ofNat 5 (lo / 8)) (BitVec.ofNat 5 (hi / 2048)) (BitVec.ofNat 5 (hi / 64)))
  | 3 => some (.vmulh (lo / 4 % 2 == 1) (BitVec.ofNat 4 (hi / 4)) (BitVec.ofNat 5 (lo / 8)) (BitVec.ofNat 5 (hi / 2048)) (BitVec.ofNat 5 (hi / 64)))
  | 4 => some (.vand (lo / 4 % 2 == 1) (BitVec.ofNat 4 (hi / 4)) (BitVec.ofNat 5 (lo / 8)) (BitVec.ofNat 5 (hi / 2048)) (BitVec.ofNat 5 (hi / 64)))
  | 5 => some (.vor (lo / 4 % 2 == 1) (BitVec.ofNat 4 (hi / 4)) (BitVec.ofNat 5 (lo / 8)) (BitVec.ofNat 5 (hi / 2048)) (BitVec.ofNat 5 (hi / 64)))
  | 6 => some (.vxor (lo / 4 % 2 == 1) (BitVec.ofNat 4 (hi / 4)) (BitVec.ofNat 5 (lo / 8)) (BitVec.ofNat 5 (hi / 2048)) (BitVec.ofNat 5 (hi / 64)))
  | 7 => some (.vsll (lo / 4 % 2 == 1) (BitVec.ofNat 4 (hi / 4)) (BitVec.ofNat 5 (lo / 8)) (BitVec.ofNat 5 (hi / 2048)) (BitVec.ofNat 5 (hi / 64)))
  | 8 => some (.vsrl (lo / 4 % 2 == 1) (BitVec.ofNat 4 (hi / 4)) (BitVec.ofNat 5 (lo / 8)) (BitVec.ofNat 5 (hi / 2048)) (BitVec.ofNat 5 (hi / 64)))
  | 9 => some (.vsra (lo / 4 % 2 == 1) (BitVec.ofNat 4 (hi / 4)) (BitVec.ofNat 5 (lo / 8)) (BitVec.ofNat 5 (hi / 2048)) (BitVec.ofNat 5 (hi / 64)))
  | 10 => some (.vmin (lo / 4 % 2 == 1) (BitVec.ofNat 4 (hi / 4)) (BitVec.ofNat 5 (lo / 8)) (BitVec.ofNat 5 (hi / 2048)) (BitVec.ofNat 5 (hi / 64)))
  | 11 => some (.vmax (lo / 4 % 2 == 1) (BitVec.ofNat 4 (hi / 4)) (BitVec.ofNat 5 (lo / 8)) (BitVec.ofNat 5 (hi / 2048)) (BitVec.ofNat 5 (hi / 64)))
  | 12 => some (.vminu (lo / 4 % 2 == 1) (BitVec.ofNat 4 (hi / 4)) (BitVec.ofNat 5 (lo / 8)) (BitVec.ofNat 5 (hi / 2048)) (BitVec.ofNat 5 (hi / 64)))
  | 13 => some (.vmaxu (lo / 4 % 2 == 1) (BitVec.ofNat 4 (hi / 4)) (BitVec.ofNat 5 (lo / 8)) (BitVec.ofNat 5 (hi / 2048)) (BitVec.ofNat 5 (hi / 64)))
  | 14 => some (.vsadd (lo / 4 % 2 == 1) (BitVec.ofNat 4 (hi / 4)) (BitVec.ofNat 5 (lo / 8)) (BitVec.ofNat 5 (hi / 2048)) (BitVec.ofNat 5 (hi / 64)))
  | 15 => some (.vssub (lo / 4 % 2 == 1) (BitVec.ofNat 4 (hi / 4)) (BitVec.ofNat 5 (lo / 8)) (BitVec.ofNat 5 (hi / 2048)) (BitVec.ofNat 5 (hi / 64)))
  | _ => none

/-- Major opcode 0x2B (Tables 3.7 to 3.13). -/
noncomputable def decVix (hi lo : Nat) : Option Instr :=
  match hi % 2 * 4 + lo % 4 with
  | 0 => some (.vaddVx (lo / 4 % 2 == 1) (BitVec.ofNat 4 (hi / 2)) (BitVec.ofNat 5 (lo / 8)) (BitVec.ofNat 5 (hi / 2048)) (BitVec.ofNat 6 (hi / 32)))
  | 1 => some (.vsubVx (lo / 4 % 2 == 1) (BitVec.ofNat 4 (hi / 2)) (BitVec.ofNat 5 (lo / 8)) (BitVec.ofNat 5 (hi / 2048)) (BitVec.ofNat 6 (hi / 32)))
  | 2 => some (.vmulVx (lo / 4 % 2 == 1) (BitVec.ofNat 4 (hi / 2)) (BitVec.ofNat 5 (lo / 8)) (BitVec.ofNat 5 (hi / 2048)) (BitVec.ofNat 6 (hi / 32)))
  | 3 => some (.vandVx (lo / 4 % 2 == 1) (BitVec.ofNat 4 (hi / 2)) (BitVec.ofNat 5 (lo / 8)) (BitVec.ofNat 5 (hi / 2048)) (BitVec.ofNat 6 (hi / 32)))
  | 4 => some (.vsllVx (lo / 4 % 2 == 1) (BitVec.ofNat 4 (hi / 2)) (BitVec.ofNat 5 (lo / 8)) (BitVec.ofNat 5 (hi / 2048)) (BitVec.ofNat 6 (hi / 32)))
  | 5 => some (.vsrlVx (lo / 4 % 2 == 1) (BitVec.ofNat 4 (hi / 2)) (BitVec.ofNat 5 (lo / 8)) (BitVec.ofNat 5 (hi / 2048)) (BitVec.ofNat 6 (hi / 32)))
  | 6 => some (.vsraVx (lo / 4 % 2 == 1) (BitVec.ofNat 4 (hi / 2)) (BitVec.ofNat 5 (lo / 8)) (BitVec.ofNat 5 (hi / 2048)) (BitVec.ofNat 6 (hi / 32)))
  | 7 => if hi / 2048 = 0 then some (.vmvVx (lo / 4 % 2 == 1) (BitVec.ofNat 4 (hi / 2)) (BitVec.ofNat 5 (lo / 8)) (BitVec.ofNat 6 (hi / 32))) else none
  | _ => none

/-- Major opcode 0x2C (Tables 3.7 to 3.13). -/
noncomputable def decVf (hi lo : Nat) : Option Instr :=
  match hi % 4 * 4 + lo % 4 with
  | 0 => some (.vfadd (lo / 4 % 2 == 1) (BitVec.ofNat 4 (hi / 4)) (BitVec.ofNat 5 (lo / 8)) (BitVec.ofNat 5 (hi / 2048)) (BitVec.ofNat 5 (hi / 64)))
  | 1 => some (.vfsub (lo / 4 % 2 == 1) (BitVec.ofNat 4 (hi / 4)) (BitVec.ofNat 5 (lo / 8)) (BitVec.ofNat 5 (hi / 2048)) (BitVec.ofNat 5 (hi / 64)))
  | 2 => some (.vfmul (lo / 4 % 2 == 1) (BitVec.ofNat 4 (hi / 4)) (BitVec.ofNat 5 (lo / 8)) (BitVec.ofNat 5 (hi / 2048)) (BitVec.ofNat 5 (hi / 64)))
  | 3 => some (.vfdiv (lo / 4 % 2 == 1) (BitVec.ofNat 4 (hi / 4)) (BitVec.ofNat 5 (lo / 8)) (BitVec.ofNat 5 (hi / 2048)) (BitVec.ofNat 5 (hi / 64)))
  | 4 => some (.vfmin (lo / 4 % 2 == 1) (BitVec.ofNat 4 (hi / 4)) (BitVec.ofNat 5 (lo / 8)) (BitVec.ofNat 5 (hi / 2048)) (BitVec.ofNat 5 (hi / 64)))
  | 5 => some (.vfmax (lo / 4 % 2 == 1) (BitVec.ofNat 4 (hi / 4)) (BitVec.ofNat 5 (lo / 8)) (BitVec.ofNat 5 (hi / 2048)) (BitVec.ofNat 5 (hi / 64)))
  | 6 => some (.vfmacc (lo / 4 % 2 == 1) (BitVec.ofNat 4 (hi / 4)) (BitVec.ofNat 5 (lo / 8)) (BitVec.ofNat 5 (hi / 2048)) (BitVec.ofNat 5 (hi / 64)))
  | 7 => some (.vfmsac (lo / 4 % 2 == 1) (BitVec.ofNat 4 (hi / 4)) (BitVec.ofNat 5 (lo / 8)) (BitVec.ofNat 5 (hi / 2048)) (BitVec.ofNat 5 (hi / 64)))
  | 8 => if hi / 64 % 32 = 0 then some (.vfsqrt (lo / 4 % 2 == 1) (BitVec.ofNat 4 (hi / 4)) (BitVec.ofNat 5 (lo / 8)) (BitVec.ofNat 5 (hi / 2048))) else none
  | 9 => if hi / 64 % 32 = 0 then some (.vfneg (lo / 4 % 2 == 1) (BitVec.ofNat 4 (hi / 4)) (BitVec.ofNat 5 (lo / 8)) (BitVec.ofNat 5 (hi / 2048))) else none
  | 10 => if hi / 64 % 32 = 0 then some (.vfabs (lo / 4 % 2 == 1) (BitVec.ofNat 4 (hi / 4)) (BitVec.ofNat 5 (lo / 8)) (BitVec.ofNat 5 (hi / 2048))) else none
  | _ => none

/-- Major opcode 0x2D (Tables 3.7 to 3.13). -/
noncomputable def decVfx (hi lo : Nat) : Option Instr :=
  match hi % 2 * 4 + lo % 4 with
  | 0 => some (.vfaddVx (lo / 4 % 2 == 1) (BitVec.ofNat 4 (hi / 2)) (BitVec.ofNat 5 (lo / 8)) (BitVec.ofNat 5 (hi / 2048)) (BitVec.ofNat 6 (hi / 32)))
  | 1 => some (.vfmulVx (lo / 4 % 2 == 1) (BitVec.ofNat 4 (hi / 2)) (BitVec.ofNat 5 (lo / 8)) (BitVec.ofNat 5 (hi / 2048)) (BitVec.ofNat 6 (hi / 32)))
  | 2 => some (.vfmaccVx (lo / 4 % 2 == 1) (BitVec.ofNat 4 (hi / 2)) (BitVec.ofNat 5 (lo / 8)) (BitVec.ofNat 5 (hi / 2048)) (BitVec.ofNat 6 (hi / 32)))
  | 3 => if hi / 2048 = 0 then some (.vfmvVx (lo / 4 % 2 == 1) (BitVec.ofNat 4 (hi / 2)) (BitVec.ofNat 5 (lo / 8)) (BitVec.ofNat 6 (hi / 32))) else none
  | _ => none

/-- Major opcode 0x2E (Tables 3.7 to 3.13). -/
noncomputable def decVq (hi lo : Nat) : Option Instr :=
  match hi % 2 with
  | 0 => some (.vdeq (hi / 2 % 2 == 1) (BitVec.ofNat 2 (lo)) (lo / 4 % 2 == 1) (BitVec.ofNat 4 (hi / 4)) (BitVec.ofNat 5 (lo / 8)) (BitVec.ofNat 5 (hi / 2048)) (BitVec.ofNat 5 (hi / 64)))
  | 1 => some (.vquant (hi / 2 % 2 == 1) (BitVec.ofNat 2 (lo)) (lo / 4 % 2 == 1) (BitVec.ofNat 4 (hi / 4)) (BitVec.ofNat 5 (lo / 8)) (BitVec.ofNat 5 (hi / 2048)) (BitVec.ofNat 5 (hi / 64)))
  | _ => none

/-- Major opcode 0x2F (Tables 3.7 to 3.13). -/
noncomputable def decVw (hi lo : Nat) : Option Instr :=
  match hi % 4 * 4 + lo % 4 with
  | 0 => if lo / 8 % 2 = 0 then some (.vwmacc (lo / 4 % 2 == 1) (BitVec.ofNat 4 (hi / 4)) (BitVec.ofNat 4 (lo / 16)) (BitVec.ofNat 5 (hi / 2048)) (BitVec.ofNat 5 (hi / 64))) else none
  | 1 => if lo / 8 % 2 = 0 then some (.vwmaccu (lo / 4 % 2 == 1) (BitVec.ofNat 4 (hi / 4)) (BitVec.ofNat 4 (lo / 16)) (BitVec.ofNat 5 (hi / 2048)) (BitVec.ofNat 5 (hi / 64))) else none
  | 2 => if lo / 8 % 2 = 0 then some (.vwmaccsu (lo / 4 % 2 == 1) (BitVec.ofNat 4 (hi / 4)) (BitVec.ofNat 4 (lo / 16)) (BitVec.ofNat 5 (hi / 2048)) (BitVec.ofNat 5 (hi / 64))) else none
  | 3 => if lo / 8 % 2 = 0 then some (.vfwmacc (lo / 4 % 2 == 1) (BitVec.ofNat 4 (hi / 4)) (BitVec.ofNat 4 (lo / 16)) (BitVec.ofNat 5 (hi / 2048)) (BitVec.ofNat 5 (hi / 64))) else none
  | 4 => if lo / 8 % 2 = 0 then some (.vbfwmacc (lo / 4 % 2 == 1) (BitVec.ofNat 4 (hi / 4)) (BitVec.ofNat 4 (lo / 16)) (BitVec.ofNat 5 (hi / 2048)) (BitVec.ofNat 5 (hi / 64))) else none
  | 5 => if lo / 8 % 2 = 0 then some (.vwmul (lo / 4 % 2 == 1) (BitVec.ofNat 4 (hi / 4)) (BitVec.ofNat 4 (lo / 16)) (BitVec.ofNat 5 (hi / 2048)) (BitVec.ofNat 5 (hi / 64))) else none
  | 6 => if lo / 8 % 2 = 0 then some (.vwmulu (lo / 4 % 2 == 1) (BitVec.ofNat 4 (hi / 4)) (BitVec.ofNat 4 (lo / 16)) (BitVec.ofNat 5 (hi / 2048)) (BitVec.ofNat 5 (hi / 64))) else none
  | 7 => if lo / 8 % 2 = 0 then some (.vfwmul (lo / 4 % 2 == 1) (BitVec.ofNat 4 (hi / 4)) (BitVec.ofNat 4 (lo / 16)) (BitVec.ofNat 5 (hi / 2048)) (BitVec.ofNat 5 (hi / 64))) else none
  | _ => none

/-- Major opcode 0x30 (Tables 3.7 to 3.13). -/
noncomputable def decVn (hi lo : Nat) : Option Instr :=
  match hi % 4 * 4 + lo % 4 with
  | 0 => if hi / 64 % 32 = 0 then some (.vncvt (lo / 4 % 2 == 1) (BitVec.ofNat 4 (hi / 4)) (BitVec.ofNat 5 (lo / 8)) (BitVec.ofNat 5 (hi / 2048))) else none
  | 1 => if hi / 64 % 32 = 0 then some (.vnclip (lo / 4 % 2 == 1) (BitVec.ofNat 4 (hi / 4)) (BitVec.ofNat 5 (lo / 8)) (BitVec.ofNat 5 (hi / 2048))) else none
  | 2 => if hi / 64 % 32 = 0 then some (.vnclipu (lo / 4 % 2 == 1) (BitVec.ofNat 4 (hi / 4)) (BitVec.ofNat 5 (lo / 8)) (BitVec.ofNat 5 (hi / 2048))) else none
  | 3 => some (.vfcvt (lo / 4 % 2 == 1) (BitVec.ofNat 4 (hi / 4)) (BitVec.ofNat 5 (lo / 8)) (BitVec.ofNat 5 (hi / 2048)) (BitVec.ofNat 5 (hi / 64)))
  | 4 => if hi / 64 % 32 = 0 then some (.vfcvtX (lo / 4 % 2 == 1) (BitVec.ofNat 4 (hi / 4)) (BitVec.ofNat 5 (lo / 8)) (BitVec.ofNat 5 (hi / 2048))) else none
  | 5 => some (.vfcvtF (lo / 4 % 2 == 1) (BitVec.ofNat 4 (hi / 4)) (BitVec.ofNat 5 (lo / 8)) (BitVec.ofNat 5 (hi / 2048)) (BitVec.ofNat 5 (hi / 64)))
  | _ => none

/-- Major opcode 0x31 (Tables 3.7 to 3.13). -/
noncomputable def decVred (hi lo : Nat) : Option Instr :=
  match hi % 4 * 4 + lo % 4 with
  | 0 => some (.vredsum (lo / 4 % 2 == 1) (BitVec.ofNat 4 (hi / 4)) (BitVec.ofNat 5 (lo / 8)) (BitVec.ofNat 5 (hi / 2048)) (BitVec.ofNat 5 (hi / 64)))
  | 1 => some (.vredmax (lo / 4 % 2 == 1) (BitVec.ofNat 4 (hi / 4)) (BitVec.ofNat 5 (lo / 8)) (BitVec.ofNat 5 (hi / 2048)) (BitVec.ofNat 5 (hi / 64)))
  | 2 => some (.vredmin (lo / 4 % 2 == 1) (BitVec.ofNat 4 (hi / 4)) (BitVec.ofNat 5 (lo / 8)) (BitVec.ofNat 5 (hi / 2048)) (BitVec.ofNat 5 (hi / 64)))
  | 3 => some (.vredmaxu (lo / 4 % 2 == 1) (BitVec.ofNat 4 (hi / 4)) (BitVec.ofNat 5 (lo / 8)) (BitVec.ofNat 5 (hi / 2048)) (BitVec.ofNat 5 (hi / 64)))
  | 4 => some (.vredminu (lo / 4 % 2 == 1) (BitVec.ofNat 4 (hi / 4)) (BitVec.ofNat 5 (lo / 8)) (BitVec.ofNat 5 (hi / 2048)) (BitVec.ofNat 5 (hi / 64)))
  | 5 => some (.vfredsumO (lo / 4 % 2 == 1) (BitVec.ofNat 4 (hi / 4)) (BitVec.ofNat 5 (lo / 8)) (BitVec.ofNat 5 (hi / 2048)) (BitVec.ofNat 5 (hi / 64)))
  | 6 => some (.vfredsumT (lo / 4 % 2 == 1) (BitVec.ofNat 4 (hi / 4)) (BitVec.ofNat 5 (lo / 8)) (BitVec.ofNat 5 (hi / 2048)) (BitVec.ofNat 5 (hi / 64)))
  | 7 => some (.vfredmax (lo / 4 % 2 == 1) (BitVec.ofNat 4 (hi / 4)) (BitVec.ofNat 5 (lo / 8)) (BitVec.ofNat 5 (hi / 2048)) (BitVec.ofNat 5 (hi / 64)))
  | 8 => some (.vfredmin (lo / 4 % 2 == 1) (BitVec.ofNat 4 (hi / 4)) (BitVec.ofNat 5 (lo / 8)) (BitVec.ofNat 5 (hi / 2048)) (BitVec.ofNat 5 (hi / 64)))
  | 9 => some (.vscan (lo / 4 % 2 == 1) (BitVec.ofNat 4 (hi / 4)) (BitVec.ofNat 5 (lo / 8)) (BitVec.ofNat 5 (hi / 2048)) (BitVec.ofNat 5 (hi / 64)))
  | 10 => some (.vfscan (lo / 4 % 2 == 1) (BitVec.ofNat 4 (hi / 4)) (BitVec.ofNat 5 (lo / 8)) (BitVec.ofNat 5 (hi / 2048)) (BitVec.ofNat 5 (hi / 64)))
  | _ => none

/-- Major opcode 0x32 (Tables 3.7 to 3.13). -/
noncomputable def decVperm (hi lo : Nat) : Option Instr :=
  match hi % 4 * 4 + lo % 4 with
  | 0 => some (.vrgather (lo / 4 % 2 == 1) (BitVec.ofNat 4 (hi / 4)) (BitVec.ofNat 5 (lo / 8)) (BitVec.ofNat 5 (hi / 2048)) (BitVec.ofNat 5 (hi / 64)))
  | 1 => if hi / 64 % 32 = 0 then some (.vcompress (lo / 4 % 2 == 1) (BitVec.ofNat 4 (hi / 4)) (BitVec.ofNat 5 (lo / 8)) (BitVec.ofNat 5 (hi / 2048))) else none
  | 2 => if hi / 64 = 0 then some (.viota (lo / 4 % 2 == 1) (BitVec.ofNat 4 (hi / 4)) (BitVec.ofNat 5 (lo / 8))) else none
  | 3 => if hi / 64 = 0 then some (.vid (lo / 4 % 2 == 1) (BitVec.ofNat 4 (hi / 4)) (BitVec.ofNat 5 (lo / 8))) else none
  | _ => none

/-- Major opcode 0x33 (Tables 3.7 to 3.13). -/
noncomputable def decVpx (hi lo : Nat) : Option Instr :=
  match hi % 2 * 4 + lo % 4 with
  | 0 => some (.vslideup (lo / 4 % 2 == 1) (BitVec.ofNat 4 (hi / 2)) (BitVec.ofNat 5 (lo / 8)) (BitVec.ofNat 5 (hi / 2048)) (BitVec.ofNat 6 (hi / 32)))
  | 1 => some (.vslidedn (lo / 4 % 2 == 1) (BitVec.ofNat 4 (hi / 2)) (BitVec.ofNat 5 (lo / 8)) (BitVec.ofNat 5 (hi / 2048)) (BitVec.ofNat 6 (hi / 32)))
  | 2 => some (.vslide1up (lo / 4 % 2 == 1) (BitVec.ofNat 4 (hi / 2)) (BitVec.ofNat 5 (lo / 8)) (BitVec.ofNat 5 (hi / 2048)) (BitVec.ofNat 6 (hi / 32)))
  | 3 => some (.vslide1dn (lo / 4 % 2 == 1) (BitVec.ofNat 4 (hi / 2)) (BitVec.ofNat 5 (lo / 8)) (BitVec.ofNat 5 (hi / 2048)) (BitVec.ofNat 6 (hi / 32)))
  | 4 => if lo / 4 = 0 ∧ hi / 2 % 16 = 0 then some (.vmvXs (BitVec.ofNat 6 (hi / 32)) (BitVec.ofNat 5 (hi / 2048))) else none
  | 5 => if hi / 2048 = 0 ∧ hi / 2 % 16 = 0 ∧ lo / 4 % 2 = 0 then some (.vmvSx (BitVec.ofNat 5 (lo / 8)) (BitVec.ofNat 6 (hi / 32))) else none
  | _ => none

/-- Major opcode 0x34 (Tables 3.7 to 3.13). -/
noncomputable def decVsf (hi lo : Nat) : Option Instr :=
  match hi % 4 * 4 + lo % 4 with
  | 0 => if hi / 64 % 32 = 0 then some (.vexp2 (lo / 4 % 2 == 1) (BitVec.ofNat 4 (hi / 4)) (BitVec.ofNat 5 (lo / 8)) (BitVec.ofNat 5 (hi / 2048))) else none
  | 1 => if hi / 64 % 32 = 0 then some (.vlog2 (lo / 4 % 2 == 1) (BitVec.ofNat 4 (hi / 4)) (BitVec.ofNat 5 (lo / 8)) (BitVec.ofNat 5 (hi / 2048))) else none
  | 2 => if hi / 64 % 32 = 0 then some (.vrcp (lo / 4 % 2 == 1) (BitVec.ofNat 4 (hi / 4)) (BitVec.ofNat 5 (lo / 8)) (BitVec.ofNat 5 (hi / 2048))) else none
  | 3 => if hi / 64 % 32 = 0 then some (.vrsqrt (lo / 4 % 2 == 1) (BitVec.ofNat 4 (hi / 4)) (BitVec.ofNat 5 (lo / 8)) (BitVec.ofNat 5 (hi / 2048))) else none
  | 4 => if hi / 64 % 32 = 0 then some (.vsin (lo / 4 % 2 == 1) (BitVec.ofNat 4 (hi / 4)) (BitVec.ofNat 5 (lo / 8)) (BitVec.ofNat 5 (hi / 2048))) else none
  | 5 => if hi / 64 % 32 = 0 then some (.vcos (lo / 4 % 2 == 1) (BitVec.ofNat 4 (hi / 4)) (BitVec.ofNat 5 (lo / 8)) (BitVec.ofNat 5 (hi / 2048))) else none
  | 6 => if hi / 64 % 32 = 0 then some (.vtanh (lo / 4 % 2 == 1) (BitVec.ofNat 4 (hi / 4)) (BitVec.ofNat 5 (lo / 8)) (BitVec.ofNat 5 (hi / 2048))) else none
  | 7 => if hi / 64 % 32 = 0 then some (.verf (lo / 4 % 2 == 1) (BitVec.ofNat 4 (hi / 4)) (BitVec.ofNat 5 (lo / 8)) (BitVec.ofNat 5 (hi / 2048))) else none
  | _ => none

/-- Major opcode 0x35 (Tables 3.7 to 3.13). -/
noncomputable def decVcmp (hi lo : Nat) : Option Instr :=
  match hi % 4 * 4 + lo % 4 with
  | 0 => if lo / 128 = 0 then some (.vmseq (lo / 4 % 2 == 1) (BitVec.ofNat 4 (hi / 4)) (BitVec.ofNat 4 (lo / 8)) (BitVec.ofNat 5 (hi / 2048)) (BitVec.ofNat 5 (hi / 64))) else none
  | 1 => if lo / 128 = 0 then some (.vmsne (lo / 4 % 2 == 1) (BitVec.ofNat 4 (hi / 4)) (BitVec.ofNat 4 (lo / 8)) (BitVec.ofNat 5 (hi / 2048)) (BitVec.ofNat 5 (hi / 64))) else none
  | 2 => if lo / 128 = 0 then some (.vmslt (lo / 4 % 2 == 1) (BitVec.ofNat 4 (hi / 4)) (BitVec.ofNat 4 (lo / 8)) (BitVec.ofNat 5 (hi / 2048)) (BitVec.ofNat 5 (hi / 64))) else none
  | 3 => if lo / 128 = 0 then some (.vmsle (lo / 4 % 2 == 1) (BitVec.ofNat 4 (hi / 4)) (BitVec.ofNat 4 (lo / 8)) (BitVec.ofNat 5 (hi / 2048)) (BitVec.ofNat 5 (hi / 64))) else none
  | 4 => if lo / 128 = 0 then some (.vmsltu (lo / 4 % 2 == 1) (BitVec.ofNat 4 (hi / 4)) (BitVec.ofNat 4 (lo / 8)) (BitVec.ofNat 5 (hi / 2048)) (BitVec.ofNat 5 (hi / 64))) else none
  | 5 => if lo / 128 = 0 then some (.vmsleu (lo / 4 % 2 == 1) (BitVec.ofNat 4 (hi / 4)) (BitVec.ofNat 4 (lo / 8)) (BitVec.ofNat 5 (hi / 2048)) (BitVec.ofNat 5 (hi / 64))) else none
  | 6 => if lo / 128 = 0 then some (.vmfeq (lo / 4 % 2 == 1) (BitVec.ofNat 4 (hi / 4)) (BitVec.ofNat 4 (lo / 8)) (BitVec.ofNat 5 (hi / 2048)) (BitVec.ofNat 5 (hi / 64))) else none
  | 7 => if lo / 128 = 0 then some (.vmflt (lo / 4 % 2 == 1) (BitVec.ofNat 4 (hi / 4)) (BitVec.ofNat 4 (lo / 8)) (BitVec.ofNat 5 (hi / 2048)) (BitVec.ofNat 5 (hi / 64))) else none
  | 8 => if lo / 128 = 0 then some (.vmfle (lo / 4 % 2 == 1) (BitVec.ofNat 4 (hi / 4)) (BitVec.ofNat 4 (lo / 8)) (BitVec.ofNat 5 (hi / 2048)) (BitVec.ofNat 5 (hi / 64))) else none
  | 9 => if lo / 128 = 0 then some (.vmfun (lo / 4 % 2 == 1) (BitVec.ofNat 4 (hi / 4)) (BitVec.ofNat 4 (lo / 8)) (BitVec.ofNat 5 (hi / 2048)) (BitVec.ofNat 5 (hi / 64))) else none
  | _ => none

/-- Major opcode 0x36 (Tables 3.7 to 3.13). -/
noncomputable def decPred (hi lo : Nat) : Option Instr :=
  match hi % 16 with
  | 0 => if lo % 4 = 0 ∧ lo / 64 = 0 then some (.pand (BitVec.ofNat 4 (hi / 16)) (BitVec.ofNat 4 (lo / 4)) (BitVec.ofNat 4 (hi / 4096)) (BitVec.ofNat 4 (hi / 256))) else none
  | 1 => if lo % 4 = 0 ∧ lo / 64 = 0 then some (.por (BitVec.ofNat 4 (hi / 16)) (BitVec.ofNat 4 (lo / 4)) (BitVec.ofNat 4 (hi / 4096)) (BitVec.ofNat 4 (hi / 256))) else none
  | 2 => if lo % 4 = 0 ∧ lo / 64 = 0 then some (.pxor (BitVec.ofNat 4 (hi / 16)) (BitVec.ofNat 4 (lo / 4)) (BitVec.ofNat 4 (hi / 4096)) (BitVec.ofNat 4 (hi / 256))) else none
  | 3 => if lo % 4 = 0 ∧ lo / 64 = 0 then some (.pandn (BitVec.ofNat 4 (hi / 16)) (BitVec.ofNat 4 (lo / 4)) (BitVec.ofNat 4 (hi / 4096)) (BitVec.ofNat 4 (hi / 256))) else none
  | 4 => if lo % 4 = 0 ∧ lo / 64 = 0 ∧ hi / 256 % 16 = 0 then some (.pnot (BitVec.ofNat 4 (hi / 16)) (BitVec.ofNat 4 (lo / 4)) (BitVec.ofNat 4 (hi / 4096))) else none
  | 5 => if lo % 4 = 0 ∧ lo / 64 = 0 ∧ hi / 256 % 16 = 0 then some (.pcut (BitVec.ofNat 4 (hi / 16)) (BitVec.ofNat 4 (lo / 4)) (BitVec.ofNat 4 (hi / 4096))) else none
  | 6 => if lo % 4 = 0 ∧ hi / 256 % 16 = 0 then some (.pfind (BitVec.ofNat 4 (hi / 16)) (BitVec.ofNat 6 (lo / 4)) (BitVec.ofNat 4 (hi / 4096))) else none
  | 7 => if lo % 4 = 0 ∧ hi / 256 % 16 = 0 then some (.ppopc (BitVec.ofNat 4 (hi / 16)) (BitVec.ofNat 6 (lo / 4)) (BitVec.ofNat 4 (hi / 4096))) else none
  | 8 => if lo % 4 = 0 ∧ hi / 256 % 16 = 0 then some (.psetn (BitVec.ofNat 4 (hi / 16)) (BitVec.ofNat 4 (hi / 4096)) (BitVec.ofNat 6 (lo / 4))) else none
  | 9 => if lo % 4 = 0 ∧ lo / 32 = 0 ∧ hi / 256 % 16 = 0 then some (.pany (BitVec.ofNat 4 (hi / 16)) (BitVec.ofNat 3 (lo / 4)) (BitVec.ofNat 4 (hi / 4096))) else none
  | _ => none

/-- Major opcode 0x37 (Tables 3.7 to 3.13). -/
noncomputable def decVld (hi lo : Nat) : Option Instr :=
  match lo % 4 with
  | 0 => if hi / 128 % 8 = 0 then some (.vld (lo / 4 % 2 == 1) (BitVec.ofNat 4 (hi)) (BitVec.ofNat 5 (lo / 8)) (BitVec.ofNat 6 (hi / 1024)) (BitVec.ofNat 3 (hi / 16))) else none
  | 1 => some (.vlds (lo / 4 % 2 == 1) (BitVec.ofNat 4 (hi)) (BitVec.ofNat 5 (lo / 8)) (BitVec.ofNat 6 (hi / 1024)) (BitVec.ofNat 6 (hi / 16)))
  | 2 => if hi / 512 % 2 = 0 then some (.vldx (lo / 4 % 2 == 1) (BitVec.ofNat 4 (hi)) (BitVec.ofNat 5 (lo / 8)) (BitVec.ofNat 6 (hi / 1024)) (BitVec.ofNat 5 (hi / 16))) else none
  | 3 => if hi / 128 % 8 = 0 then some (.vldff (lo / 4 % 2 == 1) (BitVec.ofNat 4 (hi)) (BitVec.ofNat 5 (lo / 8)) (BitVec.ofNat 6 (hi / 1024)) (BitVec.ofNat 3 (hi / 16))) else none
  | _ => none

/-- Major opcode 0x38 (Tables 3.7 to 3.13). -/
noncomputable def decVst (hi lo : Nat) : Option Instr :=
  match lo % 4 with
  | 0 => if hi / 128 % 8 = 0 then some (.vst (lo / 4 % 2 == 1) (BitVec.ofNat 4 (hi)) (BitVec.ofNat 5 (lo / 8)) (BitVec.ofNat 6 (hi / 1024)) (BitVec.ofNat 3 (hi / 16))) else none
  | 1 => some (.vsts (lo / 4 % 2 == 1) (BitVec.ofNat 4 (hi)) (BitVec.ofNat 5 (lo / 8)) (BitVec.ofNat 6 (hi / 1024)) (BitVec.ofNat 6 (hi / 16)))
  | 2 => if hi / 512 % 2 = 0 then some (.vstx (lo / 4 % 2 == 1) (BitVec.ofNat 4 (hi)) (BitVec.ofNat 5 (lo / 8)) (BitVec.ofNat 6 (hi / 1024)) (BitVec.ofNat 5 (hi / 16))) else none
  | 3 => if hi / 128 % 8 = 0 then some (.vstr (lo / 4 % 2 == 1) (BitVec.ofNat 4 (hi)) (BitVec.ofNat 5 (lo / 8)) (BitVec.ofNat 6 (hi / 1024)) (BitVec.ofNat 3 (hi / 16))) else none
  | _ => none

/-- Major opcode 0x39 (Tables 3.7 to 3.13). -/
noncomputable def decVld2 (hi lo : Nat) : Option Instr :=
  match lo % 4 with
  | 0 => if hi / 16 % 64 = 0 then some (.vldbc (lo / 4 % 2 == 1) (BitVec.ofNat 4 (hi)) (BitVec.ofNat 5 (lo / 8)) (BitVec.ofNat 6 (hi / 1024))) else none
  | 1 => if hi % 16 = 0 ∧ lo / 4 % 2 = 0 then some (.vldsr (BitVec.ofNat 5 (lo / 8)) (BitVec.ofNat 6 (hi / 1024)) (BitVec.ofNat 6 (hi / 16))) else none
  | _ => none

/-- Major opcode 0x3A (Tables 3.7 to 3.13). -/
noncomputable def decMtx (hi lo : Nat) : Option Instr :=
  match hi % 16 with
  | 0 => if lo = 0 then some (.mld (BitVec.ofNat 6 (hi / 1024)) (BitVec.ofNat 6 (hi / 16))) else none
  | 1 => if hi = 1 ∧ lo = 0 then some .mswp else none
  | 2 => if lo % 4 = 0 then some (.mma (BitVec.ofNat 6 (lo / 4)) (BitVec.ofNat 6 (hi / 1024)) (BitVec.ofNat 6 (hi / 16))) else none
  | 3 => if lo % 4 = 0 then some (.mmas (BitVec.ofNat 6 (lo / 4)) (BitVec.ofNat 6 (hi / 1024)) (BitVec.ofNat 6 (hi / 16))) else none
  | 4 => if lo % 4 = 0 then some (.mqma (BitVec.ofNat 6 (lo / 4)) (BitVec.ofNat 6 (hi / 1024)) (BitVec.ofNat 6 (hi / 16))) else none
  | 5 => if lo % 4 = 0 then some (.mmrot (BitVec.ofNat 6 (lo / 4)) (BitVec.ofNat 6 (hi / 1024)) (BitVec.ofNat 6 (hi / 16))) else none
  | 6 => if lo % 4 = 0 ∧ hi / 1024 = 0 then some (.mzero (BitVec.ofNat 6 (lo / 4)) (BitVec.ofNat 6 (hi / 16))) else none
  | 7 => if lo = 0 ∧ hi / 16 % 64 = 0 then some (.mcfg (BitVec.ofNat 6 (hi / 1024))) else none
  | _ => none

/-- Major opcode 0x3B (Tables 3.7 to 3.13). -/
noncomputable def decCpy (hi lo : Nat) : Option Instr :=
  match hi % 16 with
  | 0 => if lo / 4 = 0 ∧ hi / 16 % 64 = 15 then some (.ack (BitVec.ofNat 2 (lo)) (BitVec.ofNat 6 (hi / 1024))) else if lo / 4 = 0 then some (.cpyset (BitVec.ofNat 2 (lo)) (BitVec.ofNat 6 (hi / 16)) (BitVec.ofNat 6 (hi / 1024))) else none
  | 1 => if hi / 16 = 0 then some (.cpygo (BitVec.ofNat 2 (lo)) (BitVec.ofNat 6 (lo / 4))) else none
  | 2 => if hi / 16 = 0 then some (.cpyst (BitVec.ofNat 2 (lo)) (BitVec.ofNat 6 (lo / 4))) else none
  | 3 => if lo / 4 = 0 ∧ hi / 16 % 64 = 0 then some (.cpywait (BitVec.ofNat 2 (lo)) (BitVec.ofNat 6 (hi / 1024))) else none
  | 4 => if hi / 16 % 64 = 0 then some (.cpymm (BitVec.ofNat 2 (lo)) (BitVec.ofNat 6 (lo / 4)) (BitVec.ofNat 6 (hi / 1024))) else none
  | _ => none

/-- Major opcode 0x3C (Tables 3.7 to 3.13). -/
noncomputable def decSpc (hi lo : Nat) : Option Instr :=
  match hi % 16 with
  | 0 => if lo = 0 ∧ hi / 16 % 64 = 0 then some (.fork (BitVec.ofNat 6 (hi / 1024))) else none
  | 1 => if lo = 0 ∧ hi / 16 % 64 = 0 then some (.forka (BitVec.ofNat 6 (hi / 1024))) else none
  | 2 => if hi = 2 ∧ lo = 0 then some .cend else none
  | 3 => if hi = 3 ∧ lo = 0 then some .join else none
  | 4 => if lo = 0 ∧ hi / 128 = 0 then some (.fwd (BitVec.ofNat 3 (hi / 16))) else none
  | 5 => if hi = 5 ∧ lo = 0 then some .nspec else none
  | 6 => if lo % 4 = 0 then some (.frz (BitVec.ofNat 6 (lo / 4)) (BitVec.ofNat 6 (hi / 1024)) (BitVec.ofNat 6 (hi / 16))) else none
  | 7 => if lo % 4 = 0 ∧ hi / 16 % 64 = 0 then some (.thaw (BitVec.ofNat 6 (lo / 4)) (BitVec.ofNat 6 (hi / 1024))) else none
  | 8 => if lo % 4 = 0 ∧ hi / 16 % 64 = 0 then some (.thawq (BitVec.ofNat 6 (lo / 4)) (BitVec.ofNat 6 (hi / 1024))) else none
  | 9 => if lo % 4 = 0 ∧ lo / 128 = 0 ∧ hi / 16 % 64 = 0 then some (.seqld (BitVec.ofNat 5 (lo / 4)) (BitVec.ofNat 6 (hi / 1024))) else none
  | 10 => if lo % 4 = 0 ∧ lo / 128 = 0 ∧ hi / 16 % 64 = 0 then some (.seqst (BitVec.ofNat 5 (lo / 4)) (BitVec.ofNat 6 (hi / 1024))) else none
  | _ => none

/-- Major opcode 0x3D (Tables 3.7 to 3.13). -/
noncomputable def decMsg (hi lo : Nat) : Option Instr :=
  match hi % 16 with
  | 0 => if lo = 0 then some (.send (BitVec.ofNat 6 (hi / 1024)) (BitVec.ofNat 6 (hi / 16))) else none
  | 1 => if lo % 4 = 0 ∧ lo / 128 = 0 then some (.sendv (BitVec.ofNat 6 (hi / 1024)) (BitVec.ofNat 5 (lo / 4)) (BitVec.ofNat 6 (hi / 16))) else none
  | 2 => if lo = 0 then some (.reply (BitVec.ofNat 6 (hi / 1024)) (BitVec.ofNat 6 (hi / 16))) else none
  | 3 => if lo = 0 then some (.hbind (BitVec.ofNat 6 (hi / 1024)) (BitVec.ofNat 6 (hi / 16))) else none
  | 4 => if hi = 4 ∧ lo = 0 then some .hend else none
  | _ => none

/-- Major opcode 0x3E (Tables 3.7 to 3.13). -/
noncomputable def decSys (hi lo : Nat) : Option Instr :=
  match hi % 16 with
  | 0 => if lo % 4 = 0 then some (.sysrd (BitVec.ofNat 12 (hi / 16)) (BitVec.ofNat 6 (lo / 4))) else none
  | 1 => if lo % 4 = 0 then some (.syswr (BitVec.ofNat 12 (hi / 16)) (BitVec.ofNat 6 (lo / 4))) else none
  | 2 => if lo = 0 then some (.trap (BitVec.ofNat 12 (hi / 16))) else none
  | 3 => if hi = 3 ∧ lo = 0 then some .eret else none
  | 4 => if lo = 0 then some (.brk (BitVec.ofNat 12 (hi / 16))) else none
  | 5 => if hi = 5 ∧ lo = 0 then some .halt else none
  | 6 => if hi = 6 ∧ lo = 0 then some .nop else none
  | 7 => if lo % 4 = 0 ∧ hi / 16 = 0 then some (.tlbinvPage (BitVec.ofNat 6 (lo / 4))) else if lo % 4 = 0 ∧ hi / 16 = 1 then some (.tlbinvAsid (BitVec.ofNat 6 (lo / 4))) else if lo % 4 = 0 ∧ hi / 16 = 2 then some (.tlbinvAll (BitVec.ofNat 6 (lo / 4))) else none
  | 8 => if lo % 4 = 0 ∧ hi / 16 = 0 then some (.stop (BitVec.ofNat 6 (lo / 4))) else none
  | 9 => if lo % 4 = 0 ∧ hi / 16 = 0 then some (.cclean (BitVec.ofNat 6 (lo / 4))) else none
  | 10 => if lo % 4 = 0 ∧ hi / 16 = 0 then some (.cinv (BitVec.ofNat 6 (lo / 4))) else none
  | 11 => if hi = 11 ∧ lo = 0 then some .iinv else none
  | _ => none

/-- The 32-bit formats, by major opcode (Table 3.7). -/
noncomputable def decodeMajor (major hi lo : Nat) : Option Instr :=
  match major with
  | 0x01 => decAlu hi lo
  | 0x02 => decMul hi lo
  | 0x03 => decBit hi lo
  | 0x04 => decBfxu hi lo
  | 0x05 => decBfxs hi lo
  | 0x06 => decBfi hi lo
  | 0x07 => decShi hi lo
  | 0x08 => decAddi hi lo
  | 0x09 => decAndi hi lo
  | 0x0A => decOri hi lo
  | 0x0B => decXori hi lo
  | 0x0C => decLi hi lo
  | 0x0D => decLih hi lo
  | 0x0E => decLeaPc hi lo
  | 0x0F => decLea hi lo
  | 0x10 => decCmpk hi lo
  | 0x11 => decSel hi lo
  | 0x12 => decFpa hi lo
  | 0x13 => decFcmpk hi lo
  | 0x14 => decFcvt hi lo
  | 0x15 => decBeq hi lo
  | 0x16 => decBlt hi lo
  | 0x17 => decBltu hi lo
  | 0x18 => decBk hi lo
  | 0x19 => decJal hi lo
  | 0x1A => decJalr hi lo
  | 0x1B => decLoop hi lo
  | 0x1C => decLoopi hi lo
  | 0x1D => decLd hi lo
  | 0x1E => decLdu hi lo
  | 0x1F => decSt hi lo
  | 0x20 => decLdo hi lo
  | 0x21 => decSto hi lo
  | 0x22 => decAm 0x22 hi lo
  | 0x23 => decAm 0x23 hi lo
  | 0x24 => decFar hi lo
  | 0x25 => decYa hi lo
  | 0x26 => decYb hi lo
  | 0x27 => decYr hi lo
  | 0x28 => decFence hi lo
  | 0x29 => decVcfg hi lo
  | 0x2A => decVi hi lo
  | 0x2B => decVix hi lo
  | 0x2C => decVf hi lo
  | 0x2D => decVfx hi lo
  | 0x2E => decVq hi lo
  | 0x2F => decVw hi lo
  | 0x30 => decVn hi lo
  | 0x31 => decVred hi lo
  | 0x32 => decVperm hi lo
  | 0x33 => decVpx hi lo
  | 0x34 => decVsf hi lo
  | 0x35 => decVcmp hi lo
  | 0x36 => decPred hi lo
  | 0x37 => decVld hi lo
  | 0x38 => decVst hi lo
  | 0x39 => decVld2 hi lo
  | 0x3A => decMtx hi lo
  | 0x3B => decCpy hi lo
  | 0x3C => decSpc hi lo
  | 0x3D => decMsg hi lo
  | 0x3E => decSys hi lo
  | _ => none

/-- A 32-bit word (R48, R56). -/
noncomputable def decodeWordRaw (w : Nat) : Option Instr := decodeMajor (bits w 8 6) (bits w 16 16) (bits w 0 8)

/-- Compact form CI (Table 3.14). -/
noncomputable def decCi (f : Nat) (rd : SReg) (x : BitVec 4) : Option Instr :=
  match f with
  | 0 => some (.cAddi rd x)
  | 1 => some (.cLi rd x)
  | 2 => some (.cSlli rd x)
  | 3 => some (.cSrli rd x)
  | 4 => some (.cSrai rd x)
  | 5 => some (.cAndi rd x)
  | _ => none

/-- Compact form CR (Table 3.14); the parcel 0x4000 is `c.nop` (R64). -/
noncomputable def decCr (f : Nat) (rd rs : SReg) : Option Instr :=
  match f with
  | 0 => if rd = 0 ∧ rs = 0 then some .cNop else some (.cMv rd rs)
  | 1 => some (.cAdd rd rs)
  | 2 => some (.cSub rd rs)
  | 3 => some (.cAnd rd rs)
  | _ => none

/-- Compact form CB (Table 3.14). -/
noncomputable def decCb (x : Nat) : Option Instr :=
  match bits x 11 3 with
  | 0 => some (.cJ (BitVec.ofNat 11 x))
  | 1 =>
    match x % 32 with
    | 0 => some (.cJr (BitVec.ofNat 6 (x / 32)))
    | 1 => if bits x 5 6 = 0 then some .cHend else none
    | 2 => if bits x 5 6 = 0 then some .cNspec else none
    | 3 => if bits x 5 6 = 0 then some .cCend else none
    | 4 => if bits x 5 6 = 0 then some .cBrk else none
    | _ => none
  | 2 => some (.cBnez (BitVec.ofNat 6 (x / 32)) (BitVec.ofNat 5 x))
  | 3 => some (.cBeqz (BitVec.ofNat 6 (x / 32)) (BitVec.ofNat 5 x))
  | 5 => some (.cBkt (BitVec.ofNat 3 (x / 256)) (BitVec.ofNat 8 x))
  | 6 => some (.cBkf (BitVec.ofNat 3 (x / 256)) (BitVec.ofNat 8 x))
  | _ => none

/-- A 16-bit parcel whose bits [15:14] are not 0b11 (R63). -/
noncomputable def decodeParcelRaw (x : Nat) : Option Instr :=
  match bits x 14 2 with
  | 0 => decCi (bits x 10 4) (BitVec.ofNat 6 (x / 16)) (BitVec.ofNat 4 x)
  | 1 => decCr (bits x 12 2) (BitVec.ofNat 6 (x / 64)) (BitVec.ofNat 6 x)
  | 2 => decCb x
  | _ => none

/-- A 32-bit word: an instruction only if its field values are none that the spec reserves. -/
noncomputable def decodeWord (w : Nat) : Option Instr := (decodeWordRaw w).filter Instr.wellFormed

/-- A 16-bit parcel, with the reserved field values refused (R64). -/
noncomputable def decodeParcel (x : Nat) : Option Instr := (decodeParcelRaw x).filter Instr.wellFormed

/-- The length in bytes that the first parcel gives an instruction (R48). -/
def parcelLength (x : Nat) : Nat := if bits x 14 2 = 3 then 4 else 2

/-- Decodes the parcels `p0` and `p1` (R48–R51). -/
noncomputable def decodeParcels (p0 p1 : Nat) : Decoded :=
  if parcelLength p0 = 4 then
    match decodeWord (p0 + p1 * 65536) with
    | some i => .instr i 4
    | none => if bits p0 8 6 = 0x3F then .permanentlyIllegal 4 else .reserved 4
  else
    match decodeParcel p0 with
    | some i => .instr i 2
    | none => if p0 = 0 then .permanentlyIllegal 2 else .reserved 2

/-- Decodes the bytes at an address; each parcel is little-endian (R48). -/
noncomputable def decodeBytes : List Byte → Decoded
  | a :: b :: rest =>
    let p0 := a.toNat + b.toNat * 256
    if parcelLength p0 = 4 then
      match rest with
      | c :: d :: _ => decodeParcels p0 (c.toNat + d.toNat * 256)
      | _ => .truncated
    else decodeParcels p0 0
  | _ => .truncated

/-- `n` bytes of a number, lowest first. -/
def leBytes : Nat → Nat → List Byte
  | 0, _ => []
  | n + 1, w => BitVec.ofNat 8 w :: leBytes n (w / 256)

/-- The instruction the decoder reads from the bytes of `w` (bits above `nbits` zero), laid out parcel by parcel. -/
noncomputable def decodeTableWord (nbits w : Nat) : Option Instr :=
  match decodeBytes (leBytes 4 (w % 2 ^ nbits)) with
  | .instr i _ => some i
  | _ => none

/-- A 32-bit word from its major opcode, W[31:16] and W[7:0] (R48). -/
def wordOf (major hi lo : Nat) : Nat := hi * 65536 + 49152 + major * 256 + lo

/-- The number of bits and the word of an instruction (Tables 3.2 to 3.15); an event of the package has none. -/
def encode : Instr → Option (Nat × Nat)
  | .add w rd rs1 rs2 => some (32, wordOf 0x01 (rs1.toNat * 1024 + rs2.toNat * 16 + 0) (rd.toNat * 4 + bit w))
  | .sub w rd rs1 rs2 => some (32, wordOf 0x01 (rs1.toNat * 1024 + rs2.toNat * 16 + 1) (rd.toNat * 4 + bit w))
  | .and w rd rs1 rs2 => some (32, wordOf 0x01 (rs1.toNat * 1024 + rs2.toNat * 16 + 2) (rd.toNat * 4 + bit w))
  | .or w rd rs1 rs2 => some (32, wordOf 0x01 (rs1.toNat * 1024 + rs2.toNat * 16 + 3) (rd.toNat * 4 + bit w))
  | .xor w rd rs1 rs2 => some (32, wordOf 0x01 (rs1.toNat * 1024 + rs2.toNat * 16 + 4) (rd.toNat * 4 + bit w))
  | .andn w rd rs1 rs2 => some (32, wordOf 0x01 (rs1.toNat * 1024 + rs2.toNat * 16 + 5) (rd.toNat * 4 + bit w))
  | .sll w rd rs1 rs2 => some (32, wordOf 0x01 (rs1.toNat * 1024 + rs2.toNat * 16 + 6) (rd.toNat * 4 + bit w))
  | .srl w rd rs1 rs2 => some (32, wordOf 0x01 (rs1.toNat * 1024 + rs2.toNat * 16 + 7) (rd.toNat * 4 + bit w))
  | .sra w rd rs1 rs2 => some (32, wordOf 0x01 (rs1.toNat * 1024 + rs2.toNat * 16 + 8) (rd.toNat * 4 + bit w))
  | .rol w rd rs1 rs2 => some (32, wordOf 0x01 (rs1.toNat * 1024 + rs2.toNat * 16 + 9) (rd.toNat * 4 + bit w))
  | .min w rd rs1 rs2 => some (32, wordOf 0x01 (rs1.toNat * 1024 + rs2.toNat * 16 + 10) (rd.toNat * 4 + bit w))
  | .max w rd rs1 rs2 => some (32, wordOf 0x01 (rs1.toNat * 1024 + rs2.toNat * 16 + 11) (rd.toNat * 4 + bit w))
  | .minu w rd rs1 rs2 => some (32, wordOf 0x01 (rs1.toNat * 1024 + rs2.toNat * 16 + 12) (rd.toNat * 4 + bit w))
  | .maxu w rd rs1 rs2 => some (32, wordOf 0x01 (rs1.toNat * 1024 + rs2.toNat * 16 + 13) (rd.toNat * 4 + bit w))
  | .mul w rd rs1 rs2 => some (32, wordOf 0x02 (rs1.toNat * 1024 + rs2.toNat * 16 + 0) (rd.toNat * 4 + bit w))
  | .mulh w rd rs1 rs2 => some (32, wordOf 0x02 (rs1.toNat * 1024 + rs2.toNat * 16 + 1) (rd.toNat * 4 + bit w))
  | .mulhu w rd rs1 rs2 => some (32, wordOf 0x02 (rs1.toNat * 1024 + rs2.toNat * 16 + 2) (rd.toNat * 4 + bit w))
  | .mulhsu w rd rs1 rs2 => some (32, wordOf 0x02 (rs1.toNat * 1024 + rs2.toNat * 16 + 3) (rd.toNat * 4 + bit w))
  | .div w rd rs1 rs2 => some (32, wordOf 0x02 (rs1.toNat * 1024 + rs2.toNat * 16 + 4) (rd.toNat * 4 + bit w))
  | .divu w rd rs1 rs2 => some (32, wordOf 0x02 (rs1.toNat * 1024 + rs2.toNat * 16 + 5) (rd.toNat * 4 + bit w))
  | .rem w rd rs1 rs2 => some (32, wordOf 0x02 (rs1.toNat * 1024 + rs2.toNat * 16 + 6) (rd.toNat * 4 + bit w))
  | .remu w rd rs1 rs2 => some (32, wordOf 0x02 (rs1.toNat * 1024 + rs2.toNat * 16 + 7) (rd.toNat * 4 + bit w))
  | .clz w rd rs1 => some (32, wordOf 0x03 (rs1.toNat * 1024 + 0) (rd.toNat * 4 + bit w))
  | .ctz w rd rs1 => some (32, wordOf 0x03 (rs1.toNat * 1024 + 1) (rd.toNat * 4 + bit w))
  | .popc w rd rs1 => some (32, wordOf 0x03 (rs1.toNat * 1024 + 2) (rd.toNat * 4 + bit w))
  | .rev8 w rd rs1 => some (32, wordOf 0x03 (rs1.toNat * 1024 + 3) (rd.toNat * 4 + bit w))
  | .bfxu rd rs1 pos len => some (32, wordOf 0x04 (rs1.toNat * 1024 + pos.toNat * 16 + len.toNat / 4) (rd.toNat * 4 + len.toNat % 4))
  | .bfxs rd rs1 pos len => some (32, wordOf 0x05 (rs1.toNat * 1024 + pos.toNat * 16 + len.toNat / 4) (rd.toNat * 4 + len.toNat % 4))
  | .bfi rd rs1 pos len => some (32, wordOf 0x06 (rs1.toNat * 1024 + pos.toNat * 16 + len.toNat / 4) (rd.toNat * 4 + len.toNat % 4))
  | .slli w rd rs1 n => some (32, wordOf 0x07 (rs1.toNat * 1024 + n.toNat * 16 + 0) (rd.toNat * 4 + bit w))
  | .srli w rd rs1 n => some (32, wordOf 0x07 (rs1.toNat * 1024 + n.toNat * 16 + 1) (rd.toNat * 4 + bit w))
  | .srai w rd rs1 n => some (32, wordOf 0x07 (rs1.toNat * 1024 + n.toNat * 16 + 2) (rd.toNat * 4 + bit w))
  | .rori w rd rs1 n => some (32, wordOf 0x07 (rs1.toNat * 1024 + n.toNat * 16 + 3) (rd.toNat * 4 + bit w))
  | .addi rd rs1 imm => some (32, wordOf 0x08 (rs1.toNat * 1024 + imm.toNat / 4) (rd.toNat * 4 + imm.toNat % 4))
  | .andi rd rs1 imm => some (32, wordOf 0x09 (rs1.toNat * 1024 + imm.toNat / 4) (rd.toNat * 4 + imm.toNat % 4))
  | .ori rd rs1 imm => some (32, wordOf 0x0A (rs1.toNat * 1024 + imm.toNat / 4) (rd.toNat * 4 + imm.toNat % 4))
  | .xori rd rs1 imm => some (32, wordOf 0x0B (rs1.toNat * 1024 + imm.toNat / 4) (rd.toNat * 4 + imm.toNat % 4))
  | .li rd imm => some (32, wordOf 0x0C (imm.toNat / 4) (rd.toNat * 4 + imm.toNat % 4))
  | .lih rd imm => some (32, wordOf 0x0D (imm.toNat / 4) (rd.toNat * 4 + imm.toNat % 4))
  | .leaPc rd imm => some (32, wordOf 0x0E (imm.toNat / 4) (rd.toNat * 4 + imm.toNat % 4))
  | .lea q rd rs1 rs2 => some (32, wordOf 0x0F (rs1.toNat * 1024 + rs2.toNat * 16 + 0) (rd.toNat * 4 + q.toNat))
  | .keq w kd rs1 rs2 => some (32, wordOf 0x10 (rs1.toNat * 1024 + rs2.toNat * 16 + 0) (kd.toNat * 4 + bit w))
  | .kne w kd rs1 rs2 => some (32, wordOf 0x10 (rs1.toNat * 1024 + rs2.toNat * 16 + 1) (kd.toNat * 4 + bit w))
  | .klt w kd rs1 rs2 => some (32, wordOf 0x10 (rs1.toNat * 1024 + rs2.toNat * 16 + 2) (kd.toNat * 4 + bit w))
  | .kge w kd rs1 rs2 => some (32, wordOf 0x10 (rs1.toNat * 1024 + rs2.toNat * 16 + 3) (kd.toNat * 4 + bit w))
  | .kltu w kd rs1 rs2 => some (32, wordOf 0x10 (rs1.toNat * 1024 + rs2.toNat * 16 + 4) (kd.toNat * 4 + bit w))
  | .kgeu w kd rs1 rs2 => some (32, wordOf 0x10 (rs1.toNat * 1024 + rs2.toNat * 16 + 5) (kd.toNat * 4 + bit w))
  | .kand kd ka kb => some (32, wordOf 0x10 (ka.toNat * 1024 + kb.toNat * 16 + 8) (kd.toNat * 4))
  | .kor kd ka kb => some (32, wordOf 0x10 (ka.toNat * 1024 + kb.toNat * 16 + 9) (kd.toNat * 4))
  | .kxor kd ka kb => some (32, wordOf 0x10 (ka.toNat * 1024 + kb.toNat * 16 + 10) (kd.toNat * 4))
  | .kset kd rs1 => some (32, wordOf 0x10 (rs1.toNat * 1024 + 11) (kd.toNat * 4))
  | .sel rd k rs1 rs2 => some (32, wordOf 0x11 (rs1.toNat * 1024 + rs2.toNat * 16 + k.toNat) (rd.toNat * 4))
  | .fadd sg rd rs1 rs2 => some (32, wordOf 0x12 (rs1.toNat * 1024 + rs2.toNat * 16 + 0) (rd.toNat * 4 + bit sg))
  | .fsub sg rd rs1 rs2 => some (32, wordOf 0x12 (rs1.toNat * 1024 + rs2.toNat * 16 + 1) (rd.toNat * 4 + bit sg))
  | .fmul sg rd rs1 rs2 => some (32, wordOf 0x12 (rs1.toNat * 1024 + rs2.toNat * 16 + 2) (rd.toNat * 4 + bit sg))
  | .fdiv sg rd rs1 rs2 => some (32, wordOf 0x12 (rs1.toNat * 1024 + rs2.toNat * 16 + 3) (rd.toNat * 4 + bit sg))
  | .fsqrt sg rd rs1 => some (32, wordOf 0x12 (rs1.toNat * 1024 + 4) (rd.toNat * 4 + bit sg))
  | .fmin sg rd rs1 rs2 => some (32, wordOf 0x12 (rs1.toNat * 1024 + rs2.toNat * 16 + 5) (rd.toNat * 4 + bit sg))
  | .fmax sg rd rs1 rs2 => some (32, wordOf 0x12 (rs1.toNat * 1024 + rs2.toNat * 16 + 6) (rd.toNat * 4 + bit sg))
  | .fmacc sg rd rs1 rs2 => some (32, wordOf 0x12 (rs1.toNat * 1024 + rs2.toNat * 16 + 7) (rd.toNat * 4 + bit sg))
  | .fmsac sg rd rs1 rs2 => some (32, wordOf 0x12 (rs1.toNat * 1024 + rs2.toNat * 16 + 8) (rd.toNat * 4 + bit sg))
  | .fneg sg rd rs1 => some (32, wordOf 0x12 (rs1.toNat * 1024 + 9) (rd.toNat * 4 + bit sg))
  | .fabs sg rd rs1 => some (32, wordOf 0x12 (rs1.toNat * 1024 + 10) (rd.toNat * 4 + bit sg))
  | .kfeq sg kd rs1 rs2 => some (32, wordOf 0x13 (rs1.toNat * 1024 + rs2.toNat * 16 + 0) (kd.toNat * 4 + bit sg))
  | .kflt sg kd rs1 rs2 => some (32, wordOf 0x13 (rs1.toNat * 1024 + rs2.toNat * 16 + 1) (kd.toNat * 4 + bit sg))
  | .kfle sg kd rs1 rs2 => some (32, wordOf 0x13 (rs1.toNat * 1024 + rs2.toNat * 16 + 2) (kd.toNat * 4 + bit sg))
  | .kfun sg kd rs1 rs2 => some (32, wordOf 0x13 (rs1.toNat * 1024 + rs2.toNat * 16 + 3) (kd.toNat * 4 + bit sg))
  | .fcvtSD rm rd rs1 => some (32, wordOf 0x14 (rs1.toNat * 1024 + rm.toNat * 16 + 0) (rd.toNat * 4))
  | .fcvtDS rd rs1 => some (32, wordOf 0x14 (rs1.toNat * 1024 + 7 * 16 + 1) (rd.toNat * 4))
  | .fcvtLF sg rm rd rs1 => some (32, wordOf 0x14 (rs1.toNat * 1024 + rm.toNat * 16 + 2) (rd.toNat * 4 + bit sg))
  | .fcvtLuF sg rm rd rs1 => some (32, wordOf 0x14 (rs1.toNat * 1024 + rm.toNat * 16 + 3) (rd.toNat * 4 + bit sg))
  | .fcvtFL sg rm rd rs1 => some (32, wordOf 0x14 (rs1.toNat * 1024 + rm.toNat * 16 + 4) (rd.toNat * 4 + bit sg))
  | .fcvtFLu sg rm rd rs1 => some (32, wordOf 0x14 (rs1.toNat * 1024 + rm.toNat * 16 + 5) (rd.toNat * 4 + bit sg))
  | .fcvtWF sg rm rd rs1 => some (32, wordOf 0x14 (rs1.toNat * 1024 + rm.toNat * 16 + 6) (rd.toNat * 4 + bit sg))
  | .fcvtFW sg rm rd rs1 => some (32, wordOf 0x14 (rs1.toNat * 1024 + rm.toNat * 16 + 7) (rd.toNat * 4 + bit sg))
  | .beq rs1 rs2 off => some (32, wordOf 0x15 (rs1.toNat * 1024 + rs2.toNat * 16 + 0 * 8 + off.toNat / 256) (off.toNat % 256))
  | .bne rs1 rs2 off => some (32, wordOf 0x15 (rs1.toNat * 1024 + rs2.toNat * 16 + 1 * 8 + off.toNat / 256) (off.toNat % 256))
  | .blt rs1 rs2 off => some (32, wordOf 0x16 (rs1.toNat * 1024 + rs2.toNat * 16 + 0 * 8 + off.toNat / 256) (off.toNat % 256))
  | .bge rs1 rs2 off => some (32, wordOf 0x16 (rs1.toNat * 1024 + rs2.toNat * 16 + 1 * 8 + off.toNat / 256) (off.toNat % 256))
  | .bltu rs1 rs2 off => some (32, wordOf 0x17 (rs1.toNat * 1024 + rs2.toNat * 16 + 0 * 8 + off.toNat / 256) (off.toNat % 256))
  | .bgeu rs1 rs2 off => some (32, wordOf 0x17 (rs1.toNat * 1024 + rs2.toNat * 16 + 1 * 8 + off.toNat / 256) (off.toNat % 256))
  | .bkt k off => some (32, wordOf 0x18 (k.toNat * 8192 + 0 * 4096 + off.toNat / 256) (off.toNat % 256))
  | .bkf k off => some (32, wordOf 0x18 (k.toNat * 8192 + 1 * 4096 + off.toNat / 256) (off.toNat % 256))
  | .jal rd off => some (32, wordOf 0x19 (off.toNat / 4) (rd.toNat * 4 + off.toNat % 4))
  | .jalr rd rs1 imm => some (32, wordOf 0x1A (rs1.toNat * 1024 + imm.toNat / 4) (rd.toNat * 4 + imm.toNat % 4))
  | .loop rs1 off => some (32, wordOf 0x1B (rs1.toNat * 1024 + off.toNat / 256) (off.toNat % 256))
  | .loopi cnt off => some (32, wordOf 0x1C (cnt.toNat * 16 + off.toNat / 256) (off.toNat % 256))
  | .ld sz reg base off => some (32, wordOf 0x1D (base.toNat * 1024 + off.toNat) (reg.toNat * 4 + sz.toNat))
  | .ldu sz reg base off => some (32, wordOf 0x1E (base.toNat * 1024 + off.toNat) (reg.toNat * 4 + sz.toNat))
  | .st sz reg base off => some (32, wordOf 0x1F (base.toNat * 1024 + off.toNat) (reg.toNat * 4 + sz.toNat))
  | .ldo ord sc x sz reg base off => some (32, wordOf 0x20 (base.toNat * 1024 + ord.toNat * 256 + sc.toNat * 32 + bit x * 16 + off.toNat) (reg.toNat * 4 + sz.toNat))
  | .sto ord sc sz reg base off => some (32, wordOf 0x21 (base.toNat * 1024 + ord.toNat * 256 + sc.toNat * 32 + off.toNat) (reg.toNat * 4 + sz.toNat))
  | .amSwap d ord rd rs1 rs2 => some (32, wordOf (0x22 + bit d) (rs1.toNat * 1024 + rs2.toNat * 16 + 0) (rd.toNat * 4 + ord.toNat))
  | .amAdd d ord rd rs1 rs2 => some (32, wordOf (0x22 + bit d) (rs1.toNat * 1024 + rs2.toNat * 16 + 1) (rd.toNat * 4 + ord.toNat))
  | .amAnd d ord rd rs1 rs2 => some (32, wordOf (0x22 + bit d) (rs1.toNat * 1024 + rs2.toNat * 16 + 2) (rd.toNat * 4 + ord.toNat))
  | .amOr d ord rd rs1 rs2 => some (32, wordOf (0x22 + bit d) (rs1.toNat * 1024 + rs2.toNat * 16 + 3) (rd.toNat * 4 + ord.toNat))
  | .amXor d ord rd rs1 rs2 => some (32, wordOf (0x22 + bit d) (rs1.toNat * 1024 + rs2.toNat * 16 + 4) (rd.toNat * 4 + ord.toNat))
  | .amMin d ord rd rs1 rs2 => some (32, wordOf (0x22 + bit d) (rs1.toNat * 1024 + rs2.toNat * 16 + 5) (rd.toNat * 4 + ord.toNat))
  | .amMax d ord rd rs1 rs2 => some (32, wordOf (0x22 + bit d) (rs1.toNat * 1024 + rs2.toNat * 16 + 6) (rd.toNat * 4 + ord.toNat))
  | .amMinu d ord rd rs1 rs2 => some (32, wordOf (0x22 + bit d) (rs1.toNat * 1024 + rs2.toNat * 16 + 7) (rd.toNat * 4 + ord.toNat))
  | .amMaxu d ord rd rs1 rs2 => some (32, wordOf (0x22 + bit d) (rs1.toNat * 1024 + rs2.toNat * 16 + 8) (rd.toNat * 4 + ord.toNat))
  | .amCas d ord rd rs1 rs2 => some (32, wordOf (0x22 + bit d) (rs1.toNat * 1024 + rs2.toNat * 16 + 9) (rd.toNat * 4 + ord.toNat))
  | .farSwap d rd rs1 rs2 => some (32, wordOf 0x24 (rs1.toNat * 1024 + rs2.toNat * 16 + 0) (rd.toNat * 4 + 2 + bit d))
  | .farAdd d rd rs1 rs2 => some (32, wordOf 0x24 (rs1.toNat * 1024 + rs2.toNat * 16 + 1) (rd.toNat * 4 + 2 + bit d))
  | .farAnd d rd rs1 rs2 => some (32, wordOf 0x24 (rs1.toNat * 1024 + rs2.toNat * 16 + 2) (rd.toNat * 4 + 2 + bit d))
  | .farOr d rd rs1 rs2 => some (32, wordOf 0x24 (rs1.toNat * 1024 + rs2.toNat * 16 + 3) (rd.toNat * 4 + 2 + bit d))
  | .farXor d rd rs1 rs2 => some (32, wordOf 0x24 (rs1.toNat * 1024 + rs2.toNat * 16 + 4) (rd.toNat * 4 + 2 + bit d))
  | .farMin d rd rs1 rs2 => some (32, wordOf 0x24 (rs1.toNat * 1024 + rs2.toNat * 16 + 5) (rd.toNat * 4 + 2 + bit d))
  | .farMax d rd rs1 rs2 => some (32, wordOf 0x24 (rs1.toNat * 1024 + rs2.toNat * 16 + 6) (rd.toNat * 4 + 2 + bit d))
  | .farMinu d rd rs1 rs2 => some (32, wordOf 0x24 (rs1.toNat * 1024 + rs2.toNat * 16 + 7) (rd.toNat * 4 + 2 + bit d))
  | .farMaxu d rd rs1 rs2 => some (32, wordOf 0x24 (rs1.toNat * 1024 + rs2.toNat * 16 + 8) (rd.toNat * 4 + 2 + bit d))
  | .farCas d rd rs1 rs2 => some (32, wordOf 0x24 (rs1.toNat * 1024 + rs2.toNat * 16 + 9) (rd.toNat * 4 + 2 + bit d))
  | .yld y reg => some (32, wordOf 0x25 (y.toNat) (reg.toNat * 4 + 0))
  | .yst y reg => some (32, wordOf 0x25 (y.toNat) (reg.toNat * 4 + 1))
  | .yts y reg => some (32, wordOf 0x25 (y.toNat) (reg.toNat * 4 + 2))
  | .yfad y reg => some (32, wordOf 0x25 (y.toNat) (reg.toNat * 4 + 3))
  | .ybar y reg => some (32, wordOf 0x26 (y.toNat) (reg.toNat * 4 + 0))
  | .yldX rd rs1 => some (32, wordOf 0x27 (rs1.toNat * 1024 + 0) (rd.toNat * 4))
  | .ystX rs1 rs2 => some (32, wordOf 0x27 (rs1.toNat * 1024 + rs2.toNat * 16 + 1) (0))
  | .ytsX rd rs1 => some (32, wordOf 0x27 (rs1.toNat * 1024 + 2) (rd.toNat * 4))
  | .yfadX rd rs1 rs2 => some (32, wordOf 0x27 (rs1.toNat * 1024 + rs2.toNat * 16 + 3) (rd.toNat * 4))
  | .ybarX rs1 rs2 => some (32, wordOf 0x27 (rs1.toNat * 1024 + rs2.toNat * 16 + 4) (0))
  | .swait rs1 rs2 => some (32, wordOf 0x27 (rs1.toNat * 1024 + rs2.toNat * 16 + 5) (0))
  | .fence ord sc => some (32, wordOf 0x28 (sc.toNat * 64 + ord.toNat * 16) (0))
  | .fenceX sc pa pb => some (32, wordOf 0x28 (pa.toNat * 512 + sc.toNat * 64 + 1) (pb.toNat * 2))
  | .vdrain => some (32, 190464)
  | .setvl ew rd rs1 => some (32, wordOf 0x29 (rs1.toNat * 1024 + ew.toNat) (rd.toNat * 4))
  | .setvli ew rd uimm => some (32, wordOf 0x29 (uimm.toNat * 16 + ew.toNat) (rd.toNat * 4 + 1))
  | .vadd pm pg vd vs1 vs2 => some (32, wordOf 0x2A (vs1.toNat * 2048 + vs2.toNat * 64 + pg.toNat * 4 + 0) (vd.toNat * 8 + bit pm * 4 + 0))
  | .vsub pm pg vd vs1 vs2 => some (32, wordOf 0x2A (vs1.toNat * 2048 + vs2.toNat * 64 + pg.toNat * 4 + 0) (vd.toNat * 8 + bit pm * 4 + 1))
  | .vmul pm pg vd vs1 vs2 => some (32, wordOf 0x2A (vs1.toNat * 2048 + vs2.toNat * 64 + pg.toNat * 4 + 0) (vd.toNat * 8 + bit pm * 4 + 2))
  | .vmulh pm pg vd vs1 vs2 => some (32, wordOf 0x2A (vs1.toNat * 2048 + vs2.toNat * 64 + pg.toNat * 4 + 0) (vd.toNat * 8 + bit pm * 4 + 3))
  | .vand pm pg vd vs1 vs2 => some (32, wordOf 0x2A (vs1.toNat * 2048 + vs2.toNat * 64 + pg.toNat * 4 + 1) (vd.toNat * 8 + bit pm * 4 + 0))
  | .vor pm pg vd vs1 vs2 => some (32, wordOf 0x2A (vs1.toNat * 2048 + vs2.toNat * 64 + pg.toNat * 4 + 1) (vd.toNat * 8 + bit pm * 4 + 1))
  | .vxor pm pg vd vs1 vs2 => some (32, wordOf 0x2A (vs1.toNat * 2048 + vs2.toNat * 64 + pg.toNat * 4 + 1) (vd.toNat * 8 + bit pm * 4 + 2))
  | .vsll pm pg vd vs1 vs2 => some (32, wordOf 0x2A (vs1.toNat * 2048 + vs2.toNat * 64 + pg.toNat * 4 + 1) (vd.toNat * 8 + bit pm * 4 + 3))
  | .vsrl pm pg vd vs1 vs2 => some (32, wordOf 0x2A (vs1.toNat * 2048 + vs2.toNat * 64 + pg.toNat * 4 + 2) (vd.toNat * 8 + bit pm * 4 + 0))
  | .vsra pm pg vd vs1 vs2 => some (32, wordOf 0x2A (vs1.toNat * 2048 + vs2.toNat * 64 + pg.toNat * 4 + 2) (vd.toNat * 8 + bit pm * 4 + 1))
  | .vmin pm pg vd vs1 vs2 => some (32, wordOf 0x2A (vs1.toNat * 2048 + vs2.toNat * 64 + pg.toNat * 4 + 2) (vd.toNat * 8 + bit pm * 4 + 2))
  | .vmax pm pg vd vs1 vs2 => some (32, wordOf 0x2A (vs1.toNat * 2048 + vs2.toNat * 64 + pg.toNat * 4 + 2) (vd.toNat * 8 + bit pm * 4 + 3))
  | .vminu pm pg vd vs1 vs2 => some (32, wordOf 0x2A (vs1.toNat * 2048 + vs2.toNat * 64 + pg.toNat * 4 + 3) (vd.toNat * 8 + bit pm * 4 + 0))
  | .vmaxu pm pg vd vs1 vs2 => some (32, wordOf 0x2A (vs1.toNat * 2048 + vs2.toNat * 64 + pg.toNat * 4 + 3) (vd.toNat * 8 + bit pm * 4 + 1))
  | .vsadd pm pg vd vs1 vs2 => some (32, wordOf 0x2A (vs1.toNat * 2048 + vs2.toNat * 64 + pg.toNat * 4 + 3) (vd.toNat * 8 + bit pm * 4 + 2))
  | .vssub pm pg vd vs1 vs2 => some (32, wordOf 0x2A (vs1.toNat * 2048 + vs2.toNat * 64 + pg.toNat * 4 + 3) (vd.toNat * 8 + bit pm * 4 + 3))
  | .vaddVx pm pg vd vs1 rs => some (32, wordOf 0x2B (vs1.toNat * 2048 + rs.toNat * 32 + pg.toNat * 2 + 0) (vd.toNat * 8 + bit pm * 4 + 0))
  | .vsubVx pm pg vd vs1 rs => some (32, wordOf 0x2B (vs1.toNat * 2048 + rs.toNat * 32 + pg.toNat * 2 + 0) (vd.toNat * 8 + bit pm * 4 + 1))
  | .vmulVx pm pg vd vs1 rs => some (32, wordOf 0x2B (vs1.toNat * 2048 + rs.toNat * 32 + pg.toNat * 2 + 0) (vd.toNat * 8 + bit pm * 4 + 2))
  | .vandVx pm pg vd vs1 rs => some (32, wordOf 0x2B (vs1.toNat * 2048 + rs.toNat * 32 + pg.toNat * 2 + 0) (vd.toNat * 8 + bit pm * 4 + 3))
  | .vsllVx pm pg vd vs1 rs => some (32, wordOf 0x2B (vs1.toNat * 2048 + rs.toNat * 32 + pg.toNat * 2 + 1) (vd.toNat * 8 + bit pm * 4 + 0))
  | .vsrlVx pm pg vd vs1 rs => some (32, wordOf 0x2B (vs1.toNat * 2048 + rs.toNat * 32 + pg.toNat * 2 + 1) (vd.toNat * 8 + bit pm * 4 + 1))
  | .vsraVx pm pg vd vs1 rs => some (32, wordOf 0x2B (vs1.toNat * 2048 + rs.toNat * 32 + pg.toNat * 2 + 1) (vd.toNat * 8 + bit pm * 4 + 2))
  | .vmvVx pm pg vd rs => some (32, wordOf 0x2B (rs.toNat * 32 + pg.toNat * 2 + 1) (vd.toNat * 8 + bit pm * 4 + 3))
  | .vfadd pm pg vd vs1 vs2 => some (32, wordOf 0x2C (vs1.toNat * 2048 + vs2.toNat * 64 + pg.toNat * 4 + 0) (vd.toNat * 8 + bit pm * 4 + 0))
  | .vfsub pm pg vd vs1 vs2 => some (32, wordOf 0x2C (vs1.toNat * 2048 + vs2.toNat * 64 + pg.toNat * 4 + 0) (vd.toNat * 8 + bit pm * 4 + 1))
  | .vfmul pm pg vd vs1 vs2 => some (32, wordOf 0x2C (vs1.toNat * 2048 + vs2.toNat * 64 + pg.toNat * 4 + 0) (vd.toNat * 8 + bit pm * 4 + 2))
  | .vfdiv pm pg vd vs1 vs2 => some (32, wordOf 0x2C (vs1.toNat * 2048 + vs2.toNat * 64 + pg.toNat * 4 + 0) (vd.toNat * 8 + bit pm * 4 + 3))
  | .vfmin pm pg vd vs1 vs2 => some (32, wordOf 0x2C (vs1.toNat * 2048 + vs2.toNat * 64 + pg.toNat * 4 + 1) (vd.toNat * 8 + bit pm * 4 + 0))
  | .vfmax pm pg vd vs1 vs2 => some (32, wordOf 0x2C (vs1.toNat * 2048 + vs2.toNat * 64 + pg.toNat * 4 + 1) (vd.toNat * 8 + bit pm * 4 + 1))
  | .vfmacc pm pg vd vs1 vs2 => some (32, wordOf 0x2C (vs1.toNat * 2048 + vs2.toNat * 64 + pg.toNat * 4 + 1) (vd.toNat * 8 + bit pm * 4 + 2))
  | .vfmsac pm pg vd vs1 vs2 => some (32, wordOf 0x2C (vs1.toNat * 2048 + vs2.toNat * 64 + pg.toNat * 4 + 1) (vd.toNat * 8 + bit pm * 4 + 3))
  | .vfsqrt pm pg vd vs1 => some (32, wordOf 0x2C (vs1.toNat * 2048 + pg.toNat * 4 + 2) (vd.toNat * 8 + bit pm * 4 + 0))
  | .vfneg pm pg vd vs1 => some (32, wordOf 0x2C (vs1.toNat * 2048 + pg.toNat * 4 + 2) (vd.toNat * 8 + bit pm * 4 + 1))
  | .vfabs pm pg vd vs1 => some (32, wordOf 0x2C (vs1.toNat * 2048 + pg.toNat * 4 + 2) (vd.toNat * 8 + bit pm * 4 + 2))
  | .vfaddVx pm pg vd vs1 rs => some (32, wordOf 0x2D (vs1.toNat * 2048 + rs.toNat * 32 + pg.toNat * 2 + 0) (vd.toNat * 8 + bit pm * 4 + 0))
  | .vfmulVx pm pg vd vs1 rs => some (32, wordOf 0x2D (vs1.toNat * 2048 + rs.toNat * 32 + pg.toNat * 2 + 0) (vd.toNat * 8 + bit pm * 4 + 1))
  | .vfmaccVx pm pg vd vs1 rs => some (32, wordOf 0x2D (vs1.toNat * 2048 + rs.toNat * 32 + pg.toNat * 2 + 0) (vd.toNat * 8 + bit pm * 4 + 2))
  | .vfmvVx pm pg vd rs => some (32, wordOf 0x2D (rs.toNat * 32 + pg.toNat * 2 + 0) (vd.toNat * 8 + bit pm * 4 + 3))
  | .vdeq aq8 grp pm pg vd vs1 vs2 => some (32, wordOf 0x2E (vs1.toNat * 2048 + vs2.toNat * 64 + pg.toNat * 4 + bit aq8 * 2 + 0) (vd.toNat * 8 + bit pm * 4 + grp.toNat))
  | .vquant aq8 grp pm pg vd vs1 vs2 => some (32, wordOf 0x2E (vs1.toNat * 2048 + vs2.toNat * 64 + pg.toNat * 4 + bit aq8 * 2 + 1) (vd.toNat * 8 + bit pm * 4 + grp.toNat))
  | .vwmacc pm pg vdp vs1 vs2 => some (32, wordOf 0x2F (vs1.toNat * 2048 + vs2.toNat * 64 + pg.toNat * 4 + 0) (vdp.toNat * 16 + bit pm * 4 + 0))
  | .vwmaccu pm pg vdp vs1 vs2 => some (32, wordOf 0x2F (vs1.toNat * 2048 + vs2.toNat * 64 + pg.toNat * 4 + 0) (vdp.toNat * 16 + bit pm * 4 + 1))
  | .vwmaccsu pm pg vdp vs1 vs2 => some (32, wordOf 0x2F (vs1.toNat * 2048 + vs2.toNat * 64 + pg.toNat * 4 + 0) (vdp.toNat * 16 + bit pm * 4 + 2))
  | .vfwmacc pm pg vdp vs1 vs2 => some (32, wordOf 0x2F (vs1.toNat * 2048 + vs2.toNat * 64 + pg.toNat * 4 + 0) (vdp.toNat * 16 + bit pm * 4 + 3))
  | .vbfwmacc pm pg vdp vs1 vs2 => some (32, wordOf 0x2F (vs1.toNat * 2048 + vs2.toNat * 64 + pg.toNat * 4 + 1) (vdp.toNat * 16 + bit pm * 4 + 0))
  | .vwmul pm pg vdp vs1 vs2 => some (32, wordOf 0x2F (vs1.toNat * 2048 + vs2.toNat * 64 + pg.toNat * 4 + 1) (vdp.toNat * 16 + bit pm * 4 + 1))
  | .vwmulu pm pg vdp vs1 vs2 => some (32, wordOf 0x2F (vs1.toNat * 2048 + vs2.toNat * 64 + pg.toNat * 4 + 1) (vdp.toNat * 16 + bit pm * 4 + 2))
  | .vfwmul pm pg vdp vs1 vs2 => some (32, wordOf 0x2F (vs1.toNat * 2048 + vs2.toNat * 64 + pg.toNat * 4 + 1) (vdp.toNat * 16 + bit pm * 4 + 3))
  | .vncvt pm pg vd vs1 => some (32, wordOf 0x30 (vs1.toNat * 2048 + pg.toNat * 4 + 0) (vd.toNat * 8 + bit pm * 4 + 0))
  | .vnclip pm pg vd vs1 => some (32, wordOf 0x30 (vs1.toNat * 2048 + pg.toNat * 4 + 0) (vd.toNat * 8 + bit pm * 4 + 1))
  | .vnclipu pm pg vd vs1 => some (32, wordOf 0x30 (vs1.toNat * 2048 + pg.toNat * 4 + 0) (vd.toNat * 8 + bit pm * 4 + 2))
  | .vfcvt pm pg vd vs1 fmt => some (32, wordOf 0x30 (vs1.toNat * 2048 + fmt.toNat * 64 + pg.toNat * 4 + 0) (vd.toNat * 8 + bit pm * 4 + 3))
  | .vfcvtX pm pg vd vs1 => some (32, wordOf 0x30 (vs1.toNat * 2048 + pg.toNat * 4 + 1) (vd.toNat * 8 + bit pm * 4 + 0))
  | .vfcvtF pm pg vd vs1 fmt => some (32, wordOf 0x30 (vs1.toNat * 2048 + fmt.toNat * 64 + pg.toNat * 4 + 1) (vd.toNat * 8 + bit pm * 4 + 1))
  | .vredsum pm pg vd vs1 vs2 => some (32, wordOf 0x31 (vs1.toNat * 2048 + vs2.toNat * 64 + pg.toNat * 4 + 0) (vd.toNat * 8 + bit pm * 4 + 0))
  | .vredmax pm pg vd vs1 vs2 => some (32, wordOf 0x31 (vs1.toNat * 2048 + vs2.toNat * 64 + pg.toNat * 4 + 0) (vd.toNat * 8 + bit pm * 4 + 1))
  | .vredmin pm pg vd vs1 vs2 => some (32, wordOf 0x31 (vs1.toNat * 2048 + vs2.toNat * 64 + pg.toNat * 4 + 0) (vd.toNat * 8 + bit pm * 4 + 2))
  | .vredmaxu pm pg vd vs1 vs2 => some (32, wordOf 0x31 (vs1.toNat * 2048 + vs2.toNat * 64 + pg.toNat * 4 + 0) (vd.toNat * 8 + bit pm * 4 + 3))
  | .vredminu pm pg vd vs1 vs2 => some (32, wordOf 0x31 (vs1.toNat * 2048 + vs2.toNat * 64 + pg.toNat * 4 + 1) (vd.toNat * 8 + bit pm * 4 + 0))
  | .vfredsumO pm pg vd vs1 vs2 => some (32, wordOf 0x31 (vs1.toNat * 2048 + vs2.toNat * 64 + pg.toNat * 4 + 1) (vd.toNat * 8 + bit pm * 4 + 1))
  | .vfredsumT pm pg vd vs1 vs2 => some (32, wordOf 0x31 (vs1.toNat * 2048 + vs2.toNat * 64 + pg.toNat * 4 + 1) (vd.toNat * 8 + bit pm * 4 + 2))
  | .vfredmax pm pg vd vs1 vs2 => some (32, wordOf 0x31 (vs1.toNat * 2048 + vs2.toNat * 64 + pg.toNat * 4 + 1) (vd.toNat * 8 + bit pm * 4 + 3))
  | .vfredmin pm pg vd vs1 vs2 => some (32, wordOf 0x31 (vs1.toNat * 2048 + vs2.toNat * 64 + pg.toNat * 4 + 2) (vd.toNat * 8 + bit pm * 4 + 0))
  | .vscan pm pg vd vs1 vs2 => some (32, wordOf 0x31 (vs1.toNat * 2048 + vs2.toNat * 64 + pg.toNat * 4 + 2) (vd.toNat * 8 + bit pm * 4 + 1))
  | .vfscan pm pg vd vs1 vs2 => some (32, wordOf 0x31 (vs1.toNat * 2048 + vs2.toNat * 64 + pg.toNat * 4 + 2) (vd.toNat * 8 + bit pm * 4 + 2))
  | .vrgather pm pg vd vs1 vs2 => some (32, wordOf 0x32 (vs1.toNat * 2048 + vs2.toNat * 64 + pg.toNat * 4 + 0) (vd.toNat * 8 + bit pm * 4 + 0))
  | .vcompress pm pg vd vs1 => some (32, wordOf 0x32 (vs1.toNat * 2048 + pg.toNat * 4 + 0) (vd.toNat * 8 + bit pm * 4 + 1))
  | .viota pm pg vd => some (32, wordOf 0x32 (pg.toNat * 4 + 0) (vd.toNat * 8 + bit pm * 4 + 2))
  | .vid pm pg vd => some (32, wordOf 0x32 (pg.toNat * 4 + 0) (vd.toNat * 8 + bit pm * 4 + 3))
  | .vslideup pm pg vd vs1 rs => some (32, wordOf 0x33 (vs1.toNat * 2048 + rs.toNat * 32 + pg.toNat * 2 + 0) (vd.toNat * 8 + bit pm * 4 + 0))
  | .vslidedn pm pg vd vs1 rs => some (32, wordOf 0x33 (vs1.toNat * 2048 + rs.toNat * 32 + pg.toNat * 2 + 0) (vd.toNat * 8 + bit pm * 4 + 1))
  | .vslide1up pm pg vd vs1 rs => some (32, wordOf 0x33 (vs1.toNat * 2048 + rs.toNat * 32 + pg.toNat * 2 + 0) (vd.toNat * 8 + bit pm * 4 + 2))
  | .vslide1dn pm pg vd vs1 rs => some (32, wordOf 0x33 (vs1.toNat * 2048 + rs.toNat * 32 + pg.toNat * 2 + 0) (vd.toNat * 8 + bit pm * 4 + 3))
  | .vmvXs rs vs1 => some (32, wordOf 0x33 (vs1.toNat * 2048 + rs.toNat * 32 + 1) (0))
  | .vmvSx vd rs => some (32, wordOf 0x33 (rs.toNat * 32 + 1) (vd.toNat * 8 + 1))
  | .vexp2 pm pg vd vs1 => some (32, wordOf 0x34 (vs1.toNat * 2048 + pg.toNat * 4 + 0) (vd.toNat * 8 + bit pm * 4 + 0))
  | .vlog2 pm pg vd vs1 => some (32, wordOf 0x34 (vs1.toNat * 2048 + pg.toNat * 4 + 0) (vd.toNat * 8 + bit pm * 4 + 1))
  | .vrcp pm pg vd vs1 => some (32, wordOf 0x34 (vs1.toNat * 2048 + pg.toNat * 4 + 0) (vd.toNat * 8 + bit pm * 4 + 2))
  | .vrsqrt pm pg vd vs1 => some (32, wordOf 0x34 (vs1.toNat * 2048 + pg.toNat * 4 + 0) (vd.toNat * 8 + bit pm * 4 + 3))
  | .vsin pm pg vd vs1 => some (32, wordOf 0x34 (vs1.toNat * 2048 + pg.toNat * 4 + 1) (vd.toNat * 8 + bit pm * 4 + 0))
  | .vcos pm pg vd vs1 => some (32, wordOf 0x34 (vs1.toNat * 2048 + pg.toNat * 4 + 1) (vd.toNat * 8 + bit pm * 4 + 1))
  | .vtanh pm pg vd vs1 => some (32, wordOf 0x34 (vs1.toNat * 2048 + pg.toNat * 4 + 1) (vd.toNat * 8 + bit pm * 4 + 2))
  | .verf pm pg vd vs1 => some (32, wordOf 0x34 (vs1.toNat * 2048 + pg.toNat * 4 + 1) (vd.toNat * 8 + bit pm * 4 + 3))
  | .vmseq pm pg pd vs1 vs2 => some (32, wordOf 0x35 (vs1.toNat * 2048 + vs2.toNat * 64 + pg.toNat * 4 + 0) (pd.toNat * 8 + bit pm * 4 + 0))
  | .vmsne pm pg pd vs1 vs2 => some (32, wordOf 0x35 (vs1.toNat * 2048 + vs2.toNat * 64 + pg.toNat * 4 + 0) (pd.toNat * 8 + bit pm * 4 + 1))
  | .vmslt pm pg pd vs1 vs2 => some (32, wordOf 0x35 (vs1.toNat * 2048 + vs2.toNat * 64 + pg.toNat * 4 + 0) (pd.toNat * 8 + bit pm * 4 + 2))
  | .vmsle pm pg pd vs1 vs2 => some (32, wordOf 0x35 (vs1.toNat * 2048 + vs2.toNat * 64 + pg.toNat * 4 + 0) (pd.toNat * 8 + bit pm * 4 + 3))
  | .vmsltu pm pg pd vs1 vs2 => some (32, wordOf 0x35 (vs1.toNat * 2048 + vs2.toNat * 64 + pg.toNat * 4 + 1) (pd.toNat * 8 + bit pm * 4 + 0))
  | .vmsleu pm pg pd vs1 vs2 => some (32, wordOf 0x35 (vs1.toNat * 2048 + vs2.toNat * 64 + pg.toNat * 4 + 1) (pd.toNat * 8 + bit pm * 4 + 1))
  | .vmfeq pm pg pd vs1 vs2 => some (32, wordOf 0x35 (vs1.toNat * 2048 + vs2.toNat * 64 + pg.toNat * 4 + 1) (pd.toNat * 8 + bit pm * 4 + 2))
  | .vmflt pm pg pd vs1 vs2 => some (32, wordOf 0x35 (vs1.toNat * 2048 + vs2.toNat * 64 + pg.toNat * 4 + 1) (pd.toNat * 8 + bit pm * 4 + 3))
  | .vmfle pm pg pd vs1 vs2 => some (32, wordOf 0x35 (vs1.toNat * 2048 + vs2.toNat * 64 + pg.toNat * 4 + 2) (pd.toNat * 8 + bit pm * 4 + 0))
  | .vmfun pm pg pd vs1 vs2 => some (32, wordOf 0x35 (vs1.toNat * 2048 + vs2.toNat * 64 + pg.toNat * 4 + 2) (pd.toNat * 8 + bit pm * 4 + 1))
  | .pand pg pd pa pb => some (32, wordOf 0x36 (pa.toNat * 4096 + pb.toNat * 256 + pg.toNat * 16 + 0) (pd.toNat * 4))
  | .por pg pd pa pb => some (32, wordOf 0x36 (pa.toNat * 4096 + pb.toNat * 256 + pg.toNat * 16 + 1) (pd.toNat * 4))
  | .pxor pg pd pa pb => some (32, wordOf 0x36 (pa.toNat * 4096 + pb.toNat * 256 + pg.toNat * 16 + 2) (pd.toNat * 4))
  | .pandn pg pd pa pb => some (32, wordOf 0x36 (pa.toNat * 4096 + pb.toNat * 256 + pg.toNat * 16 + 3) (pd.toNat * 4))
  | .pnot pg pd pa => some (32, wordOf 0x36 (pa.toNat * 4096 + pg.toNat * 16 + 4) (pd.toNat * 4))
  | .pcut pg pd pa => some (32, wordOf 0x36 (pa.toNat * 4096 + pg.toNat * 16 + 5) (pd.toNat * 4))
  | .pfind pg rd pa => some (32, wordOf 0x36 (pa.toNat * 4096 + pg.toNat * 16 + 6) (rd.toNat * 4))
  | .ppopc pg rd pa => some (32, wordOf 0x36 (pa.toNat * 4096 + pg.toNat * 16 + 7) (rd.toNat * 4))
  | .psetn pg pd rs => some (32, wordOf 0x36 (pd.toNat * 4096 + pg.toNat * 16 + 8) (rs.toNat * 4))
  | .pany pg kd pa => some (32, wordOf 0x36 (pa.toNat * 4096 + pg.toNat * 16 + 9) (kd.toNat * 4))
  | .vld pm pg v base b => some (32, wordOf 0x37 (base.toNat * 1024 + b.toNat * 16 + pg.toNat) (v.toNat * 8 + bit pm * 4 + 0))
  | .vlds pm pg v base rs => some (32, wordOf 0x37 (base.toNat * 1024 + rs.toNat * 16 + pg.toNat) (v.toNat * 8 + bit pm * 4 + 1))
  | .vldx pm pg v base vi => some (32, wordOf 0x37 (base.toNat * 1024 + vi.toNat * 16 + pg.toNat) (v.toNat * 8 + bit pm * 4 + 2))
  | .vldff pm pg v base b => some (32, wordOf 0x37 (base.toNat * 1024 + b.toNat * 16 + pg.toNat) (v.toNat * 8 + bit pm * 4 + 3))
  | .vst pm pg v base b => some (32, wordOf 0x38 (base.toNat * 1024 + b.toNat * 16 + pg.toNat) (v.toNat * 8 + bit pm * 4 + 0))
  | .vsts pm pg v base rs => some (32, wordOf 0x38 (base.toNat * 1024 + rs.toNat * 16 + pg.toNat) (v.toNat * 8 + bit pm * 4 + 1))
  | .vstx pm pg v base vi => some (32, wordOf 0x38 (base.toNat * 1024 + vi.toNat * 16 + pg.toNat) (v.toNat * 8 + bit pm * 4 + 2))
  | .vstr pm pg v base b => some (32, wordOf 0x38 (base.toNat * 1024 + b.toNat * 16 + pg.toNat) (v.toNat * 8 + bit pm * 4 + 3))
  | .vldbc pm pg v base => some (32, wordOf 0x39 (base.toNat * 1024 + pg.toNat) (v.toNat * 8 + bit pm * 4 + 0))
  | .vldsr v base rs => some (32, wordOf 0x39 (base.toNat * 1024 + rs.toNat * 16) (v.toNat * 8 + 1))
  | .mld rsa rsb => some (32, wordOf 0x3A (rsa.toNat * 1024 + rsb.toNat * 16 + 0) (0))
  | .mswp => some (32, 129536)
  | .mma rsc rsa rsb => some (32, wordOf 0x3A (rsa.toNat * 1024 + rsb.toNat * 16 + 2) (rsc.toNat * 4))
  | .mmas rsc rsa rsb => some (32, wordOf 0x3A (rsa.toNat * 1024 + rsb.toNat * 16 + 3) (rsc.toNat * 4))
  | .mqma rsc rsa rsb => some (32, wordOf 0x3A (rsa.toNat * 1024 + rsb.toNat * 16 + 4) (rsc.toNat * 4))
  | .mmrot rsc rsa rsb => some (32, wordOf 0x3A (rsa.toNat * 1024 + rsb.toNat * 16 + 5) (rsc.toNat * 4))
  | .mzero rsc rsb => some (32, wordOf 0x3A (rsb.toNat * 16 + 6) (rsc.toNat * 4))
  | .mcfg rsa => some (32, wordOf 0x3A (rsa.toNat * 1024 + 7) (0))
  | .cpyset c f rs1 => some (32, wordOf 0x3B (rs1.toNat * 1024 + f.toNat * 16) (c.toNat))
  | .ack c rs1 => some (32, wordOf 0x3B (rs1.toNat * 1024 + 15 * 16) (c.toNat))
  | .cpygo c rd => some (32, wordOf 0x3B (1) (rd.toNat * 4 + c.toNat))
  | .cpyst c rd => some (32, wordOf 0x3B (2) (rd.toNat * 4 + c.toNat))
  | .cpywait c rs1 => some (32, wordOf 0x3B (rs1.toNat * 1024 + 3) (c.toNat))
  | .cpymm c rd rs1 => some (32, wordOf 0x3B (rs1.toNat * 1024 + 4) (rd.toNat * 4 + c.toNat))
  | .fork rs1 => some (32, wordOf 0x3C (rs1.toNat * 1024 + 0) (0))
  | .forka rs1 => some (32, wordOf 0x3C (rs1.toNat * 1024 + 1) (0))
  | .cend => some (32, 195584)
  | .join => some (32, 261120)
  | .fwd n => some (32, wordOf 0x3C (n.toNat * 16 + 4) (0))
  | .nspec => some (32, 392192)
  | .frz rd rs1 rs2 => some (32, wordOf 0x3C (rs1.toNat * 1024 + rs2.toNat * 16 + 6) (rd.toNat * 4))
  | .thaw rd rs1 => some (32, wordOf 0x3C (rs1.toNat * 1024 + 7) (rd.toNat * 4))
  | .thawq rd rs1 => some (32, wordOf 0x3C (rs1.toNat * 1024 + 8) (rd.toNat * 4))
  | .seqld v rs1 => some (32, wordOf 0x3C (rs1.toNat * 1024 + 9) (v.toNat * 4))
  | .seqst v rs1 => some (32, wordOf 0x3C (rs1.toNat * 1024 + 10) (v.toNat * 4))
  | .send rs1 rs2 => some (32, wordOf 0x3D (rs1.toNat * 1024 + rs2.toNat * 16 + 0) (0))
  | .sendv rs1 vs rs2 => some (32, wordOf 0x3D (rs1.toNat * 1024 + rs2.toNat * 16 + 1) (vs.toNat * 4))
  | .reply rs1 rs2 => some (32, wordOf 0x3D (rs1.toNat * 1024 + rs2.toNat * 16 + 2) (0))
  | .hbind rs1 rs2 => some (32, wordOf 0x3D (rs1.toNat * 1024 + rs2.toNat * 16 + 3) (0))
  | .hend => some (32, 326912)
  | .sysrd num reg => some (32, wordOf 0x3E (num.toNat * 16 + 0) (reg.toNat * 4))
  | .syswr num reg => some (32, wordOf 0x3E (num.toNat * 16 + 1) (reg.toNat * 4))
  | .trap imm => some (32, wordOf 0x3E (imm.toNat * 16 + 2) (0))
  | .eret => some (32, 261632)
  | .brk imm => some (32, wordOf 0x3E (imm.toNat * 16 + 4) (0))
  | .halt => some (32, 392704)
  | .nop => some (32, 458240)
  | .tlbinvPage rs => some (32, wordOf 0x3E (0 * 16 + 7) (rs.toNat * 4))
  | .tlbinvAsid rs => some (32, wordOf 0x3E (1 * 16 + 7) (rs.toNat * 4))
  | .tlbinvAll rs => some (32, wordOf 0x3E (2 * 16 + 7) (rs.toNat * 4))
  | .stop rs => some (32, wordOf 0x3E (8) (rs.toNat * 4))
  | .save rs => some (32, wordOf 0x3E (8) (rs.toNat * 4))
  | .restore rs => some (32, wordOf 0x3E (8) (rs.toNat * 4))
  | .abort rs => some (32, wordOf 0x3E (8) (rs.toNat * 4))
  | .cclean rs => some (32, wordOf 0x3E (9) (rs.toNat * 4))
  | .cinv rs => some (32, wordOf 0x3E (10) (rs.toNat * 4))
  | .iinv => some (32, 785920)
  | .cAddi rd imm => some (16, 0 + rd.toNat * 16 + imm.toNat)
  | .cLi rd imm => some (16, 1024 + rd.toNat * 16 + imm.toNat)
  | .cSlli rd n => some (16, 2048 + rd.toNat * 16 + n.toNat)
  | .cSrli rd n => some (16, 3072 + rd.toNat * 16 + n.toNat)
  | .cSrai rd n => some (16, 4096 + rd.toNat * 16 + n.toNat)
  | .cAndi rd imm => some (16, 5120 + rd.toNat * 16 + imm.toNat)
  | .cMv rd rs => some (16, 16384 + rd.toNat * 64 + rs.toNat)
  | .cAdd rd rs => some (16, 20480 + rd.toNat * 64 + rs.toNat)
  | .cSub rd rs => some (16, 24576 + rd.toNat * 64 + rs.toNat)
  | .cAnd rd rs => some (16, 28672 + rd.toNat * 64 + rs.toNat)
  | .cNop => some (16, 16384)
  | .cJ off => some (16, 32768 + off.toNat)
  | .cJr rs => some (16, 34816 + rs.toNat * 32)
  | .cHend => some (16, 34817)
  | .cNspec => some (16, 34818)
  | .cCend => some (16, 34819)
  | .cBrk => some (16, 34820)
  | .cBnez rs off => some (16, 36864 + rs.toNat * 32 + off.toNat)
  | .cBeqz rs off => some (16, 38912 + rs.toNat * 32 + off.toNat)
  | .cBkt k off => some (16, 43008 + k.toNat * 256 + off.toNat)
  | .cBkf k off => some (16, 45056 + k.toNat * 256 + off.toNat)
  | .syncMirrorUpdate _ _ _ => none
  | .ybarRelease _ => none
  | .swaitReturn _ => none
  | .copyWrite _ _ _ => none
  | .copyTransferComplete _ _ _ => none
  | .copyFault _ _ _ _ => none
  | .followOnCommand _ _ _ => none
  | .copyRetranslate _ _ _ => none
  | .cpywaitReturn _ => none
  | .syncWordCount _ _ _ _ => none
  | .combineContribution _ => none
  | .combineTimeout _ _ => none
  | .thawqReturn _ => none
  | .joinComplete _ => none
  | .chunkPlacement _ => none
  | .chunkStart _ _ => none
  | .liveInArrival _ _ _ _ => none
  | .versionProbe _ _ _ => none
  | .probeAnswer _ _ _ _ => none
  | .storeBroadcast _ _ _ _ _ => none
  | .squashNotice _ _ _ => none
  | .squashDiscarded _ => none
  | .broadcastAcknowledgement _ _ _ => none
  | .ensignArrival _ _ _ => none
  | .commitComplete _ _ => none
  | .messageArrival _ => none
  | .handlerDispatch _ => none
  | .handlerBudget _ => none
  | .farAtomicStep _ => none
  | .farAtomicReply _ _ => none
  | .remoteStorePacket _ => none
  | .remoteLoad _ => none
  | .mmrotPacket _ => none
  | .vtypeWrite _ => none
  | .seedWrite _ => none
  | .leaseWrite _ => none
  | .rndmWrite _ => none
  | .chkmodeWrite _ => none
  | .haltEvent _ => none
  | .ltsTick _ => none
  | .catalogueRd _ _ => none
  | .catalogueRfo _ _ => none
  | .catalogueUpg _ _ => none
  | .evictionNotice _ _ => none
  | .catalogueAnswer _ _ _ => none
  | .forwardedRead _ _ _ => none
  | .invalidate _ _ => none
  | .recallLine _ _ => none
  | .freezeConvert _ _ => none
  | .mirrorWrite _ _ _ _ _ _ => none
  | .mirrorAck _ _ _ => none
  | .switchDieLoss _ => none
  | .stationLoss _ => none
  | .sealComplete _ => none
  | .ticketComplete _ => none
  | .launchGo _ _ => none
  | .broadcastGo _ => none
  | .flush _ _ => none
  | .launchFenceClear _ _ => none
  | .launchMessage _ => none
  | .launchStart _ => none
  | .launchComplete _ => none
  | .quantumExpiry _ => none
  | .timeoutExpiry _ => none
  | .policyWrite _ => none
  | .registerWrite _ _ => none
  | .apbaseWrite _ => none
  | .hostBar2Read _ _ _ => none
  | .hostBar2Write _ _ _ => none
  | .hostReadCompletion _ _ _ => none
  | .mailboxControlWrite _ _ _ => none
  | .mailboxMessage _ => none
  | .sendWindowGo _ => none
  | .syncWindowRead _ => none
  | .valWrite _ _ => none
  | .addWrite _ _ => none
  | .peerAccess _ _ => none
  | .peerMessage _ _ => none
  | .peerWriteAck _ _ => none
  | .computeDrop _ => none
  | .fullDrop _ => none
  | .patrolScrub _ => none
  | .frameReport _ => none
  | .temperatureReport _ _ => none
  | .powerBudget _ _ => none
  | .powerOn => none
  | .securityCounter _ => none
  | .spdmRequest _ => none
  | .endLaunch _ _ => none
  | .debugHalt _ => none
  | .release _ => none
  | .readState _ _ => none
  | .writeState _ _ _ => none
  | .readLog _ _ => none
  | .clearLog _ => none
  | .restoreDie _ => none
  | .powerLimit _ => none
  | .reservedEncoding _ => none
  | .moduleReset => none
  | .bar2Resize _ => none
  | .linkRetraining _ _ => none
  | .peerCompletion _ _ => none
  | .faultPolicyWaitLimit _ => none
  | .firmwareImageUpdate _ => none

end Sys2Proof
end

