-- ==== Sys2Proof/Machine/State.lean ====
section
/-! DEFINITION. The state of one package as plain data: cores with their two contexts, rings with their regions and
launches, device memory with its Annexes and Catalogue, the Vitrine, the sync registers, the host and peer ports, and
the package's own records. Last stands the state at reset. -/

namespace Sys2Proof.Machine
open Sys2Proof

/-! ## One context -/

/-- An entry of the loop stack (R91). -/
structure LoopEntry where
  start : Word
  stop : Word
  count : Word
  deriving DecidableEq, Repr

/-- What a context that has issued an instruction waits for; the instruction completes when it comes (R113, R116,
R107, R173, R184, R196). A stop or a halt of the context drops every wait but that of `ybar`. -/
inductive Wait where
  /-- `ybar` in phase 2 with its target (R112, R113). -/
  | ybar (y : Nat) (target : Word)
  /-- `swait` on the sync word at scratchpad offset `off` for generation `g` (R116). -/
  | swait (off : Nat) (g : BitVec 32)
  /-- A far atomic's reply (R107). -/
  | farReply (rd : SReg)
  /-- A load of a remote scratchpad, the host window or a peer window (R98). -/
  | remoteLoad (loc : Loc) (ea : Word) (rd : SReg) (sz : BitVec 2) (sx : Bool)
  /-- `cpywait` on an identifier (R173). -/
  | cpywait (c : Chan) (id : Word)
  /-- `join` of a parallel region (R184). -/
  | join
  /-- `frz` whose entry is being sealed (R194, R339). -/
  | frz (entry : Nat) (rd : SReg)
  /-- `thawq` for a ticket (R196). -/
  | thawq (rd : SReg) (ticket : Word)
  /-- `halt` (R200). -/
  | halt
  deriving DecidableEq, Repr

/-- The state of one context of a core (Table 1.2). -/
structure Ctx where
  /-- Address of the next instruction (R49). -/
  pc : Word := 0
  /-- s1–s63 (R10); s0 is never listed. -/
  s : Bank Word := []
  /-- k0–k7 (R10). -/
  k : BitVec 8 := 0
  /-- v0–v31, or v0–v3 of a handler (R11, R18). -/
  v : Bank (BitVec 4096) := []
  /-- p0–p15, or p0–p1 of a handler (R11, R18). -/
  p : Bank (BitVec 1024) := []
  /-- P(vn) (R15). -/
  prog : Bank Nat := []
  /-- D(vn), bit n (R15). -/
  done : BitVec 32 := 0xFFFFFFFF
  /-- VL (R20). -/
  vl : BitVec 11 := 0
  /-- VTYPE.VILL (R20). -/
  vill : Bool := true
  /-- VTYPE.EW (R20). -/
  ew : BitVec 3 := 0
  /-- VSTART (R20). -/
  vstart : BitVec 11 := 0
  /-- VDIRTY (R20); the main context's only. -/
  vdirty : BitVec 32 := 0
  /-- PIX.SEL (R20). -/
  pixSel : BitVec 5 := 0
  /-- RNDM.MODE (R20). -/
  rndm : BitVec 3 := 0
  /-- FFLAGS: SAT, NV, DZ, OF, UF, NX from bit 5 down (R20). -/
  fflags : BitVec 6 := 0
  /-- SEED (R20, R35). -/
  seed : BitVec 32 := 0
  /-- The loop stack, L[0] first (R91). -/
  loops : List LoopEntry := []
  /-- Copy shadow fields: field f of channel c at 16 × c + f (R166). -/
  shadow : Bank Word := []
  /-- The wait the context's last instruction left (R113 and others). -/
  wait : Option Wait := none
  /-- The event flag (R200). -/
  event : Bool := false
  /-- The instruction at pc has been issued and retries (it is counted once by R243). -/
  issued : Bool := false
  /-- The sc operation at pc has taken its stamp (R269). -/
  stamped : Bool := false
  deriving DecidableEq, Repr

/-! ## Fork records -/

/-- A level of a fork record with its bounds evaluated (R179). -/
structure Level where
  lo : Int
  hi : Int
  stp : Int
  deriving DecidableEq, Repr

/-- The modes of a live-in (Table 9.4). -/
inductive LiveMode where
  | forward | stride | index | copy
  deriving DecidableEq, Repr

/-- A live-in entry (Table 9.4). -/
structure LiveIn where
  mode : LiveMode
  vec : Bool
  reg : Nat
  stride : Int
  level : Nat
  deriving DecidableEq, Repr

/-- A range entry with its base evaluated (Table 9.5, R229). -/
structure Range where
  len : Nat
  coef : List Int
  sh : Nat
  base : Int
  deriving DecidableEq, Repr

/-- A fork record as the walker holds it (R177, R179). -/
structure ForkRec where
  body : Word
  per : Nat
  order : Nat
  width : Nat
  levels : List Level
  lives : List LiveIn
  reads : List Range
  writes : List Range
  /-- The 128 bytes of the record, which a save area keeps (Table 18.7). -/
  raw : Nat
  deriving DecidableEq, Repr

/-- A sequential region open on a core (R181, R183): the issuer's context at the fork, and the chunk that runs. -/
structure SeqRegion where
  frec : ForkRec
  total : Nat
  joinPc : Word
  snap : Ctx
  q : Nat := 0
  /-- Live-ins that the running chunk has forwarded, with their values (R186). -/
  sent : Bank (BitVec 4096) := []
  /-- FFLAGS and VDIRTY of the chunks that have ended (R184). -/
  fflags : BitVec 6 := 0
  vdirty : BitVec 32 := 0
  /-- The last chunk has ended: the `join` may complete. -/
  complete : Bool := false
  deriving DecidableEq, Repr

/-! ## One core -/

/-- The handler in progress (R241–R244). -/
structure HandlerRun where
  msg : Msg
  /-- The reply token given to it in s4; 0 when no reply is expected (R23). -/
  token : Word := 0
  /-- Instructions counted (R243). -/
  count : Nat := 0
  /-- A `reply` has been sent (R190). -/
  replied : Bool := false
  deriving DecidableEq, Repr

/-- The kind of a stationary plane (R152). -/
inductive PlaneKind where
  | empty | plain | sparse2 | sparse4 | block | aq
  deriving DecidableEq, Repr

/-- A stationary plane (R152): its kind, format and shape, and the codes with their scales, descriptors and positions. -/
structure Plane where
  kind : PlaneKind := .empty
  /-- Format code of the elements (Table 8.2); 9 and 11 for the codes of AQ8 and AQ4. -/
  fmt : Nat := 0
  /-- Stored rows PK and columns PN. -/
  pk : Nat := 0
  pn : Nat := 0
  /-- Element codes: stored row r of column j at r × 64 + j. -/
  vals : Bank Nat := []
  /-- SPARSE: the position of a stored value within its group of 8, at the same keys. -/
  pos : Bank Nat := []
  /-- BLOCK: the scale byte of rows 32 × g upward; AQ: the descriptor of group g; at g × 64 + j. -/
  desc : Bank Nat := []
  /-- Rows of a group of an AQ plane. -/
  group : Nat := 0
  /-- The checksum column: the exact sum m × 2 ^ e of a stored row; rows with a NaN or an infinity are not listed. -/
  check : Bank (Int × Int) := []
  deriving DecidableEq, Repr

/-- A cached translation (R308–R310): the tag's ASID and page, and the page-table entry. -/
structure TlbEntry where
  asid : Nat
  vpn : Nat
  /-- Address bits that the entry covers: 16, 21 or 29. -/
  bits : Nat
  pte : Nat
  deriving DecidableEq, Repr

/-- One transfer of a copy channel: the snapshot it was started with, and how far it has come (R166–R171). -/
structure Transfer where
  tid : Nat
  /-- The chunk that started it at once (R175, R230), and whether it started as a part of that chunk's versions (R215). -/
  chunk : Option Nat := none
  versioned : Bool := false
  /-- The handler context started it. -/
  hnd : Bool := false
  /-- Address space, root table and privilege of its starter. -/
  asid : Nat := 0
  ptbase : Nat := 0
  atS : Bool := false
  src : Word := 0
  dst : Word := 0
  /-- Bytes of a row, and rows. -/
  len : Nat := 0
  rows : Nat := 0
  srcPitch : Word := 0
  dstPitch : Word := 0
  /-- The sync word: its core and scratchpad offset. -/
  sync : Option (Nat × Nat) := none
  /-- MODE 1 with its ETYPE. -/
  add : Option (BitVec 3) := none
  /-- Bytes written, over all rows. -/
  written : Nat := 0
  /-- Translations in use (R310, R312). -/
  srcPage : Option TlbEntry := none
  dstPage : Option TlbEntry := none
  /-- Values that this transfer has overwritten in its own source (R169). -/
  orig : List (Loc × Byte) := []
  /-- A request for source bytes in a peer package or in host memory, by its number or bus address, with the bytes and the
  poisoned granules of their line once they have come. -/
  fetch : Option (Nat × Option (BitVec 1024 × BitVec 8)) := none
  /-- Writes not yet acknowledged by a peer package: request and bytes. -/
  peers : List (Nat × Nat) := []
  /-- Contributions not yet applied at their home (R253). -/
  combining : Nat := 0
  /-- Follow-on command: fn, MA, MB, MC and MCFG (R171). -/
  follow : Option (Nat × Word × Word × Word × Nat) := none
  /-- The command has met a cause: its fault poisons no sync word (R251). -/
  followFault : Bool := false
  /-- FFLAGS of the follow-on command. -/
  fflags : BitVec 6 := 0
  /-- It has faulted and waits for its acknowledgement (R170, R172). -/
  fault : Option Cause := none
  deriving DecidableEq, Repr

/-- A copy channel (R166, R167, R172). -/
structure Channel where
  nextId : Nat := 1
  /-- CPYDONE. -/
  doneId : Nat := 1
  /-- Identifiers at or above `doneId` that are complete. -/
  completed : List Nat := []
  /-- Running and faulted transfers, lowest identifier first. -/
  transfers : List Transfer := []
  deriving DecidableEq, Repr

/-- An L1 copy of a line with its lease (R270). -/
structure L1Line where
  data : BitVec 1024
  wts : Nat
  rts : Nat
  /-- The line lies in a frozen region (R341). -/
  frozen : Bool := false
  /-- Poisoned granules of the copy (R380). -/
  poison : BitVec 8 := 0
  deriving DecidableEq, Repr

/-- What the next instruction of a core meets while it runs: an arithmetic or parity upset (R159, R374, R375), or a stop
that falls inside it. Plain input data (log 18). -/
inductive Upset where
  /-- A pre-emption or a debugger halt arrives before the element or row block `part` of an instruction that can stop
  there (R16, R124, R157, R257). -/
  | stop (part : Nat)
  /-- The two passes of the element group `elem` differ, and the third pass agrees with one of them or not (R374). -/
  | vector (elem : Nat) (corrected : Bool)
  /-- A checksum column does not agree at a row block, and a repeat does or does not (R159, R376). -/
  | matrix (block : Nat) (corrected : Bool)
  /-- A parity or residue check of the scalar unit fails; the retry succeeds or not (R375). -/
  | scalar (corrected : Bool)
  /-- So does one of the core's network agent, of a copy engine of it, or of the walker. -/
  | agent (corrected : Bool)
  | copy (corrected : Bool)
  | walker (corrected : Bool)
  deriving DecidableEq, Repr

/-- A message that has not been dispatched, or a write held with the messages of its address space (R238, R260). -/
inductive Held where
  | msg (m : Msg)
  | far (r : FarReq)
  | packet (p : Packet)
  /-- Bytes that traffic of core `src` counts into the sync word at an offset (R250). -/
  | count (way : CountWay) (asid off n : Nat)
  deriving DecidableEq, Repr

/-- A dead-message record (Table 22.4). -/
structure DeadRecord where
  sender : Word
  stamp : Nat
  tval : Word
  pc : Word
  len : Nat
  cls : Nat
  code : BitVec 7
  re : Bool
  refused : Bool
  replied : Bool
  notRun : Bool
  count : Nat
  payload : BitVec 4096
  deriving DecidableEq, Repr

/-- One core (R4). -/
structure Core where
  main : Ctx := {}
  hnd : Ctx := {}
  /-- The handler in progress; `none` at a dispatch boundary (R241). -/
  run : Option HandlerRun := none
  /-- CHKMODE (R20). -/
  chk : Bool := true
  chkLock : Bool := false
  corr : BitVec 32 := 0
  /-- LEASE (R20). -/
  lease : BitVec 16 := 16
  /-- CAUSE.HELD, CAUSE.ELEM, CAUSE.CODE (R361). -/
  causeHeld : Bool := false
  causeElem : Bool := false
  causeCode : BitVec 7 := 0
  epc : Word := 0
  tval : Word := 0
  /-- TVEC.ENTRY × 4 (R361). -/
  tvec : Word := 0
  /-- STATUS (Table 18.1). -/
  prv : Bool := false
  pprv : Bool := false
  stopReq : Bool := false
  /-- ASID and PTBASE.BASE (Table 18.2). -/
  asid : BitVec 16 := 0
  ptbase : BitVec 40 := 0
  /-- The trap bank: eight registers and a loop stack (R362). -/
  trapBank : Bank Word := []
  trapLoops : List LoopEntry := []
  /-- The core's logical time (R269, R270). -/
  lts : Nat := 0
  /-- MCFG (R153). -/
  mcfg : BitVec 11 := 0
  /-- The stationary planes (R152). -/
  active : Plane := {}
  shadowPlane : Plane := {}
  /-- c0–c3 (R166). -/
  chans : Bank Channel := []
  /-- Scratchpad bytes, and their line stamps and poisoned granules (R4, R392, R380). -/
  scratch : Bank Byte := []
  scratchWts : Bank Nat := []
  scratchRts : Bank Nat := []
  scratchPoison : Bank Bool := []
  /-- L1 copies of device lines by line number (R270). -/
  l1 : Bank L1Line := []
  /-- L1 instruction copies, by line number (R201). -/
  icache : Bank (BitVec 1024) := []
  tlb : List TlbEntry := []
  /-- The class table: entry addresses, 0 when unbound (R191). -/
  classes : Bank Word := []
  /-- The arrival queue, oldest first (R237). -/
  queue : List Held := []
  /-- Overflow areas by address space, oldest first (R238, R240, R260). -/
  overflow : Bank (List Held) := []
  /-- The device addresses of its dead-message areas, by address space (R369, log 20). -/
  dead : Bank Nat := []
  seq : Option SeqRegion := none
  /-- Debugger halt (R371): requested, and in effect. -/
  haltReq : Bool := false
  halted : Bool := false
  /-- Stopped by STOP or ABORT (R316). -/
  stopped : Bool := false
  /-- Fenced after a machine error (R375). -/
  fenced : Bool := false
  /-- The instruction whose uncorrectable-check trap the Curator has returned from (Table 22.2). -/
  retried : Option Word := none
  upset : Option Upset := none
  /-- The number of messages that asked for a reply, for the next token (R190). -/
  tokens : Nat := 0
  deriving DecidableEq, Repr

/-! ## One ring -/

/-- The states of a chunk (Table 10.3). -/
inductive ChunkState where
  | placed | running | waitingLiveIn | waitingEnsign | committing | squashed | committed
  deriving DecidableEq, Repr

/-- A speculative version of a line (R211). -/
structure Version where
  line : LineId
  data : BitVec 1024
  /-- Bytes the chunk has stored. -/
  mask : BitVec 128
  /-- Store count, saturating at 0xFFFF. -/
  count : Nat
  /-- Poisoned granules of the data (R380). -/
  poison : BitVec 8 := 0
  /-- 64 KiB pages through which the chunk has stored into it (R311). -/
  pages : List Nat := []
  deriving DecidableEq, Repr

/-- Where a chunk's first read of a line came from (R212). -/
inductive ReadSource where
  | committed (wts lease : Nat)
  | chunk (q count : Nat)
  deriving DecidableEq, Repr

/-- A read record (R212). -/
structure ReadRec where
  line : LineId
  src : ReadSource
  deriving DecidableEq, Repr

/-- A cause held in a chunk (R226, R368). -/
structure HeldCause where
  cause : Cause
  tval : Word
  elem : Bool
  pc : Word
  deriving DecidableEq, Repr

/-- A chunk of a parallel region, from placement to commit (R205, R233). -/
structure Chunk where
  q : Nat
  st : ChunkState := .placed
  /-- CHUNK.SPEC. -/
  spec : Bool
  /-- The main context of its position runs it. -/
  onCore : Bool := false
  /-- It has executed `cend`; `final` is the context it left. -/
  pastCend : Bool := false
  final : Option Ctx := none
  versions : List Version := []
  reads : List ReadRec := []
  /-- Range registers, each the lines of a copy's source interval (R215). -/
  ranges : List (List (LineId × LineId)) := []
  /-- Live-ins this execution has forwarded (R186), and the values its STRIDE live-ins started with (R209). -/
  sent : List Nat := []
  starts : Bank Word := []
  /-- Live-ins, by number, that the instruction at pc uses and whose arrival it awaits (Table 10.3). -/
  awaits : List Nat := []
  held : Option HeldCause := none
  /-- A held cause of the chunk has trapped: any further cause traps at once (R368). -/
  heldOnce : Bool := false
  /-- Broadcasts not yet acknowledged: the chunks that still owe one, once for each broadcast (R217). -/
  owed : List Nat := []
  /-- Answers to version probes of the instruction at pc, until it completes (R212). -/
  probe : List (LineId × ProbeReply) := []
  /-- A probe is on its way. -/
  probing : Option LineId := none
  /-- The step of R187 comes before its first instruction (R234, R340). -/
  stepFirst : Bool := false
  /-- Its commit has written its lines at this timestamp and waits for their mirrors (R221). -/
  commitTs : Option Nat := none
  mirrors : List Nat := []
  deriving DecidableEq, Repr

/-- An open parallel region (R204–R206, R391). -/
structure Region where
  frec : ForkRec
  /-- The iterations T. -/
  total : Nat
  assured : Bool
  /-- The core of the ring thread. -/
  home : Nat
  /-- The fork snapshot: the ring thread at the `fork`, with its logical time. -/
  snap : Ctx
  snapLts : Nat
  joinPc : Word
  /-- The ring thread stands at its `join`, with the context it has there. -/
  parked : Option Ctx := none
  /-- The next chunk to place. -/
  next : Nat := 0
  /-- Chunks in flight, oldest first. -/
  chunks : List Chunk := []
  /-- Chunks committed: the sequence number of the Ensign's holder. -/
  oldest : Nat := 0
  /-- The Ensign's logical time E, and the chunk at whose position the Ensign is. -/
  e : Nat := 0
  ensignQ : Nat := 0
  /-- Final context of the last chunk committed, and the folded FFLAGS and VDIRTY. -/
  final : Option Ctx := none
  fflags : BitVec 6 := 0
  vdirty : BitVec 32 := 0
  /-- Forwarded live-in values that have arrived for the chunk at the key, by live-in number (R208, R210). -/
  forwarded : Bank (Bank (BitVec 4096)) := []
  /-- Start values of the STRIDE live-ins of the last chunk that has passed the Ensign on (Table 9.6). -/
  prevStarts : Bank Word := []
  /-- A held cause has trapped and its trap code runs: younger chunks of an assured region are stopped at instruction
  boundaries, and those of a `fork` region, which are squashed, do not start again before the `eret` (R226, R230). -/
  youngerStopped : Bool := false
  deriving DecidableEq, Repr

/-- A launch packet's fields (Table 1.5). -/
structure Packet21 where
  entry : Word
  n : Word
  waitVal : Word
  pairMask : BitVec 12
  nargs : Nat
  prio : Nat
  sigEn : Bool
  waitEn : Bool
  sigReg : Nat
  waitReg : Nat
  args : List (BitVec 32)
  deriving DecidableEq, Repr

/-- A launch accepted by a ring (R290). -/
structure Launch where
  pkt : Packet21
  asid : Nat
  /-- Unmet launch fence: the host writes still to land (R289). -/
  fence : List Instr := []
  deriving DecidableEq, Repr

/-- What a saved launch keeps until it resumes (R297, R319–R322): its cores and region as a restore brings them
back. -/
structure SavedRing where
  launch : Launch
  cores : List Core
  region : Option Region
  /-- SQCNT (Table 18.7). -/
  sqcnt : BitVec 32 := 0
  /-- The number under which its traffic is marked (R293), and its requests to peer packages that were not answered. -/
  number : Nat := 0
  asked : List Nat := []
  deriving DecidableEq, Repr

/-- Why a ring is being stopped (R297, R316, R318). -/
inductive StopFor where
  /-- A `ctxsv` STOP or ABORT of the die's Curator core. -/
  | command
  /-- A pre-emption. -/
  | preempt
  deriving DecidableEq, Repr

/-- One ring (R3, R6). -/
structure Ring where
  region : Option Region := none
  /-- SQCNT (R20). -/
  sqcnt : BitVec 32 := 0
  running : Option Launch := none
  queue : List Launch := []
  /-- Held launches (R297). -/
  saved : List SavedRing := []
  /-- The address space whose launch ran last (R22). -/
  lastAsid : Option Nat := none
  /-- A stop has been asked for, and whether it is complete (R316, R317). -/
  stopFor : Option StopFor := none
  stopped : Bool := false
  /-- TIMEOUT has passed during the stop (R298, R316). -/
  timedOut : Bool := false
  /-- REFCNT, LASTREF and ABTCNT of its launch window (Table 17.1). -/
  refcnt : BitVec 16 := 0
  lastref : Nat := 0
  abtcnt : BitVec 8 := 0
  /-- Requests to peer packages that an earlier launch of the ring issued, and the launches held so far (R293). MODEL'S
  OWN (log 98). -/
  peerLeft : List Nat := []
  holds : Nat := 0
  deriving DecidableEq, Repr

/-! ## Package memory -/

/-- A line in an Annex (R326, Table 19.2). -/
structure AnnexLine where
  st : Moesi := .i
  data : BitVec 1024 := 0
  /-- Poisoned granules (R380). -/
  poison : BitVec 8 := 0
  wts : Nat := 0
  rts : Nat := 0
  /-- Sequence numbers of its mirror writes not yet acknowledged (R328). -/
  pending : List Nat := []
  /-- A request of this line is outstanding at the Catalogue (R333). -/
  asked : Bool := false
  /-- Recency: the Annexes' count at the die's last use of the line (R329). -/
  lru : Nat := 0
  deriving DecidableEq, Repr

/-- The states of a Catalogue entry (Table 19.4). -/
inductive CatState where
  | none | sh | xc | ow | rcl
  deriving DecidableEq, Repr

/-- A request at the Catalogue (R332). -/
inductive CatKind where
  | rd | rfo | upg
  deriving DecidableEq, Repr

/-- A request waiting at its quarter (R333). -/
structure CatReq where
  die : Nat
  kind : CatKind
  deriving DecidableEq, Repr

/-- A Catalogue entry with the request it resolves (Table 19.4, R330–R334). -/
structure CatEntry where
  st : CatState := .none
  sharers : BitVec 12 := 0
  /-- 15: none. -/
  owner : Nat := 15
  /-- Recency: the Catalogue's count at the last use. -/
  lru : Nat := 0
  /-- BUSY: the request being resolved. -/
  busy : Option CatReq := none
  /-- Dies whose answers are awaited. -/
  awaiting : List Nat := []
  /-- Data and stamps gathered from the answers. -/
  data : Option LineData := none
  wts : Nat := 0
  rts : Nat := 0
  /-- The forwarded owner held the line unwritten. -/
  wasE : Bool := false
  /-- Later requests, in arrival order; the head is on its way again once the entry has settled (R333). -/
  waiting : List CatReq := []
  /-- A recalled entry: the line whose request gets the way that it frees (R334). -/
  forLine : Option Nat := none
  /-- An entry not yet allocated: a recall has freed a way for it (R334). -/
  way : Bool := false
  deriving DecidableEq, Repr

/-- The states of a 64 KiB frame (R337). -/
inductive FrameState where
  | plain | sealing | frozen | collecting
  deriving DecidableEq, Repr

/-- The states of a Vitrine entry (Table 19.8). -/
inductive VitState where
  | free | sealing | active | collecting
  deriving DecidableEq, Repr

/-- A Vitrine entry (Table 19.7) with the frames its pages mapped to (R338). -/
structure VitEntry where
  base : Nat := 0
  len : Nat := 0
  ticket : Nat := 0
  asid : Nat := 0
  gen : BitVec 16 := 0
  depth : Nat := 0
  st : VitState := .free
  frames : List Nat := []
  deriving DecidableEq, Repr

/-- Tickets of an address space (R193): the newest issued, THAWTKT, and tickets complete out of turn. -/
structure Tickets where
  issued : Nat := 0
  done : Nat := 0
  /-- Collections still running: ticket, entry and frames. -/
  running : List (Nat × Nat × List Nat) := []
  deriving DecidableEq, Repr

/-- A combining buffer of an Annex (R252). -/
structure CombBuf where
  die : Nat
  line : Nat
  etype : BitVec 3
  sum : BitVec 1024
  mask : BitVec 128
  /-- The transfers that contributed: core, channel, identifier and destination bytes. -/
  parts : List (Nat × Nat × Nat × Nat)
  poisoned : BitVec 8
  /-- It has been emptied: its sum is on its way to the home (R253). -/
  sent : Bool := false
  deriving DecidableEq, Repr

/-! ## Host, peers and management -/

/-- A ring launch window's buffer (Table 17.1). -/
structure Window where
  pkt : BitVec 1024 := 0
  asid : BitVec 16 := 0
  deriving DecidableEq, Repr

/-- The broadcast window (Table 17.2). -/
structure BroadcastWindow where
  pkt : BitVec 1024 := 0
  asid : BitVec 16 := 0
  maskLo : Word := 0
  maskHi : BitVec 32 := 0
  refrings : Nat := 0
  deriving DecidableEq, Repr

/-- A host mailbox class (Table 21.2), with the count of messages since OPEN was last set (Table 21.3). -/
structure Mailbox where
  base : BitVec 52 := 0
  vec : BitVec 6 := 0
  ien : Bool := false
  isOpen : Bool := false
  slots : BitVec 16 := 0
  prod : BitVec 32 := 0
  cons : BitVec 32 := 0
  seq : Word := 0
  deriving DecidableEq, Repr

/-- The host send window (Table 21.4). -/
structure SendWindow where
  pay : BitVec 512 := 0
  dest : Word := 0
  asid : BitVec 16 := 0
  snderr : BitVec 32 := 0
  sent : BitVec 32 := 0
  deriving DecidableEq, Repr

/-- What the host port holds behind a requester's earlier posted writes (R289, R354, R360). -/
inductive PortOp where
  | message (m : Msg)
  | syncSet (y : Nat) (v : Word)
  | syncAdd (y : Nat) (v : Word)
  deriving DecidableEq, Repr

/-- A held port operation with the writes it waits for. -/
structure PortHeld where
  req : Nat
  fence : List Instr
  op : PortOp
  deriving DecidableEq, Repr

/-- What the host driver has set up for an address space (R303, R304, R365, R374). -/
structure Space where
  ptbase : BitVec 40 := 0
  /-- SPXT, 1–8 (R304). -/
  spxt : Nat := 8
  /-- Unchecked issue is forbidden (R374). -/
  checked : Bool := false
  /-- Marked for debugging (Table 22.2). -/
  debug : Bool := false
  /-- The fault policy waits for the driver to change the page table (Table 22.2). -/
  waits : Bool := false
  /-- It limits the time of a wait; when it does not, a wait is unlimited (Table 22.2). -/
  limited : Bool := true
  deriving DecidableEq, Repr

/-- An entry of the peer table (R356). -/
structure PeerEntry where
  admitted : Bool := false
  asid : Nat := 0
  deriving DecidableEq, Repr

/-- Who waits for a peer package's answer: a context's load or store, a far atomic, a transfer (R356, R358). -/
inductive PeerAsk where
  | context (core : Nat) (hnd : Bool)
  | far (r : FarReq)
  | copy (core chan tid : Nat)
  deriving DecidableEq, Repr

/-- A dead message that a Curator has taken out of its area (R369): core, address space and record. -/
structure DeadEntry where
  core : Nat
  asid : Nat
  record : DeadRecord
  deriving DecidableEq, Repr

/-- A log record (Table 23.2). The time of a record is its place in its log. -/
inductive LogRecord where
  | machine (unit kind addr : Nat)
  | launch (ring asid : Nat) (cause : BitVec 7) (epc tval : Word) (reason : Nat)
  | refusal (kind : Nat) (addr : Nat)
  | drop (die : Nat) (full : Bool) (substitute reason : Nat)
  deriving DecidableEq, Repr

/-- What the host port's AER logs, by offset in BAR2 (R342, R349, R380): a write that a frozen frame aborts, a read that is
not supported, a read of poisoned data. -/
inductive AerRecord where
  | completerAbort (req off len : Nat)
  | unsupportedRequest (req off len : Nat)
  | poisonedTlp (req off len : Nat)
  deriving DecidableEq, Repr

/-- What the package has answered to the outside: host reads, management requests, attestation, peers. -/
inductive Answer where
  | bytes (req : Nat) (data : List (BitVec 8)) (poisoned : Bool)
  | unsupported (req : Nat)
  | value (req : Nat) (v : Word)
  | state (v : BitVec 4096)
  | record (r : Option LogRecord)
  | measurement (block : Nat) (digest : BitVec 256) (signature : BitVec 512)
  /-- The chain of a certificate slot, and the answer to a challenge (R387). -/
  | certificate (chain : Nat)
  | challenge (digest : BitVec 256) (signature : BitVec 512)
  /-- The capacity of device HBM that the Curator reports to the host driver (R384). -/
  | capacity (bytes : Nat)
  | peerData (pkg : Nat) (data : List (BitVec 8)) (poisoned : Bool)
  | peerAck (pkg id : Nat)
  | peerError (pkg : Nat)
  /-- The cause that a peer's far atomic met at its owner (R108). -/
  | peerCause (pkg : Nat) (c : Cause)
  | msix (vec : Nat)
  deriving DecidableEq, Repr

/-- A `tlbinv` that waits for the copy channels (R311, R312): what it names, `none` standing for every value. -/
structure Shoot where
  core : Nat
  asid : Option Nat
  page : Option Nat
  deriving DecidableEq, Repr

/-- What the scheduler may be told to do next: run one context, or perform one step of the package. -/
inductive Act where
  | run (core : Nat) (hnd : Bool)
  | event (i : Instr)
  deriving DecidableEq, Repr

/-! ## The package -/

/-- One package. -/
structure State where
  /-- The agent whose step this is: its core and context. -/
  cur : Nat := 0
  curH : Bool := false
  /-- An explicit schedule, taken from its head; when it is empty the default order of `step` applies. MODEL'S OWN
  (log 1). -/
  agenda : List Act := []
  /-- Steps of the package on their way (messages, packets, requests, answers), oldest first. -/
  flight : List Instr := []
  /-- Explicit open choices, taken from the head, and the count of those that the list did not settle: they are free
  values. MODEL'S OWN (log 2). -/
  choice : List Nat := []
  choices : Nat := 0
  /-- Whose turn it is in the default order. MODEL'S OWN (log 1). -/
  turn : Nat := 0
  cores : Bank Core := []
  rings : Bank Ring := []
  /-- Device HBM: bytes, line stamps and poisoned 16-byte granules (R323, R270, R380). -/
  hbm : Bank Byte := []
  wts : Bank Nat := []
  rts : Bank Nat := []
  poison : Bank Bool := []
  /-- Home map: the slot (die × 128 + slot) of a granule, and the striped sets (R323). -/
  homeMap : Bank Nat := []
  striped : Bank Bool := []
  /-- Lines that a commit holds locked, with the ring (R221, R222). -/
  locks : List (LineId × Nat) := []
  /-- Lines written by an atomic of a handler in progress, with its core (R247, R335). -/
  pins : List (LineId × Nat) := []
  /-- Annex lines by die × 2^34 + line (R326). -/
  annex : Bank AnnexLine := []
  /-- Lines that the ring-cache slices of their home dies hold, with the count at their last use (R1, log 15). -/
  slices : Bank Nat := []
  /-- The use counts that recency in slices, in the Annexes and in the Catalogue is told by (R329, R334). -/
  annexClock : Nat := 0
  cat : Bank CatEntry := []
  catClock : Nat := 0
  /-- QMAP (R325): the switch die of a quarter; 4 once its lines are spread over the surviving dies (R336, R382). -/
  qmap : Bank Nat := []
  /-- Next mirror sequence number by Annex (die × 2 + port) × 16 + home die, and the last applied (R328). -/
  mirrorSeq : Bank (BitVec 32) := []
  mirrorDone : Bank (BitVec 32) := []
  frames : Bank FrameState := []
  vit : Bank VitEntry := []
  tickets : Bank Tickets := []
  /-- Sync registers at their homes and the mirrors, by die × 65536 + number (R17, R110). -/
  sync : Bank Word := []
  mirror : Bank Word := []
  combine : List CombBuf := []
  /-- Compute-dropped dies with their substitutes (R383), by die; a die is its own otherwise. -/
  dropped : Bank Nat := []
  /-- Shootdowns in progress (R312). -/
  shoots : List Shoot := []
  /-- Host memory, by bus address (R351). -/
  hostMem : Bank Byte := []
  /-- Poisoned 16-byte granules of host memory (R380). -/
  hostPoison : Bank Bool := []
  /-- This package's number, its peer window and its peer table (R355, R356). -/
  pkgNo : Nat := 0
  /-- The number that the Curator gives the package at bring-up (R355). MODEL'S OWN input data (log 77). -/
  pkgAssigned : Nat := 0
  exBase : Nat := 0
  exLen : Nat := 0
  peers : Bank PeerEntry := []
  /-- The exported window in 512 MiB units, its base and its length, and the peer table that the Curator is set up with; it
  takes them over at bring-up and at each of its events (R356, R359). MODEL'S OWN input data (log 77). -/
  exAssigned : Nat × Nat := (0, 0)
  peersAssigned : Bank PeerEntry := []
  /-- Requests sent to peer packages and not yet answered, oldest first: number, package, access and asker (R356). -/
  peerOut : List (Nat × Nat × PeerAcc × PeerAsk) := []
  peerNext : Nat := 0
  /-- Messages sent to peer packages, oldest first (R355). -/
  peerSent : List (Nat × Msg) := []
  /-- Address spaces set up by the Curator, by ASID (R303). -/
  spaces : Bank Space := []
  /-- Control BAR registers (Table 21.1). -/
  windows : Bank Window := []
  broadcastWin : BroadcastWindow := {}
  policyTimeout : BitVec 16 := 100
  policyQuantum : BitVec 16 := 200
  apbase : BitVec 10 := 0
  /-- log₂ of the BAR2 size (R349). -/
  bar2 : Nat := 30
  mailboxes : Bank Mailbox := []
  sendWin : SendWindow := {}
  syncSel : BitVec 16 := 0
  syncOld : Word := 0
  /-- MSI-X table words, two 64-bit words for a vector (log 47), and pending bits (R349). -/
  msix : Bank Word := []
  msixPending : BitVec 64 := 0
  portHeld : List PortHeld := []
  /-- Accesses that the host port or a station holds are told apart by their order of arrival. MODEL'S OWN (log 69). -/
  portSeq : Nat := 0
  /-- What the host port's AER has logged, oldest first (log 70). -/
  aer : List AerRecord := []
  /-- What has been answered to the outside, oldest first. -/
  answers : List Answer := []
  /-- Trained PCIe width and generation (Table 21.6), and whether the link is up (R382). -/
  linkWidth : Nat := 16
  linkSpeed : Nat := 7
  hostLink : Bool := true
  /-- UALink stations in service (R355) and lost switch dies (R336). -/
  stations : BitVec 8 := 0xFF
  lostXd : List Nat := []
  /-- Full-dropped dies (R384). -/
  fullDropped : List Nat := []
  /-- Dies whose compute-drop is under way (Table 23.3). -/
  dropping : List Nat := []
  /-- Dies that fail the core test and the memory test of bring-up (R389). MODEL'S OWN input data. -/
  faultyCompute : List Nat := []
  faultyMemory : List Nat := []
  /-- Errors that no read or look-up has met yet (R377, R379). MODEL'S OWN input data (log 27). -/
  bitErrors : List (Loc × ReadError) := []
  tagErrors : List TagError := []
  /-- Dead-message areas allocated so far (R369, log 20). -/
  areaCount : Nat := 0
  /-- Dies for which a module reset allows RESTORE_DIE (R383). -/
  restorable : List Nat := []
  /-- Rings that SAVE has written, by the number it writes into the area's channel image; the layout of that image is not
  architectural (R319). MODEL'S OWN. -/
  images : List SavedRing := []
  logMachine : List LogRecord := []
  logLaunch : List LogRecord := []
  logRefusal : List LogRecord := []
  logDrop : List LogRecord := []
  /-- Dead messages that the Curator has drained (R239, R369, log 75). -/
  logDead : List DeadEntry := []
  /-- Corrections counted for a frame (R379) and frames reported. -/
  corrections : Bank Nat := []
  reported : List Nat := []
  /-- Junction temperatures (R388), power budgets and the module cap (R390). -/
  temperature : Bank Nat := []
  halfRate : List Nat := []
  clockStopped : Bool := false
  budget : Bank Nat := []
  powerCap : Nat := 2600
  /-- The fused security counter, the images in store, and recovery (R386). -/
  security : Nat := 0
  registrarImage : FirmwareImage := ⟨false, 0, 0, 0, 0, 0⟩
  curatorImage : FirmwareImage := ⟨true, 0, 0, 0, 0, 0⟩
  recovery : Bool := false
  /-- A machine error has been recorded since the images began to run, or since the security counter was last to rise (R386). -/
  machineError : Bool := false
  /-- Bring-up is complete: launch windows accept GO (R389). -/
  up : Bool := false
  deriving DecidableEq, Repr

/-- Core `n` at reset (R20, R389, Tables 18.1, 22.1). -/
def Core.reset (n : Nat) : Core :=
  { main := { seed := BitVec.ofNat 32 (0x10000 + n) }, hnd := { seed := BitVec.ofNat 32 (0x10000 + n) },
    prv := decide (Config.ringCores ≤ n) }

/-- The package when power has just been applied. -/
def State.reset : State := {}

/-- Why a step can stop. No rule of the manual stops the package: every cause of Table 22.5 is taken, held or
recorded. -/
inductive Fault where
  /-- Raised by no meaning; kept so that the type has a value. Safe. -/
  | stuck
  deriving DecidableEq, Repr

/-- Why a step has no meaning. -/
inductive Refusal where
  /-- Raised by an arm of `exec` whose instruction has no meaning yet. Safe. -/
  | notModelled (mnemonic : String)
  deriving DecidableEq, Repr

end Sys2Proof.Machine
end

