-- ==== Sys2Proof/Machine/Operands.lean ====
section
/-! DEFINITION. Operand forms: the registers of a context, their elements, the immediates, and the program counter with
the loop stack. -/

namespace Sys2Proof.Machine
open Sys2Proof

/-! ## Scalar and condition registers -/

/-- X(r): s0 reads as zero (R10). -/
def Ctx.x (c : Ctx) (r : SReg) : Word := if r = 0 then 0 else Bank.get 0 c.s r.toNat

/-- X(r) := v; a write to s0 is discarded (R10). -/
def Ctx.setX (c : Ctx) (r : SReg) (v : Word) : Ctx :=
  if r = 0 then c else { c with s := Bank.set 0 c.s r.toNat v }

/-- Condition bit kn (R10). -/
def Ctx.kb (c : Ctx) (n : KReg) : Bool := c.k.getLsbD n.toNat

/-- A register of bits with bit `i` made `b`. -/
def putBit {w : Nat} (x : BitVec w) (i : Nat) (b : Bool) : BitVec w :=
  if b then x ||| BitVec.twoPow w i else x &&& ~~~ BitVec.twoPow w i

/-- kn := b. -/
def Ctx.setK (c : Ctx) (n : KReg) (b : Bool) : Ctx := { c with k := putBit c.k n.toNat b }

/-- The low 32 bits of a source of a `.w` form (R76). -/
def lowWord (v : Word) : BitVec 32 := v.setWidth 32

/-- A 32-bit result, sign-extended (R76). -/
def sextWord (v : BitVec 32) : Word := v.signExtend 64

/-- A signed immediate, to 64 bits (R52). -/
def simm {w : Nat} (v : BitVec w) : Word := v.signExtend 64

/-- A signed offset in parcels, as a byte displacement (R52, R89). -/
def parcels {w : Nat} (v : BitVec w) : Word := v.signExtend 64 * 2

/-! ## Vector and predicate registers -/

/-- Register vn whole. -/
def Ctx.vr (c : Ctx) (n : VReg) : BitVec 4096 := Bank.get 0 c.v n.toNat

/-- vn := x as a completed write: P := VL, D := 1, VDIRTY bit n set (R15, R20). -/
def Ctx.setV (c : Ctx) (n : VReg) (x : BitVec 4096) : Ctx :=
  { c with v := Bank.set 0 c.v n.toNat x, vdirty := c.vdirty ||| BitVec.twoPow 32 n.toNat,
           prog := Bank.set 0 c.prog n.toNat c.vl.toNat, done := c.done ||| BitVec.twoPow 32 n.toNat }

/-- An instruction that names vn as its destination issues: VDIRTY bit n is set, whatever it goes on to write (R123). -/
def Ctx.namesV (c : Ctx) (n : VReg) : Ctx := { c with vdirty := c.vdirty ||| BitVec.twoPow 32 n.toNat }

/-- vn := x by an instruction that stopped at element `j`: P := j, D := 0 (R15, R16). -/
def Ctx.setVPartial (c : Ctx) (n : VReg) (x : BitVec 4096) (j : Nat) : Ctx :=
  { c with v := Bank.set 0 c.v n.toNat x, vdirty := c.vdirty ||| BitVec.twoPow 32 n.toNat,
           prog := Bank.set 0 c.prog n.toNat j, done := c.done &&& ~~~ BitVec.twoPow 32 n.toNat }

/-- Predicate register pn whole. -/
def Ctx.pr (c : Ctx) (n : PReg) : BitVec 1024 := Bank.get 0 c.p n.toNat

/-- pn := x. -/
def Ctx.setP (c : Ctx) (n : PReg) (x : BitVec 1024) : Ctx := { c with p := Bank.set 0 c.p n.toNat x }

/-- Bits of an element of width code `ew` (Table 1.1). -/
def widthOf (ew : BitVec 3) : Nat :=
  match ew.toNat with
  | 0 => 4 | 1 => 6 | 2 => 8 | 3 => 16 | 4 => 32 | 5 => 64 | _ => 64

/-- VLMAX of an element width (Table 1.1). -/
def vlmax (w : Nat) : Nat := if w = 6 then 680 else 4096 / w

/-- The vector length that R13 grants for a request `q` at width `w`. -/
def granted (q w : Nat) : Nat :=
  let g := Nat.min q (vlmax w)
  if w = 6 ∧ 4 < g then g / 4 * 4 else g

/-- The first bit of element `i` at width `w` (R11): 6-bit elements fill 24-bit groups of four, which is the same
running position. -/
def elemPos (w i : Nat) : Nat := w * i

/-- The first `n` elements of a register, of width `w`, lowest first. -/
def elems (w : Nat) : Nat → Nat → List Nat
  | 0, _ => []
  | n + 1, x => x % 2 ^ w :: elems w n (x / 2 ^ w)

/-- Elements packed from bit 0 upward. -/
def pack (w : Nat) : List Nat → Nat
  | [] => 0
  | x :: t => x % 2 ^ w + 2 ^ w * pack w t

/-- Element `i` of width `w` of a register. -/
def elem (w : Nat) (x : BitVec 4096) (i : Nat) : Nat := bits x.toNat (w * i) w

/-- A register whose first elements are `l`; the bits above them keep the value of `old`, except that at width 6 bits
[4095:4080] become zero (R12). -/
def packOver (w : Nat) (l : List Nat) (old : BitVec 4096) : BitVec 4096 :=
  let n := w * l.length
  let hi := old.toNat / 2 ^ n * 2 ^ n
  let r := BitVec.ofNat 4096 (hi + pack w l)
  if w = 6 then r &&& BitVec.ofNat 4096 (2 ^ 4080 - 1) else r

/-- The first `n` bits of a predicate, lowest first. -/
def bitsOf (n x : Nat) : List Bool := (elems 1 n x).map (· == 1)

/-- A predicate whose first bits are `l`; the others keep the value of `old`. -/
def packBits (l : List Bool) (old : BitVec 1024) : BitVec 1024 :=
  let n := l.length
  BitVec.ofNat 1024 (old.toNat / 2 ^ n * 2 ^ n + pack 1 (l.map bit))

/-! ## The program counter and the loop stack -/

/-- The loop-end step and the advance past an instruction of `len` bytes (R93). -/
def Ctx.retire (c : Ctx) (len : Word) : Ctx :=
  match c.loops with
  | [] => { c with pc := c.pc + len }
  | [l0] =>
    if l0.stop = c.pc then
      if l0.count - 1 = 0 then { c with pc := c.pc + len, loops := [] }
      else { c with pc := l0.start, loops := [{ l0 with count := l0.count - 1 }] }
    else { c with pc := c.pc + len }
  | l0 :: l1 :: _ =>
    if l1.stop = c.pc then
      if l1.count - 1 = 0 then
        if l0.stop = c.pc then
          if l0.count - 1 = 0 then { c with pc := c.pc + len, loops := [] }
          else { c with pc := l0.start, loops := [{ l0 with count := l0.count - 1 }] }
        else { c with pc := c.pc + len, loops := [l0] }
      else { c with pc := l1.start, loops := [l0, { l1 with count := l1.count - 1 }] }
    else { c with pc := c.pc + len }

/-- No instruction of the context is under way. -/
def Ctx.fresh (c : Ctx) : Ctx := { c with issued := false, stamped := false }

/-- The instruction at pc is the END of the innermost live entry (R94). -/
def Ctx.atLoopEnd (c : Ctx) : Bool :=
  match c.loops with
  | [] => false
  | [l0] => l0.stop == c.pc
  | _ :: l1 :: _ => l1.stop == c.pc

/-- START .. END of an entry holds the address. -/
def LoopEntry.holds (l : LoopEntry) (a : Word) : Bool := decide (l.start ≤ a) && decide (a ≤ l.stop)

/-- The entries that stay live after a jump to `a`: from the first whose range does not hold it, all are removed
(R95). -/
def keepLoops : List LoopEntry → Word → List LoopEntry
  | [], _ => []
  | l :: t, a => if l.holds a then l :: keepLoops t a else []

/-- A taken branch, or a jump whose link register is s0 (R89, R95). -/
def Ctx.jump (c : Ctx) (a : Word) : Ctx := { c with pc := a, loops := keepLoops c.loops a }

end Sys2Proof.Machine
end

