-- ==== Sys2Proof/Machine/Flags.lean ====
section
/-! DEFINITION. FFLAGS, the rounding modes and the stochastic-rounding generator. -/

namespace Sys2Proof.Machine
open Sys2Proof

/-- The bits of FFLAGS (Table 1.4). -/
abbrev Flags := BitVec 6

/-- A saturating operation clamped. -/
def flagSAT : Flags := 0x20
/-- Invalid operation. -/
def flagNV : Flags := 0x10
/-- Division by zero. -/
def flagDZ : Flags := 0x08
/-- Overflow. -/
def flagOF : Flags := 0x04
/-- Underflow. -/
def flagUF : Flags := 0x02
/-- Inexact. -/
def flagNX : Flags := 0x01

/-- The flag `f` when `b` holds. -/
def flagIf (b : Bool) (f : Flags) : Flags := if b then f else 0

/-- Flags accumulate into FFLAGS (R38). -/
def Ctx.raiseFlags (c : Ctx) (f : Flags) : Ctx := { c with fflags := c.fflags ||| f }

/-- The rounding rules of Table 2.3. -/
inductive Rnd where
  | rne | rtz | rdn | rup | rna | sr
  deriving DecidableEq, Repr

/-- RNDM.MODE (Table 2.3). -/
def rndOf (mode : BitVec 3) : Rnd :=
  match mode.toNat with
  | 0 => .rne | 1 => .rtz | 2 => .rdn | 3 => .rup | 4 => .rna | _ => .sr

/-- The mode of an operation that is not a narrowing conversion: RNE under MODE 5 (R33). -/
def Rnd.plain : Rnd → Rnd
  | .sr => .rne
  | r => r

/-- The rounding code of FCVT (Table 3.9): 0–4 as MODE, 7 the current mode. -/
def rndField (rm mode : BitVec 3) : Rnd := if rm = 7 then rndOf mode else rndOf rm

/-- One step of the 32-bit Galois LFSR (R35): the new state is the output. -/
def lfsrNext (seed : BitVec 32) : BitVec 32 :=
  let h := seed >>> 1
  if seed.getLsbD 0 then h ^^^ 0x80200003 else h

/-- What a `syswr` or a chunk start stores in SEED: never zero (R20, R36). -/
def seedOf (v : BitVec 32) : BitVec 32 := if v = 0 then 1 else v

/-- SEED of chunk q from the ring thread's S0 (R36). -/
def chunkSeed (s0 : BitVec 32) (q : Nat) : BitVec 32 := seedOf (s0 ^^^ BitVec.ofNat 32 (q * 0x9E3779B9))

end Sys2Proof.Machine
end

