-- ==== Sys2Proof/Machine/Ops.lean ====
section
/-! DEFINITION. The named operations every meaning is written with: the current context, bytes and lines of memory,
messages, taking an exception and returning from one, and the ways a meaning can end early. -/

namespace Sys2Proof.Machine
open Sys2Proof

/-! ## Cores, rings and the current context -/

/-- Core `n`; a core that no step has touched is as at reset. -/
def State.core (s : State) (n : Nat) : Core := (Bank.find s.cores n).getD (Core.reset n)

/-- Core `n` := `c`. -/
def State.setCore (s : State) (n : Nat) (c : Core) : State := { s with cores := Bank.put s.cores n c }

/-- Core `n` changed by `f`. -/
def State.mapCore (s : State) (n : Nat) (f : Core → Core) : State := s.setCore n (f (s.core n))

/-- Ring `r`. -/
def State.ring (s : State) (r : Nat) : Ring := Bank.get {} s.rings r

def State.setRing (s : State) (r : Nat) (x : Ring) : State := { s with rings := Bank.put s.rings r x }

def State.mapRing (s : State) (r : Nat) (f : Ring → Ring) : State := s.setRing r (f (s.ring r))

/-- A context of a core. -/
def Core.ctx (c : Core) (h : Bool) : Ctx := if h then c.hnd else c.main

def Core.setCtx (c : Core) (h : Bool) (x : Ctx) : Core := if h then { c with hnd := x } else { c with main := x }

/-- The current core. -/
def State.me (s : State) : Core := s.core s.cur

/-- The main context of a core is neither halted nor stopped. -/
def Core.awake (c : Core) : Bool := !c.halted && !c.stopped && !c.fenced

/-- The current context. -/
def State.ctx (s : State) : Ctx := s.me.ctx s.curH

/-- The current context := `x`. -/
def State.setCtx (s : State) (x : Ctx) : State := s.mapCore s.cur (fun c => c.setCtx s.curH x)

/-- The current context changed by `f`. -/
def State.mapCtx (s : State) (f : Ctx → Ctx) : State := s.setCtx (f s.ctx)

/-- The die of a core; a Curator core 768 + d belongs to die d (R3). -/
def dieOf (core : Nat) : Nat := if core < Config.ringCores then core / 64 else core - Config.ringCores

/-- The ring of a ring core. -/
def ringOf (core : Nat) : Nat := core / 8

/-- The eight cores of a ring (R3). -/
def coresOf (ring : Nat) : List Nat := (List.range 8).map (ring * 8 + ·)

/-- A ring core (R3). -/
def isRingCore (core : Nat) : Bool := decide (core < Config.ringCores)

/-- The current context runs at S (R302). -/
def State.atS (s : State) : Bool := !s.curH && s.me.prv

/-- A step on its way. -/
def State.post (s : State) (i : Instr) : State := { s with flight := s.flight ++ [i] }

/-- An event directed to a die's Curator core (R200). -/
def State.notify (s : State) (die : Nat) : State := s.post (.haltEvent (Config.ringCores + die))

/-- A step that cannot be performed yet stays on its way. -/
def State.keep (s : State) (i : Instr) : State := if s.flight.contains i then s else s.post i

/-- An event that is performed is no longer on its way. -/
def State.take (s : State) (i : Instr) : State := { s with flight := s.flight.erase i }

/-- The loss of a switch die is being recovered from. -/
def isLoss : Instr → Bool
  | .switchDieLoss _ => true
  | _ => false

/-- A recovery sequence of the Registrar is under way (R381). -/
def State.inSequence (s : State) : Bool := !s.dropping.isEmpty || s.flight.any isLoss

/-- A management request takes effect once no recovery sequence is under way (R381). A package in recovery accepts none but a
new image (R386). -/
def State.managed (s : State) (i : Instr) (act : State → State) : State :=
  if s.recovery then s.take i else if s.inSequence then s.keep i else act (s.take i)

/-- An open choice among `n`: the head of `choice`, or a free value (log 2). -/
def State.choose (s : State) (n : Nat) : Nat × State :=
  match s.choice with
  | [] => (Config.openChoice s.choices % n, { s with choices := s.choices + 1 })
  | a :: t => (a % n, { s with choice := t })

/-! ## The current chunk -/

/-- The chunk that the main context of core `n` runs (R205, R233). -/
def State.chunkOn (s : State) (n : Nat) : Option Chunk :=
  match (s.ring (ringOf n)).region with
  | none => none
  | some r => if isRingCore n then r.chunks.find? (fun c => c.onCore && c.q % r.frec.width == n % 8) else none

/-- The chunk the current context runs; a handler runs none. -/
def State.chunk (s : State) : Option Chunk := if s.curH then none else s.chunkOn s.cur

/-- The region open on a ring, changed by `f`. -/
def State.mapRegion (s : State) (r : Nat) (f : Region → Region) : State :=
  s.mapRing r (fun x => { x with region := x.region.map f })

/-- Chunk `q` of a region changed by `f`. -/
def Region.mapChunk (r : Region) (q : Nat) (f : Chunk → Chunk) : Region :=
  { r with chunks := r.chunks.map (fun c => if c.q = q then f c else c) }

/-- Chunk `q` of the region on ring `r` changed by `f`. -/
def State.mapChunk (s : State) (r q : Nat) (f : Chunk → Chunk) : State := s.mapRegion r (fun x => x.mapChunk q f)

/-- The current chunk changed by `f`. -/
def State.mapMyChunk (s : State) (f : Chunk → Chunk) : State :=
  match s.chunk with
  | none => s
  | some c => s.mapChunk (ringOf s.cur) c.q f

/-- The current context is a speculative chunk (R225). -/
def State.speculative (s : State) : Bool :=
  match s.chunk with
  | none => false
  | some c => c.spec

/-- The region of the current core's ring. -/
def State.region (s : State) : Option Region := (s.ring (ringOf s.cur)).region

/-- CHUNK.ASSURED of the current context (R228). -/
def State.assured (s : State) : Bool := s.chunk.isSome && (s.region.map (·.assured)).getD false

/-- CHUNK.ENSIGN of the current context (R206). -/
def State.ensign (s : State) : Bool :=
  match s.chunk, s.region with
  | some c, some r => r.ensignQ == c.q
  | _, _ => false

/-! ## Bytes and lines -/

/-- `n` bytes from address `a`, little-endian. -/
def readBytes (b : Bank Byte) (a : Nat) : Nat → Nat
  | 0 => 0
  | n + 1 => (Bank.get 0 b a).toNat + 256 * readBytes b (a + 1) n

/-- The low `n` bytes of `v` stored from address `a`, little-endian. -/
def writeBytes (b : Bank Byte) (a : Nat) : Nat → Nat → Bank Byte
  | 0, _ => b
  | n + 1, v => writeBytes (Bank.set 0 b a (BitVec.ofNat 8 v)) (a + 1) n (v / 256)

/-- The bytes of `v` whose bit of `mask` is 1, stored from address `a`. -/
def writeMasked (b : Bank Byte) (a : Nat) : Nat → Nat → Nat → Bank Byte
  | 0, _, _ => b
  | n + 1, v, mask =>
    writeMasked (if mask % 2 = 1 then Bank.set 0 b a (BitVec.ofNat 8 v) else b) (a + 1) n (v / 256) (mask / 2)

/-- `n` one bits from bit `lo`. -/
def maskBits (lo n : Nat) : Nat := (2 ^ n - 1) * 2 ^ lo

/-- A bit mask from a byte mask of 128 bits. -/
def byteMask : Nat → Nat → Nat
  | 0, _ => 0
  | n + 1, m => (if m % 2 = 1 then 255 else 0) + 256 * byteMask n (m / 2)

/-- The bytes of `old` with those that `mask` selects taken from `new`. -/
def mergeLine (old new : BitVec 1024) (mask : BitVec 128) : BitVec 1024 :=
  let m := BitVec.ofNat 1024 (byteMask 128 mask.toNat)
  (old &&& ~~~m) ||| (new &&& m)

/-- The bits of `old` with those that `mask` selects taken from `new`. -/
def mergeBits (old new mask : BitVec 1024) : BitVec 1024 := (old &&& ~~~mask) ||| (new &&& mask)

/-- The line of a device byte address. -/
def lineOf (pa : Nat) : Nat := pa / 128

/-- Poison bits of a line's eight granules in a bank keyed by granule number (R380). -/
def linePoison (b : Bank Bool) (line : Nat) : Nat → Nat
  | 0 => 0
  | n + 1 => linePoison b line n + (if Bank.get false b (line * 8 + n) then 2 ^ n else 0)

/-- Poison of a line's granules set from `p` where `sel` has a 1. -/
def setPoison (b : Bank Bool) (line : Nat) (p sel : Nat) : Nat → Bank Bool
  | 0 => b
  | n + 1 =>
    let b' := setPoison b line p sel n
    if sel / 2 ^ n % 2 = 1 then Bank.set false b' (line * 8 + n) (p / 2 ^ n % 2 == 1) else b'

/-- Granules of a line all of whose 16 bytes a byte mask selects (R380). -/
def fullGranules (mask : Nat) : Nat → Nat
  | 0 => 0
  | n + 1 => fullGranules mask n + (if mask / 2 ^ (16 * n) % 65536 = 65535 then 2 ^ n else 0)

/-- Granules of a line of which a byte mask selects a byte. -/
def partGranules (mask : Nat) : Nat → Nat
  | 0 => 0
  | n + 1 => partGranules mask n + (if mask / 2 ^ (16 * n) % 65536 = 0 then 0 else 2 ^ n)

/-- Dies that no full-drop has removed, in ascending order (R384). -/
def State.survivors (s : State) : List Nat := (List.range 12).filter (fun d => !s.fullDropped.contains d)

/-- The end of device HBM: 64 GiB for each surviving die (R306, R384). -/
def State.hbmLimit (s : State) : Nat := s.survivors.length * 0x1000000000

/-- The frame that holds the capability chain (R8): the last of device HBM, where the model's Curator puts it (log 10). -/
def State.capsFrame (s : State) : Nat := s.hbmLimit - 0x10000

/-- The stripe set of a device byte: one granule of every surviving die (R323, R384). -/
def State.setOfByte (s : State) (pa : Nat) : Nat := pa / (s.survivors.length * 0x20000000)

/-- The home die of a device byte (Table 19.1): of a granule without a slot of its own, the die that its place in its stripe
set names, so that each set has one granule on each surviving die (R323, R384, log 34). -/
def State.homeOf (s : State) (pa : Nat) : Nat :=
  let live := s.survivors
  let d := live.length
  if Bank.get false s.striped (s.setOfByte pa) then live.getD ((pa - s.setOfByte pa * (d * 0x20000000)) / 4096 % d) 0
  else match Bank.find s.homeMap (pa / 0x20000000) with
    | some slot => slot / 128
    | none => live.getD (pa / 0x20000000 % d) 0

/-- The die whose cores stand in for a die's (R246, R383). -/
def State.substitute (s : State) (die : Nat) : Nat := Bank.get die s.dropped die

/-- The home die of a line. -/
def State.homeLine (s : State) (line : Nat) : Nat := s.homeOf (line * 128)

/-- The key of an Annex line. -/
def annexKey (die line : Nat) : Nat := die * 2 ^ 34 + line

def State.annexLine (s : State) (die line : Nat) : AnnexLine := Bank.get {} s.annex (annexKey die line)

def State.setAnnex (s : State) (die line : Nat) (a : AnnexLine) : State :=
  { s with annex := Bank.set {} s.annex (annexKey die line) a }

def State.mapAnnex (s : State) (die line : Nat) (f : AnnexLine → AnnexLine) : State :=
  s.setAnnex die line (f (s.annexLine die line))

def State.catEntry (s : State) (line : Nat) : CatEntry := Bank.get {} s.cat line

def State.setCat (s : State) (line : Nat) (e : CatEntry) : State := { s with cat := Bank.set {} s.cat line e }

/-- The data a line holds at its home. -/
def State.homeData (s : State) (line : Nat) : BitVec 1024 := BitVec.ofNat 1024 (readBytes s.hbm (line * 128) 128)

/-- Stamps of a line at its home (R270). -/
def State.homeWts (s : State) (line : Nat) : Nat := Bank.get 0 s.wts line
def State.homeRts (s : State) (line : Nat) : Nat := Bank.get 0 s.rts line

/-- A die whose Annex holds a line with writes that its home does not yet hold (state MP, R328). -/
def State.mpDie (s : State) (line : Nat) : Option Nat :=
  (List.range 12).find? (fun d => match (s.annexLine d line).st with | .mp _ => true | _ => false)

/-- The data of a line as die `die` may see it outside its L1s: its own Annex's where that has written the line, and the
home's otherwise, since no die but the writer's reads data that the home does not yet hold (R328). -/
def State.seenLine (s : State) (die line : Nat) : BitVec 1024 :=
  match (s.annexLine die line).st with
  | .mp _ => (s.annexLine die line).data
  | _ => s.homeData line

/-- Poisoned granules of a line at its home (R380). -/
def State.homePoison (s : State) (line : Nat) : BitVec 8 := BitVec.ofNat 8 (linePoison s.poison line 8)

/-- Poisoned granules of a line as die `die` may see it outside its L1s (R380). -/
def State.seenPoison (s : State) (die line : Nat) : BitVec 8 :=
  match (s.annexLine die line).st with
  | .mp _ => (s.annexLine die line).poison
  | _ => s.homePoison line

/-- A granule that `n` bytes from byte `off` of a line touch is among the poisoned ones. -/
def touchesPoison (p : BitVec 8) (off n : Nat) : Bool :=
  (List.range 8).any (fun g => p.getLsbD g && decide (g * 16 < off + n) && decide (off < g * 16 + 16))

/-- The place of the first poisoned byte among `n` bytes from byte `off` of a line; `off` when there is none. -/
def firstPoison (p : BitVec 8) (off n : Nat) : Nat :=
  match (List.range 8).find? (fun g => p.getLsbD g && decide (g * 16 < off + n) && decide (off < g * 16 + 16)) with
  | some g => Nat.max off (g * 16)
  | none => off

/-- `n` bytes of one line are poisoned as die `die` may see them. -/
def State.seenPoisoned (s : State) (die pa n : Nat) : Bool := touchesPoison (s.seenPoison die (lineOf pa)) (pa % 128) n

/-- `n` bytes of one line as die `die` may see them. -/
def State.seenBytes (s : State) (die pa n : Nat) : Nat :=
  bits (s.seenLine die (lineOf pa)).toNat (8 * (pa % 128)) (8 * n)

/-- A read made by an agent of die `die`, or of none, need not wait at another die's Annex (R328). -/
def State.readableFor (s : State) (die : Option Nat) (line : Nat) : Bool :=
  match s.mpDie line with
  | none => true
  | some d => some d == die

/-- The newest data of a line, wherever it lies. -/
def State.currentLine (s : State) (line : Nat) : BitVec 1024 :=
  match s.mpDie line with
  | some d => (s.annexLine d line).data
  | none => s.homeData line

/-- The poisoned granules of the newest data of a line. -/
def State.currentPoison (s : State) (line : Nat) : BitVec 8 :=
  match s.mpDie line with
  | some d => (s.annexLine d line).poison
  | none => s.homePoison line

/-- `n` bytes of device memory as any observer at order rlx and scope pkg may read them; the bytes lie in one line. -/
def State.currentBytes (s : State) (pa n : Nat) : Nat :=
  bits (s.currentLine (lineOf pa)).toNat (8 * (pa % 128)) (8 * n)

/-- A device byte range of one line holds poison. -/
def poisoned (b : Bank Bool) (a n : Nat) : Bool :=
  (List.range ((a + n + 15) / 16 - a / 16)).any (fun i => Bank.get false b (a / 16 + i))

/-- The frame state of a device byte (R337). -/
def State.frame (s : State) (pa : Nat) : FrameState := Bank.get .plain s.frames (pa / 65536)

/-- A line that a commit of another ring, or anything for `none`, holds locked (R222). -/
def State.lockedBy (s : State) (l : LineId) (ring : Option Nat) : Bool :=
  s.locks.any (fun e => decide (e.1 = l) && !(some e.2 == ring))

/-- The greatest lease end of a line at its home and in every Annex. -/
def State.maxRts (s : State) (line : Nat) : Nat :=
  (List.range 12).foldl (fun m d => Nat.max m (s.annexLine d line).rts) (s.homeRts line)

/-- A line that no agent is changing: no mirror pending, no request being resolved, no lock, no pin (R333, R335). -/
def State.settled (s : State) (line : Nat) : Bool :=
  (s.mpDie line).isNone && (s.catEntry line).busy.isNone && !decide ((s.catEntry line).st = .rcl)
    && !s.lockedBy (.hbm line) none && !s.pins.any (fun p => decide (p.1 = .hbm line))

/-- An Annex of die `die` holds contributions to a line (R252). -/
def State.combines (s : State) (die line : Nat) : Bool := s.combine.any (fun b => b.die == die && b.line == line)

/-- The combining buffers that `f` holds for are emptied: their sums are on their way to the home (R253). -/
def State.sendSums (s : State) (f : CombBuf → Bool) : State :=
  { s with combine := s.combine.map (fun b => if f b then { b with sent := true } else b) }

/-- The combining buffer of a line is emptied (R253). -/
def State.emptyBuffer (s : State) (die line : Nat) : State :=
  let i : Instr := .combineTimeout die line
  let s := s.sendSums (fun b => b.die == die && b.line == line)
  if s.combines die line && !s.flight.contains i then s.post i else s

/-- Every Annex copy of a line is given up to its home, the combining buffers of the line are emptied, and its Catalogue
entry is freed: a recall that meets no pin (R253, R327, R332). Requests that wait at the entry stay there (R333). -/
def State.recallAll (s : State) (line : Nat) : State :=
  let r := s.maxRts line
  let s := { s with rts := Bank.set 0 s.rts line r }
  let s := (List.range 12).foldl (fun s d => s.mapAnnex d line (fun a => { asked := a.asked })) s
  let e := s.catEntry line
  (s.sendSums (fun b => b.line == line)).setCat line { waiting := e.waiting, way := e.way }

/-- Bytes of a line written at its home, with the stamps of a write made at logical time `t` (R270, R392) and the
poison of the data (R380). -/
def State.writeHome (s : State) (line : Nat) (data : BitVec 1024) (mask : BitVec 128) (t : Nat) (p : BitVec 8) : State :=
  let w := Nat.max t (s.homeRts line + 1)
  let full := fullGranules mask.toNat 8
  { s with
    hbm := writeMasked s.hbm (line * 128) 128 data.toNat mask.toNat
    wts := Bank.set 0 s.wts line w
    rts := Bank.set 0 s.rts line (Nat.max (s.homeRts line) w)
    poison := setPoison s.poison line p.toNat (full ||| p.toNat) 8 }

/-- A write by an engine, an agent, the host or a peer: made at the home after every other copy is recalled. -/
def State.engineWrite (s : State) (line : Nat) (data : BitVec 1024) (mask : BitVec 128) (t : Nat) (p : BitVec 8) :
    State := (s.recallAll line).writeHome line data mask t p

/-- Bytes of a scratchpad line written with write timestamp `w` (R221, R380). -/
def Core.putScratch (c : Core) (line : Nat) (data : BitVec 1024) (mask : BitVec 128) (w : Nat) (p : BitVec 8) : Core :=
  let r := Bank.get 0 c.scratchRts line
  let full := fullGranules mask.toNat 8
  { c with
    scratch := writeMasked c.scratch (line * 128) 128 data.toNat mask.toNat
    scratchWts := Bank.set 0 c.scratchWts line w
    scratchRts := Bank.set 0 c.scratchRts line (Nat.max r w)
    scratchPoison := setPoison c.scratchPoison line p.toNat (full ||| p.toNat) 8 }

/-- Bytes of a scratchpad line written at logical time `t`: wts := max(t, rts + 1) (R392, R380). -/
def Core.writeScratch (c : Core) (line : Nat) (data : BitVec 1024) (mask : BitVec 128) (t : Nat) (p : BitVec 8) : Core :=
  c.putScratch line data mask (Nat.max t (Bank.get 0 c.scratchRts line + 1)) p

/-- A scratchpad line. -/
def Core.scratchLine (c : Core) (line : Nat) : BitVec 1024 := BitVec.ofNat 1024 (readBytes c.scratch (line * 128) 128)

/-- Bits of a scratchpad line written by the core's network agent at its logical time (R149, R266, R392). -/
def Core.agentWrite (c : Core) (line : Nat) (data mask : BitVec 1024) (p : BitVec 8) : Core :=
  let new := mergeBits (c.scratchLine line) data mask
  let touched := BitVec.ofNat 128 (pack 1 ((elems 8 128 mask.toNat).map (fun b => bit (decide (b ≠ 0)))))
  let full := BitVec.ofNat 128 (pack 1 ((elems 8 128 mask.toNat).map (fun b => bit (decide (b = 255)))))
  let keep := linePoison c.scratchPoison line 8
  let gone := fullGranules full.toNat 8
  let c' := c.writeScratch line new touched c.lts 0
  { c' with scratchPoison := setPoison c'.scratchPoison line (p.toNat ||| (keep &&& (255 - gone))) 255 8 }

/-! ## Errors that reads meet (R377–R379) -/

/-- The newest records of a log, oldest first, `k` of them. -/
def keepNewest (k : Nat) (l : List LogRecord) : List LogRecord := l.drop (l.length - k)

/-- A machine record (Table 23.2). Kinds: 0 corrected, 1 poisoned, 2 machine error, 3 link retry, 4 temperature, 5 a frame
reported (log 25). -/
def State.logMachineEvent (s : State) (unit kind addr : Nat) : State :=
  { s with logMachine := keepNewest 4096 (s.logMachine ++ [LogRecord.machine unit kind addr])
           machineError := s.machineError || kind == 2 }

/-- A refusal record (Table 23.2). Kinds: 0 a host abort, 1 a host address outside device HBM, 2 a peer access refused here,
3 a peer store refused by its target, 4 a lost mailbox message, 5 a sync-register window without its register (log 25). -/
def State.logRefused (s : State) (kind addr : Nat) : State :=
  { s with logRefusal := keepNewest 1024 (s.logRefusal ++ [LogRecord.refusal kind addr]) }

/-- The granules that an uncorrectable read of a place covers become poisoned: the 64-byte half-line of device HBM (R379),
the 16-byte granule of a scratchpad (R377). -/
def State.poisonAt (s : State) : Loc → State
  | .hbm pa => { s with poison := (List.range 4).foldl (fun b i => Bank.set false b (pa / 64 * 4 + i) true) s.poison }
  | .scratch n off => s.mapCore n (fun c => { c with scratchPoison := Bank.set false c.scratchPoison (off / 16) true })
  | _ => s

/-- The component and address of a place, for the machine log. -/
def State.unitOf (s : State) : Loc → Nat × Nat
  | .hbm pa => (s.homeOf pa, pa)
  | .scratch n off => (n, off)
  | .host a => (0, a)
  | .peer p off => (p, off)

/-- A read meets an error: one that ECC corrects is logged, and counted for its frame of device HBM; one that it only
detects, or a ninth failed burst, poisons the granules it covers; up to 8 retries of a burst are logged (R377, R379). -/
def State.meetOne (s : State) (x : Loc × ReadError) : State :=
  let (u, a) := s.unitOf x.1
  let count (s : State) : State :=
    match x.1 with
    | .hbm pa => { s with corrections := Bank.set 0 s.corrections (pa / 65536) (Bank.get 0 s.corrections (pa / 65536) + 1) }
    | _ => s
  match x.2 with
  | .corrected => count (s.logMachineEvent u 0 a)
  | .uncorrectable => (s.poisonAt x.1).logMachineEvent u 1 a
  | .crc n => if n ≤ 8 then s.logMachineEvent u 3 a else (s.poisonAt x.1).logMachineEvent u 1 a

/-- A read of the places that `f` holds for meets the errors there. A write leaves an error where it is (log 27). -/
def State.meet (s : State) (f : Loc → Bool) : State :=
  if s.bitErrors = [] then s
  else (s.bitErrors.filter (fun x => f x.1)).foldl State.meetOne { s with bitErrors := s.bitErrors.filter (fun x => !f x.1) }

/-- A byte of a device line. -/
def inLine (line : Nat) : Loc → Bool
  | .hbm pa => pa / 128 == line
  | _ => false

/-- One of `n` bytes of device HBM. -/
def inBytes (pa n : Nat) : Loc → Bool
  | .hbm a => decide (pa ≤ a) && decide (a < pa + n)
  | _ => false

/-- A byte of a granule of core `n`'s scratchpad that `k` bytes from `off` touch. -/
def inScratch (n off k : Nat) : Loc → Bool
  | .scratch c o => c == n && decide (0 < k) && decide (off / 16 ≤ o / 16) && decide (o / 16 < (off + k + 15) / 16)
  | _ => false

/-- Core `n` reads ranges of its scratchpad, each an offset with its bytes. -/
def State.meetScratch (s : State) (n : Nat) (l : List (Nat × Nat)) : State := s.meet (fun x => l.any (fun r => inScratch n r.1 r.2 x))

/-- A byte of a line. -/
def lineHolds : LineId → Loc → Bool
  | .hbm line => inLine line
  | .scratch n line => inScratch n (line * 128) 128

/-! ## Checked datapaths (R375) -/

/-- A failed check of a unit of core `n`: the operation is issued again once, which raises CORR; when that fails too, a
machine error is recorded, the core is fenced, and its die is compute-dropped (R375). -/
def State.retryUnit (s : State) (n : Nat) (corrected : Bool) : State :=
  if corrected then
    s.mapCore n (fun c => { c with upset := none, corr := if c.corr = 0xFFFFFFFF then c.corr else c.corr + 1 })
  else
    ((s.mapCore n (fun c => { c with upset := none, fenced := true })).logMachineEvent n 2 0).post (.computeDrop (dieOf n))

/-- The checks of the units that R375 names, with what a retry gives. -/
def Upset.ofScalar : Upset → Option Bool
  | .scalar ok => some ok
  | _ => none
def Upset.ofAgent : Upset → Option Bool
  | .agent ok => some ok
  | _ => none
def Upset.ofCopy : Upset → Option Bool
  | .copy ok => some ok
  | _ => none
def Upset.ofWalker : Upset → Option Bool
  | .walker ok => some ok
  | _ => none

/-- A unit of core `n` does its next operation: a check of it that is to fail does so now (R375). -/
def State.checkUnit (s : State) (n : Nat) (unit : Upset → Option Bool) : State :=
  match (s.core n).upset.bind unit with
  | some ok => s.retryUnit n ok
  | none => s

/-- The next operation of core `n`'s network agent fails twice: it is not done there (R375). -/
def State.agentFails (s : State) (n : Nat) : Bool := decide ((s.core n).upset = some (.agent false))

/-! ## Early ends -/

/-- A meaning over the state; `.error` is an instruction that ended early (trapped, held, stalled). -/
abbrev M := StateT State (Except State)

/-- The outcome of a meaning: a next state in every case. -/
def finish (m : M Unit) (s : State) : Host.Outcome State Fault Refusal :=
  match m s with
  | .ok (_, t) => .next t
  | .error t => .next t

/-- Ends the instruction in state `t`. -/
def endIn {α : Type} (t : State) : M α := fun _ => .error t

/-- The instruction waits: it stays at pc and issues again. -/
def stall {α : Type} : M α := fun s => .error (s.mapCtx (fun c => { c with issued := true }))

/-- The instruction has put a step on its way and waits. -/
def stallFor {α : Type} (i : Instr) : M α := fun s => .error ((s.post i).mapCtx (fun c => { c with issued := true }))

/-! ## Messages -/

/-- The sender word of a message (Table 1.7, s2). -/
def senderWord (m : Msg) : Word :=
  BitVec.ofNat 64 (bit m.host * 2 ^ 63 + bit m.peer.isSome * 2 ^ 62 + bit m.vec * 2 ^ 61
    + (m.peer.getD 0) * 2 ^ 32 + (if m.host then 0 else m.src))

/-- A message enters the network: to a core, to a host mailbox, or to a peer package (R189, R353, R355). -/
def State.sendMsg (s : State) (m : Msg) : State :=
  match m.toPeer with
  | some p => { s with peerSent := s.peerSent ++ [(p, m)] }
  | none => s.post (if m.toHost then .mailboxMessage m else .messageArrival m)

/-- A refusal of `m` to its reply class: s5 = 0 and s8 the cause (R189, R239). -/
def refusalOf (m : Msg) (cause : Cause) (stamp : Nat) : Msg :=
  { src := m.dst, host := false, peer := none, vec := false, dst := m.src, toHost := false, toPeer := m.peer,
    cls := m.rclass, asid := m.asid, stamp := stamp, re := false, rclass := 0, len := 0,
    payload := BitVec.ofNat 4096 cause.code.toNat }

/-- `k` bytes of device memory from `pa`, as they lie at their homes. -/
def State.homeBytes (s : State) (pa k : Nat) : Nat := readBytes s.hbm pa k

/-- `n` bytes written to device memory from `pa` at logical time `t`, line by line (R392); the granule that starts at byte
`i` of them is poisoned where `p i` (R380). -/
def State.deviceStore (s : State) (pa n v t : Nat) (p : Nat → Bool) : State :=
  (List.range ((pa + n + 127) / 128 - pa / 128)).foldl (fun s k =>
    let line := pa / 128 + k
    let lo := Nat.max pa (line * 128)
    let hi := Nat.min (pa + n) (line * 128 + 128)
    let bad := (List.range 8).foldl (fun m g =>
      let a := line * 128 + 16 * g
      if decide (lo < a + 16) && decide (a < hi) && p (a - pa) then m + 2 ^ g else m) 0
    s.engineWrite line (BitVec.ofNat 1024 (v / 2 ^ (8 * (lo - pa)) * 2 ^ (8 * (lo - line * 128))))
      (BitVec.ofNat 128 (maskBits (lo - line * 128) (hi - lo))) t (BitVec.ofNat 8 bad)) s

/-- Bytes written to device memory by the host, a peer, a Curator's chain or the context-save engine. R392 does not give the
logical time of that engine's writes: the model takes 0. DESIGN CHOICE (log 89). -/
def State.deviceWrite (s : State) (pa n v : Nat) (p : Nat → Bool) : State := s.deviceStore pa n v 0 p

/-- `k` bytes written to device memory from `pa` by a core's agent at logical time `t`. -/
def State.agentStore (s : State) (pa k v t : Nat) : State := s.deviceStore pa k v t (fun _ => false)

/-- PROD, CONS and LOST of the dead-message area at `a` (R369). -/
def State.deadProd (s : State) (a : Nat) : Nat := s.homeBytes a 4
def State.deadCons (s : State) (a : Nat) : Nat := s.homeBytes (a + 4) 4
def State.deadLost (s : State) (a : Nat) : Nat := s.homeBytes (a + 8) 4

/-- Where the record of number `k` of the area at `a` lies (R369). -/
def deadSlot (a k : Nat) : Nat := a + 64 + 576 * (k % Config.deadRecords)

/-- The 576 bytes of a record (Table 22.4). -/
def DeadRecord.image (r : DeadRecord) : Nat :=
  pack 64 [r.sender.toNat, r.stamp % 2 ^ 64, r.tval.toNat, r.pc.toNat]
    + 2 ^ 256 * (r.len % 2 ^ 16 + 2 ^ 16 * r.cls + 2 ^ 24 * r.code.toNat
      + 2 ^ 32 * (bit r.re + 2 * bit r.refused + 4 * bit r.replied + 8 * bit r.notRun) + 2 ^ 64 * r.count)
    + 2 ^ 512 * (r.payload.toNat % 2 ^ (8 * r.len))

/-- The record that 576 bytes hold. -/
def deadRecordOf (v : Nat) : DeadRecord :=
  { sender := BitVec.ofNat 64 v, stamp := bits v 64 64, tval := BitVec.ofNat 64 (bits v 128 64)
    pc := BitVec.ofNat 64 (bits v 192 64), len := bits v 256 16, cls := bits v 272 8, code := BitVec.ofNat 7 (bits v 280 8)
    re := bits v 288 1 == 1, refused := bits v 289 1 == 1, replied := bits v 290 1 == 1, notRun := bits v 291 1 == 1
    count := bits v 320 32, payload := BitVec.ofNat 4096 (bits v 512 4096) }

/-- The network agent of core `n` writes a dead-message record: the record, then PROD; with 56 undrained, LOST rises
(R369, R370). A core without an area for the address space keeps none (log 20). -/
def State.deadWrite (s : State) (n asid : Nat) (r : DeadRecord) : State :=
  match Bank.find (s.core n).dead asid with
  | none => s
  | some a =>
    let t := (s.core n).lts
    if (s.deadProd a + 2 ^ 32 - s.deadCons a) % 2 ^ 32 = Config.deadRecords then
      if s.deadLost a = 0xFFFFFFFF then s else s.agentStore (a + 8) 4 (s.deadLost a + 1) t
    else (s.agentStore (deadSlot a (s.deadProd a)) 576 r.image t).agentStore a 4 ((s.deadProd a + 1) % 2 ^ 32) t

/-- A message goes to the dead-message area of the core it reached, with its refusal (R244, R370). -/
def State.deadMessage (s : State) (n : Nat) (m : Msg) (cause : Cause) (tval pc : Word) (count : Nat)
    (replied notRun : Bool) : State :=
  let refuse := m.re && !replied
  let r : DeadRecord :=
    { sender := senderWord m, stamp := m.stamp, tval := tval, pc := pc, len := m.len, cls := m.cls,
      code := cause.code, re := m.re, refused := refuse, replied := replied, notRun := notRun, count := count,
      payload := m.payload }
  let s := s.deadWrite n m.asid r
  if refuse then s.sendMsg (refusalOf m cause (s.core n).lts) else s

/-! ## Taking an exception and returning from one -/

/-- Exchanges s56–s63 with the trap bank (R362). -/
def exchangeBank (c : Core) : Core :=
  let get (b : Bank Word) (i : Nat) := Bank.get 0 b i
  let idx := List.range 8
  let s' := idx.foldl (fun b i => Bank.set 0 b (56 + i) (get c.trapBank i)) c.main.s
  let b' := idx.foldl (fun b i => Bank.set 0 b i (get c.main.s (56 + i))) c.trapBank
  { c with main := { c.main with s := s' }, trapBank := b' }

/-- trap_entry (R362, R364): what a core's main context does in place of the instruction's completion. -/
def Core.trapEntry (c : Core) (cause : Cause) (tval : Word) (elem held : Bool) : Core :=
  let c := { c with causeHeld := held, causeElem := elem, causeCode := cause.code, epc := c.main.pc, tval := tval }
  let c := if c.prv then c else
    let c := exchangeBank c
    { c with trapLoops := c.main.loops, main := { c.main with loops := [] } }
  { c with pprv := c.prv, prv := true, main := { c.main.fresh with pc := c.tvec, wait := none } }

/-- The reverse step of `eret` (R363). -/
def Core.trapReturn (c : Core) : Core :=
  let c := if c.pprv then c else
    let c := exchangeBank c
    { c with main := { c.main with loops := c.trapLoops }, trapLoops := [] }
  { c with prv := c.pprv, pprv := false, main := { c.main with pc := c.epc } }

/-- The handler in progress is aborted by a cause (R244): dead message, refusal, and a dispatch boundary. -/
def State.abortHandler (s : State) (n : Nat) (cause : Cause) (tval : Word) : State :=
  let c := s.core n
  match c.run with
  | none => s
  | some h =>
    let s := s.deadMessage n h.msg cause tval c.hnd.pc h.count h.replied false
    let s := { s with pins := s.pins.filter (fun p => p.2 != n) }
    s.mapCore n (fun c => { c with run := none, hnd := (Core.reset n).hnd })

/-- The main context of the current core takes a trap; the younger chunks of an assured region stop at instruction
boundaries until its `eret` (R230). -/
def State.trapNow (s : State) (cause : Cause) (tval : Word) (elem held : Bool) : State :=
  let s := if s.assured && !s.me.prv then s.mapRegion (ringOf s.cur) (fun r => { r with youngerStopped := true }) else s
  s.mapCore s.cur (fun k => k.trapEntry cause tval elem held)

/-- The current instruction raises a cause: a handler is aborted, a speculative chunk or an assured chunk without the
Ensign holds it, and any other main context takes the trap (R226, R230, R244, R362). -/
def State.raise (s : State) (cause : Cause) (tval : Word) (elem : Bool) : State :=
  if s.curH then s.abortHandler s.cur cause tval
  else
    match s.chunk with
    | some c =>
      if (c.spec || (s.assured && !c.heldOnce)) && !s.me.prv then
        s.mapMyChunk (fun c => { c with st := .waitingEnsign, heldOnce := true,
                                        held := some ⟨cause, tval, elem, s.ctx.pc⟩ })
      else s.trapNow cause tval elem false
    | none => s.trapNow cause tval elem false

/-- Ends the instruction with a cause. -/
def raise {α : Type} (cause : Cause) (tval : Word) : M α := fun s => .error (s.raise cause tval false)

/-- Ends the instruction with a cause whose TVAL is the instruction's address. -/
def raiseHere {α : Type} (cause : Cause) : M α := fun s => .error (s.raise cause s.ctx.pc false)

/-- Raises `cause` at the instruction's address unless `b` holds. -/
def require (b : Bool) (cause : Cause) : M Unit := if b then pure () else raiseHere cause

/-! ## Parts of a meaning -/

/-- The current context. -/
def getCtx : M Ctx := fun s => .ok (s.ctx, s)

/-- The current context := the image of `f`. -/
def modCtx (f : Ctx → Ctx) : M Unit := fun s => .ok ((), s.mapCtx f)

/-- The current core changed by `f`. -/
def modCore (f : Core → Core) : M Unit := fun s => .ok ((), s.mapCore s.cur f)

def getState : M State := fun s => .ok (s, s)

def modState (f : State → State) : M Unit := fun s => .ok ((), f s)

/-- X(r) of the current context. -/
def readX (r : SReg) : M Word := fun s => .ok (s.ctx.x r, s)

/-- X(r) := v of the current context. -/
def writeX (r : SReg) (v : Word) : M Unit := modCtx (fun c => c.setX r v)

/-- The instruction of `len` bytes completes (R93). -/
def retire (len : Word) : M Unit := modCtx (fun c => c.fresh.retire len)

/-- The instruction is S-only (R62). -/
def needS : M Unit := fun s => if s.atS then .ok ((), s) else .error (s.raise .privilege s.ctx.pc false)

/-- The instruction does not run in the handler context (step 8 of Table 22.3). -/
def notHandler : M Unit := fun s => if s.curH then .error (s.raise .handlerBlocking s.ctx.pc false) else .ok ((), s)

/-- A control transfer at a live entry's END (R94). -/
def loopHazard : M Unit := fun s =>
  if s.ctx.atLoopEnd then .error (s.raise .loopEndHazard s.ctx.pc false) else .ok ((), s)

/-! ## Context-local instructions -/

/-- An instruction that changes its own context only, and completes: `f` gives the new context before the program
counter moves on by `len` (R76, R93). -/
def State.plain (s : State) (len : Word) (f : Ctx → Ctx) : Host.Outcome State Fault Refusal :=
  .next (s.mapCtx (fun c => (f c).fresh.retire len))

/-- How an instruction that changes its own context only ends. -/
inductive Local where
  /-- It completes with this context, its program counter moved. -/
  | done (c : Ctx)
  /-- It leaves this context and raises a cause. -/
  | raise (c : Ctx) (cause : Cause) (tval : Word) (elem : Bool)
  deriving DecidableEq, Repr

/-- Runs a context-local instruction. -/
def State.local (s : State) (f : Ctx → Local) : Host.Outcome State Fault Refusal :=
  match f s.ctx with
  | .done c => .next (s.setCtx c.fresh)
  | .raise c cause tval elem => .next ((s.setCtx c).raise cause tval elem)

end Sys2Proof.Machine
end

