-- ==== Sys2Proof/Machine/Translate.lean ====
section
/-! DEFINITION. The address map, the page walk, the TLB and the fetch of a parcel (R49, R259, R260, R305–R310, R324). -/

namespace Sys2Proof.Machine
open Sys2Proof

/-- What an address reaches (Table 12.1, R260). -/
inductive Target where
  /-- A byte of device HBM. -/
  | hbm (pa : Nat)
  /-- The issuing core's own scratchpad through window `w`. -/
  | own (w off : Nat)
  /-- Another core's scratchpad. -/
  | remote (core w off : Nat)
  | host (addr : Nat)
  | peer (pkg off : Nat)
  deriving DecidableEq, Repr

/-- The kinds of access that a walk is made for (R306, R307). -/
inductive Access where
  | fetch | load | store
  /-- Read and write: atomics, far atomics, a reduce-add's destination. -/
  | modify
  deriving DecidableEq, Repr

/-- The translation cause of an access (Table 22.5). -/
def Access.translation : Access → Cause
  | .fetch => .fetchTranslation
  | .load => .loadTranslation
  | .store => .storeTranslation
  | .modify => .storeTranslation

/-- The protection cause of an access. -/
def Access.protection : Access → Cause
  | .fetch => .fetchProtection
  | .load => .loadProtection
  | .store => .storeProtection
  | .modify => .storeProtection

/-- A failed access: its cause and the value that TVAL receives. -/
abbrev Failed := Cause × Word

/-- Fields of a page-table entry (Table 18.4). -/
def pteV (p : Nat) : Bool := p % 2 == 1
def pteLeaf (p : Nat) : Bool := bits p 1 1 == 1
def pteR (p : Nat) : Bool := bits p 2 1 == 1
def pteW (p : Nat) : Bool := bits p 3 1 == 1
def pteX (p : Nat) : Bool := bits p 4 1 == 1
def pteU (p : Nat) : Bool := bits p 5 1 == 1
def pteType (p : Nat) : Nat := bits p 6 2
def pteCont (p : Nat) : Bool := bits p 11 1 == 1
def pteHome (p : Nat) : Nat := bits p 12 4
/-- OA in place: bits [51:16] of the address. -/
def pteOA (p : Nat) : Nat := bits p 16 36 * 65536
def ptePkg (p : Nat) : Nat := bits p 52 10

/-- A well-formed leaf of level 2 or 3 (R306). One with a reserved bit set, [63:62] or [10:8], is not: R306 names no cause
for it, and the model raises a translation fault. DESIGN CHOICE (log 92). -/
def leafOk (level p : Nat) : Bool :=
  decide (2 ≤ level) && bits p 62 2 == 0 && bits p 8 3 == 0
    && (!(level == 2) || (bits p 16 13 == 0 && !pteCont p))
    && !(pteW p && !pteR p) && !(pteType p == 3)
    && (if pteType p = 0 then pteHome p == 15 || decide (pteHome p < 12) else pteHome p == 0)
    && (pteType p == 2 || ptePkg p == 0)

/-- A well-formed table entry (R306). -/
def tableOk (level p : Nat) : Bool := decide (level < 3) && p == 1 + pteOA p

/-- The index of a level (Table 18.3). -/
def levelIndex (level va : Nat) : Nat :=
  match level with
  | 0 => bits va 55 9
  | 1 => bits va 42 13
  | 2 => bits va 29 13
  | _ => bits va 16 13

/-- The walk of core `n` from a table at `base` (R306); `fuel` levels are left. The answer is the leaf, its level and its
address. An entry at or above the end of device HBM raises access-target, which R306 does not say. DESIGN CHOICE
(log 93). -/
def walkFrom (s : State) (n : Nat) (acc : Access) (va : Nat) : Nat → Nat → Nat → Except Failed (Nat × Nat × Nat)
  | 0, _, _ => .error (acc.translation, BitVec.ofNat 64 va)
  | fuel + 1, level, base =>
    let a := base + 8 * levelIndex level va
    if s.hbmLimit ≤ a then .error (.accessTarget, BitVec.ofNat 64 va)
    else if s.seenPoisoned (dieOf n) a 8 then .error (.poisonConsumed, BitVec.ofNat 64 a)
    else
      let p := s.seenBytes (dieOf n) a 8
      if !pteV p then .error (acc.translation, BitVec.ofNat 64 va)
      else if pteLeaf p then
        if leafOk level p then .ok (p, level, a) else .error (acc.translation, BitVec.ofNat 64 va)
      else if tableOk level p then walkFrom s n acc va fuel (level + 1) (pteOA p)
      else .error (acc.translation, BitVec.ofNat 64 va)

/-- The lines whose entries that walk reads. -/
def walkLines (s : State) (n va : Nat) : Nat → Nat → Nat → List Nat
  | 0, _, _ => []
  | fuel + 1, level, base =>
    let a := base + 8 * levelIndex level va
    let p := s.seenBytes (dieOf n) a 8
    if s.hbmLimit ≤ a then []
    else if pteV p && !pteLeaf p && tableOk level p then lineOf a :: walkLines s n va fuel (level + 1) (pteOA p)
    else [lineOf a]

/-- Permission of a leaf (R307). -/
def permitted (acc : Access) (atS : Bool) (p : Nat) : Bool :=
  (atS || pteU p) &&
    match acc with
    | .fetch => pteX p
    | .load => pteR p
    | .store => pteW p
    | .modify => pteR p && pteW p

/-- The entry of a TLB that translates `va` in `asid` (R310). -/
def tlbFind (l : List TlbEntry) (asid va : Nat) : Option TlbEntry :=
  l.find? (fun e => e.asid == asid && e.vpn == va / 2 ^ e.bits)

/-- The entry that a walk caches for the leaf `p` of a level, read at address `a` (R308, R310). A level-3 leaf with CONT
is held as its 2 MiB group, with the group's first entry, where that entry implies its translation; where it does not, the
declaration is false, and one of the two translations applies. -/
def cachedEntry (s : State) (n asid va p level a : Nat) : TlbEntry :=
  if level = 2 then ⟨asid, va / 2 ^ 29, 29, p⟩
  else
    let i := levelIndex 3 va % 32
    let first := s.seenBytes (dieOf n) (a - 8 * i) 8
    let usable := pteCont p && pteV first && pteLeaf first && leafOk 3 first && pteOA first % 2 ^ 21 == 0
    if usable && (p == first + i * 65536 || Config.contByGroup asid (va / 65536) s.choices) then
      ⟨asid, va / 2 ^ 21, 21, first⟩
    else ⟨asid, va / 65536, 16, p⟩

/-- HOME of a leaf for a device byte (R324). -/
def State.homeField (s : State) (pa : Nat) : Nat := if Bank.get false s.striped (s.setOfByte pa) then 15 else s.homeOf pa

/-- The leaf of the page at CAPS, which the Curator maps into every address space (R8): level 3, TYPE 0, R = U = 1, W = X = 0. -/
def State.capsLeaf (s : State) : Nat := 0b100111 + s.homeField s.capsFrame * 2 ^ 12 + s.capsFrame

/-- The page at CAPS, once bring-up has set up address spaces (R8, R389). -/
def State.atCaps (s : State) (va : Nat) : Bool := s.up && va / 65536 == Config.caps / 65536

/-- The translation of an address by core `n`: a cached one (R310), that of the page at CAPS (R8), or a walk from
`ptbase`, which caches what it finds. -/
def findLeaf (s : State) (n : Nat) (tlb : List TlbEntry) (asid ptbase : Nat) (acc : Access) (va : Nat) :
    Except Failed (TlbEntry × List TlbEntry) :=
  match tlbFind tlb asid va with
  | some e => .ok (e, tlb)
  | none =>
    if s.atCaps va then .ok (⟨asid, va / 65536, 16, s.capsLeaf⟩, ⟨asid, va / 65536, 16, s.capsLeaf⟩ :: tlb)
    else match walkFrom s n acc va 4 0 (ptbase * 4096) with
    | .error f => .error f
    | .ok (p, level, a) =>
      let e := cachedEntry s n asid va p level a
      .ok (e, e :: tlb)

/-- Where a leaf leads (R306, R324). -/
def leafTarget (s : State) (e : TlbEntry) (va : Nat) : Except Failed Target :=
  let low := va % 2 ^ e.bits
  let out := pteOA e.pte / 2 ^ e.bits * 2 ^ e.bits + low
  match pteType e.pte with
  | 0 =>
    if s.hbmLimit ≤ out then .error (.accessTarget, BitVec.ofNat 64 va)
    else
      if pteHome e.pte = s.homeField out then .ok (.hbm out) else .error (.accessTarget, BitVec.ofNat 64 va)
  | 1 => .ok (.host out)
  | _ => if ptePkg e.pte = s.pkgNo then .error (.accessTarget, BitVec.ofNat 64 va) else .ok (.peer (ptePkg e.pte) out)

/-- An untranslated address (R259, R260) as core `n` sees it; `none` for an address of the translated region. -/
def untranslated (n va : Nat) : Option (Except Failed Target) :=
  if va < Config.untranslated then none
  else
    let bad : Except Failed Target := .error (.accessTarget, BitVec.ofNat 64 va)
    let window (o : Nat) (core : Nat) : Except Failed Target :=
      let w := o % 0x800000 / 0x100000
      let off := o % 0x100000
      if Config.scratchBytes ≤ off then bad
      else if core = n then .ok (.own w off) else .ok (.remote core w off)
    some <|
      if va < Config.globalScratchEnd then
        let o := va - Config.globalScratch
        window o (o / 0x800000)
      else if Config.ownScratch ≤ va ∧ va < Config.ownScratchEnd then
        if isRingCore n then window (va - Config.ownScratch) n else bad
      else bad

/-- Translates an access of core `n` in an address space, with the TLB as the access leaves it. -/
def resolveAt (s : State) (n : Nat) (tlb : List TlbEntry) (asid ptbase : Nat) (atS : Bool) (acc : Access) (va : Nat) :
    Except Failed (Target × List TlbEntry) :=
  match untranslated n va with
  | some (.error f) => .error f
  | some (.ok (.remote core w off)) =>
    -- scratchpads of a compute-dropped die are out of reach (R383)
    if (Bank.find s.dropped (dieOf core)).isSome then .error (.accessTarget, BitVec.ofNat 64 va)
    else .ok (.remote core w off, tlb)
  | some (.ok t) => .ok (t, tlb)
  | none =>
    match findLeaf s n tlb asid ptbase acc va with
    | .error f => .error f
    | .ok (e, tlb') =>
      if !permitted acc atS e.pte then .error (acc.protection, BitVec.ofNat 64 va)
      else
        match leafTarget s e va with
        | .error f => .error f
        | .ok t => .ok (t, tlb')

/-- An access makes a walk: no translation of its address is held (R310). -/
def State.walks (s : State) (tlb : List TlbEntry) (asid va : Nat) : Bool :=
  decide (va < Config.untranslated) && !s.atCaps va && (tlbFind tlb asid va).isNone

/-- A walk of core `n`, if its access makes one, meets a failed check of the walker (R375) and the errors of the entries
that it reads (R377, R379). -/
def State.meetWalk (s : State) (n : Nat) (tlb : List TlbEntry) (asid ptbase va : Nat) : State :=
  if !s.walks tlb asid va then s
  else
    let s := s.checkUnit n Upset.ofWalker
    if s.bitErrors = [] then s
    else
      let ls := walkLines s n va 4 0 (ptbase * 4096)
      s.meet (fun l => ls.any (fun k => inLine k l))

/-- Translates an access of the current context and keeps the translation. A core that its walker's failure fences goes no
further (R375). -/
def resolve (acc : Access) (va : Nat) : M (Except Failed Target) := fun s =>
  let fenced := s.me.fenced
  let s := s.meetWalk s.cur s.me.tlb s.me.asid.toNat s.me.ptbase.toNat va
  let c := s.me
  if !fenced && c.fenced then stall s else
  match resolveAt s s.cur c.tlb c.asid.toNat c.ptbase.toNat s.atS acc va with
  | .error f => .ok (.error f, s)
  | .ok (t, tlb) => .ok (.ok t, s.mapCore s.cur (fun c => { c with tlb := tlb }))

/-! ## Fetch -/

/-- Lines of an L1 instruction cache (R4, Table 0.2). -/
def icacheLines : Nat := 512

/-- An instruction cache that is full gives up one line, which the manual leaves open (R4, log 14). -/
def State.freeFetchLine (s : State) : State :=
  let keys := s.me.icache.map (·.1)
  if keys.length < icacheLines then s
  else
    let (k, s) := s.choose keys.length
    s.mapCore s.cur (fun c => { c with icache := Bank.erase c.icache (keys.getD k 0) })

/-- The instruction L1 invalidates a line whose tag has a double-bit error (R377). -/
def State.fetchTag (s : State) (line : Nat) : State :=
  let e : TagError := .icache s.cur line
  if s.tagErrors.contains e then
    ({ s with tagErrors := s.tagErrors.erase e }.mapCore s.cur (fun c => { c with icache := Bank.erase c.icache line })).logMachineEvent
      s.cur 1 (line * 128)
  else s

/-- The instruction line of a device byte: the L1 copy, or the data the die sees, which the L1 then keeps (R201). A line
with poison is not kept, so that a copy never has any (R380, log 14). -/
def fetchLine (line : Nat) : M LineData := fun s =>
  let s := s.fetchTag line
  match Bank.find s.me.icache line with
  | some d => .ok (⟨d, 0⟩, s)
  | none =>
    let s := s.meet (inLine line)
    let d := s.seenLine (dieOf s.cur) line
    let p := s.seenPoison (dieOf s.cur) line
    if p = 0 then .ok (⟨d, 0⟩, s.freeFetchLine.mapCore s.cur (fun c => { c with icache := Bank.put c.icache line d }))
    else .ok (⟨d, p⟩, s)

/-- The parcel at an even address, or the fetch fault (R49, R259, step 2 of Table 22.3). -/
def fetchParcel (va : Nat) : M (Except Failed Nat) := do
  if Config.untranslated ≤ va then
    return .error (.accessTarget, BitVec.ofNat 64 va)
  match ← resolve .fetch va with
  | .error f => return .error f
  | .ok (.hbm pa) =>
    let d ← fetchLine (lineOf pa)
    if touchesPoison d.poison (pa % 128) 2 then return .error (.poisonConsumed, BitVec.ofNat 64 va)
    else return .ok (bits d.bits.toNat (8 * (pa % 128)) 16)
  | .ok _ => return .error (.accessTarget, BitVec.ofNat 64 va)

end Sys2Proof.Machine
end

