-- ==== Sys2Proof/Machine/Lines.lean ====
section
/-! DEFINITION. Lines at their coherence points as the load-store unit of a core sees them: the frames of an L1, the rights
a die holds, leases and logical time, and the writes of a core with their mirrors (R211, R222, R270, R326–R331, R341,
R342, R392). -/

namespace Sys2Proof.Machine
open Sys2Proof

/-! ## The frames of an L1 (R4, R211, R214) -/

/-- Line frames of an L1 data cache: 128 KiB, taken as one set (R4, log 13). -/
def l1Frames : Nat := 1024

/-- The lines of which chunks on core `n` hold versions (R211). -/
def State.versionLines (s : State) (n : Nat) : List LineId :=
  match (s.ring (ringOf n)).region with
  | none => []
  | some r => ((r.chunks.filter (fun c => c.q % r.frec.width == n % 8)).flatMap (fun c => c.versions.map (·.line))).eraseDups

/-- A version of line `l` on core `n` finds no frame free of versions (R214). -/
def State.framesFull (s : State) (n : Nat) (l : LineId) : Bool :=
  let v := s.versionLines n
  !v.contains l && decide (l1Frames ≤ v.length)

/-- Committed copies of core `n` whose frames hold no version: those that may be given up. -/
def State.spareCopies (s : State) (n : Nat) : List Nat :=
  let v := s.versionLines n
  ((s.core n).l1.map (·.1)).filter (fun k => !v.contains (.hbm k))

/-- Every frame of the L1 of core `n` is in use. -/
def State.l1Full (s : State) (n : Nat) : Bool := decide (l1Frames ≤ (s.spareCopies n).length + (s.versionLines n).length)

/-- A frame for line `l` in the L1 of core `n`: with every frame in use one committed copy leaves, which one the manual
leaves open (R4, log 13). -/
def State.freeFrame (s : State) (n : Nat) (l : LineId) : State :=
  let copied := match l with
    | .hbm k => (Bank.find (s.core n).l1 k).isSome
    | .scratch _ _ => false
  if copied || (s.versionLines n).contains l || !s.l1Full n then s
  else
    match s.spareCopies n with
    | [] => s
    | k :: t =>
      let (j, s) := s.choose (t.length + 1)
      s.mapCore n (fun c => { c with l1 := Bank.erase c.l1 ((k :: t).getD j k) })

/-- The current core keeps a copy of a device line, where a frame can be had. -/
def State.install (s : State) (line : Nat) (e : L1Line) : State :=
  let s := s.freeFrame s.cur (.hbm line)
  if (Bank.find s.me.l1 line).isSome || (s.versionLines s.cur).contains (.hbm line) || !s.l1Full s.cur then
    s.mapCore s.cur (fun c => { c with l1 := Bank.put c.l1 line e })
  else s

/-! ## Rights of a die -/

/-- The home keeps CAT = 1 for a line (R331). -/
def State.catFlag (s : State) (line : Nat) : Bool := !decide ((s.catEntry line).st = .none)

/-- The die may serve loads of the line (R326, R331). A home die that has registered as a holder keeps the line in
state S of its own key. -/
def State.readable (s : State) (die line : Nat) : Bool :=
  if s.homeLine line = die then !s.catFlag line || decide ((s.annexLine die line).st = .s)
  else !decide ((s.annexLine die line).st = .i)

/-- The die may write the line without asking (R326, R331). -/
def State.writable (s : State) (die line : Nat) : Bool :=
  if s.homeLine line = die then !s.catFlag line
  else match (s.annexLine die line).st with
    | .e => true
    | .m => true
    | .mp _ => true
    | _ => false

/-- The request that a die without the right to write sends (R326, R331). -/
def State.writeRequest (s : State) (die line : Nat) : Instr :=
  if s.homeLine line = die then .catalogueRfo die line
  else match (s.annexLine die line).st with
    | .s => .catalogueUpg die line
    | .o => .catalogueUpg die line
    | _ => .catalogueRfo die line

/-- A request is put on its way unless one of this die for this line already is (R333). -/
def State.ask (s : State) (die line : Nat) (i : Instr) : State :=
  if (s.annexLine die line).asked then s else (s.mapAnnex die line (fun a => { a with asked := true })).post i

/-- Lines of one ring-cache slice: 6 MiB (R1, R4). -/
def sliceLines : Nat := 49152

/-- Lines that the slice of a line's home die for that line holds: eight slices, the slice taken by the low bits of the
line number (R1, log 15). -/
def State.sliceSet (s : State) (line : Nat) : List (Nat × Nat) :=
  s.slices.filter (fun e => e.1 % 8 == line % 8 && s.homeLine e.1 == s.homeLine line)

/-- The least recently used of a list. -/
def oldestUse : List (Nat × Nat) → Option (Nat × Nat)
  | [] => none
  | x :: t => match oldestUse t with
    | none => some x
    | some y => if x.2 ≤ y.2 then some x else some y

/-- The slice of a line's home die holds the line; a full one gives up the line that it used least recently (R1, log 15). -/
def State.intoSlice (s : State) (line : Nat) : State :=
  let full := (Bank.find s.slices line).isNone && decide (sliceLines ≤ (s.sliceSet line).length)
  let kept := if full then
      match oldestUse (s.sliceSet line) with
      | some x => Bank.erase s.slices x.1
      | none => s.slices
    else s.slices
  { s with slices := Bank.put kept line (s.annexClock + 1), annexClock := s.annexClock + 1 }

/-- A use of a line by a die: its Annex, or the home's slice, notes how recently (R1, R329). -/
def State.used (s : State) (die line : Nat) : State :=
  if s.homeLine line = die then s.intoSlice line
  else if (s.annexLine die line).st = .i then s
  else { s.mapAnnex die line (fun a => { a with lru := s.annexClock + 1 }) with annexClock := s.annexClock + 1 }

/-- The data of a line at the die's coherence point. -/
def State.lineData (s : State) (die line : Nat) : BitVec 1024 :=
  if s.homeLine line = die then s.homeData line else (s.annexLine die line).data

/-- Poisoned granules of a line at the die's coherence point (R380). -/
def State.pointPoison (s : State) (die line : Nat) : BitVec 8 :=
  if s.homeLine line = die then s.homePoison line else (s.annexLine die line).poison

/-- A line at the die's coherence point, as an answer carries it. -/
def State.pointData (s : State) (die line : Nat) : LineData := ⟨s.lineData die line, s.pointPoison die line⟩

/-- Stamps of a line at the die's coherence point. -/
def State.lineWts (s : State) (die line : Nat) : Nat :=
  if s.homeLine line = die then s.homeWts line else (s.annexLine die line).wts
def State.lineRts (s : State) (die line : Nat) : Nat :=
  if s.homeLine line = die then s.homeRts line else (s.annexLine die line).rts

def State.setLineRts (s : State) (die line r : Nat) : State :=
  if s.homeLine line = die then { s with rts := Bank.set 0 s.rts line r }
  else s.mapAnnex die line (fun a => { a with rts := r })

/-- The G port that serves a line (R325). -/
def portOf (line : Nat) : Nat :=
  let pa := line * 128
  (bits pa 7 1 + bits pa 15 1 + bits pa 23 1 + bits pa 31 1) % 2

/-- The number of an Annex's mirror stream towards a home die (R328). -/
def mirrorKey (die line home : Nat) : Nat := (die * 2 + portOf line) * 16 + home

/-- An acquire: later loads of the core go to the coherence point of their lines and see every store that precedes them
in MO (R264, Table 12.3). Frozen copies never change. -/
def Core.acquire (c : Core) : Core := { c with l1 := c.l1.filter (fun e => e.2.frozen) }

/-- An acquire by the current context. -/
def acquire : M Unit := modCore Core.acquire

/-- What a read of a line delivers: the data, its write timestamp and the end of its lease. -/
structure Fetched where
  data : BitVec 1024
  wts : Nat
  rts : Nat
  poison : BitVec 8
  deriving DecidableEq, Repr

/-- A lease granted to the current core at a coherence point with stamps `w` and `r` (R270). -/
def Core.leaseEnd (c : Core) (r : Nat) : Nat := Nat.max r (c.lts + c.lease.toNat)

/-- A lease of a line of the own scratchpad, with the line's lease end `r` and write timestamp `w` (R270, R392). -/
def Core.grantScratch (c : Core) (line r w : Nat) : Core :=
  { c with scratchRts := Bank.set 0 c.scratchRts line r, lts := Nat.max c.lts w }

/-- The die holds a Frozen replica of a line: in its Annex, or in the home slice while the frame is frozen and until its
replicas are collected (R341). -/
def State.replica (s : State) (die line : Nat) : Bool :=
  if s.homeLine line = die then decide (s.frame (line * 128) = .frozen) || decide (s.frame (line * 128) = .collecting)
  else decide ((s.annexLine die line).st = .f)

/-! ## Errors of tags and directories (R377) -/

/-- The home's data of a line is poisoned as a whole. -/
def State.poisonLine (s : State) (line : Nat) : State := { s with poison := setPoison s.poison line 255 255 8 }

/-- A Catalogue entry without a die that has lost its copy. -/
def State.forgetHolder (s : State) (die line : Nat) : State :=
  let e := s.catEntry line
  let e := { e with sharers := e.sharers &&& ~~~BitVec.twoPow 12 die, owner := if e.owner = die then 15 else e.owner }
  if e.owner = 15 ∧ e.sharers = 0 then s.setCat line { waiting := e.waiting, way := e.way }
  else s.setCat line { e with st := if e.owner = 15 then .sh else e.st }

/-- The Annex of a die loses a line: one in M, O or MP is first treated as poisoned data. -/
def State.loseAnnexLine (s : State) (die line : Nat) : State :=
  let a := s.annexLine die line
  let s := match a.st with
    | .m => s.poisonLine line
    | .o => s.poisonLine line
    | .mp _ => s.poisonLine line
    | _ => s
  let s := { s with rts := Bank.set 0 s.rts line (Nat.max (s.homeRts line) a.rts) }
  (s.setAnnex die line { asked := a.asked }).forgetHolder die line

/-- A look-up meets a double-bit error of a tag or directory entry (R377), which is logged. An entry that is being changed
by another request is looked up again when it has settled. -/
def State.meetTag (s : State) (e : TagError) : State :=
  if !s.tagErrors.contains e then s
  else
    let met (s : State) (unit addr : Nat) : State := ({ s with tagErrors := s.tagErrors.erase e }).logMachineEvent unit 1 addr
    match e with
    | .l1 n line => met (s.mapCore n (fun c => { c with l1 := Bank.erase c.l1 line })) n (line * 128)
    | .icache n line => met (s.mapCore n (fun c => { c with icache := Bank.erase c.icache line })) n (line * 128)
    | .annex die line =>
      if (s.catEntry line).busy.isSome || decide ((s.catEntry line).st = .rcl) || (s.annexLine die line).asked then s
      else met (s.loseAnnexLine die line) die (line * 128)
    | .catalogue line => if s.settled line then met ((s.recallAll line).poisonLine line) 12 (line * 128) else s
    | .vitrine i => met s 12 i

/-- A core's look-up of a device line in its L1, and its die's in the Annex. -/
def State.lookUp (s : State) (n line : Nat) : State :=
  if s.tagErrors = [] then s else (s.meetTag (.l1 n line)).meetTag (.annex (dieOf n) line)

/-- Look-ups of the Vitrine entries that `f` names (R377). -/
def State.vitrineLookUp (s : State) (f : Nat → Bool) : State :=
  s.tagErrors.foldl (fun s e => match e with
    | .vitrine i => if f i then s.meetTag e else s
    | _ => s) s

/-- A read of committed data by the current core (R222, R270, R326, R331, R341). A load of the own scratchpad, too, extends
the line's lease and takes its write timestamp. DESIGN CHOICE (log 90). -/
def leaseRead (l : LineId) : M Fetched := fun s =>
  match l with
  | .scratch n line =>
    if s.lockedBy l none then stall s
    else
      let s := s.meet (lineHolds l)
      let c := s.me
      let w := Bank.get 0 c.scratchWts line
      let r := c.leaseEnd (Bank.get 0 c.scratchRts line)
      .ok (⟨c.scratchLine line, w, r, BitVec.ofNat 8 (linePoison (s.core n).scratchPoison line 8)⟩,
        s.mapCore s.cur (fun c => c.grantScratch line r w))
  | .hbm line =>
    let s := s.lookUp s.cur line
    let c := s.me
    let die := dieOf s.cur
    let hit := match Bank.find c.l1 line with
      | some e => if e.frozen || decide (c.lts ≤ e.rts) then some e else none
      | none => none
    match hit with
    | some e => .ok (⟨e.data, e.wts, e.rts, e.poison⟩, s)
    | none =>
      if s.lockedBy l none then stall s
      else if s.combines die line then stall (s.emptyBuffer die line)
      else if !s.replica die line && (decide (s.frame (line * 128) = .frozen) || !s.readable die line) then
        stall (s.ask die line (.catalogueRd die line))
      else
        let s := s.meet (lineHolds l)
        let w := s.lineWts die line
        let d := s.lineData die line
        let p := s.pointPoison die line
        -- a Frozen replica is served without a lease (Table 19.2, R341)
        let r := if s.replica die line then s.lineRts die line else c.leaseEnd (s.lineRts die line)
        let s := (s.used die line).setLineRts die line r
        .ok (⟨d, w, r, p⟩, (s.install line ⟨d, w, r, s.replica die line, p⟩).mapCore s.cur (fun c => { c with lts := Nat.max c.lts w }))

/-- The current core may write the line at its coherence point, or the instruction waits or raises WRITE_FROZEN with
TVAL `ea` (R101, R222, R339, R342). -/
def ownLine (l : LineId) (ea : Word) : M Unit := fun s =>
  match l with
  | .scratch _ _ => if s.lockedBy l none then stall s else .ok ((), s)
  | .hbm line =>
    let s := s.lookUp s.cur line
    let die := dieOf s.cur
    match s.frame (line * 128) with
    | .frozen => .error (s.raise .writeFrozen ea false)
    | .sealing => stall s
    | .collecting => stall s
    | .plain =>
      if s.lockedBy l none then stall s
      else if s.combines die line then stall (s.emptyBuffer die line)
      else
        -- a replica left by a collection is dropped (R342)
        let s := if (s.annexLine die line).st = .f then s.setAnnex die line { asked := (s.annexLine die line).asked } else s
        if s.writable die line then .ok ((), s) else stall (s.ask die line (s.writeRequest die line))

/-- Poisoned granules after bytes with poison `new` are written over `old`: a granule wholly written takes its own, and one
written in part stays poisoned or becomes so (R380). -/
def poisonOver (old new : BitVec 8) (mask : BitVec 128) : BitVec 8 :=
  (old &&& ~~~BitVec.ofNat 8 (fullGranules mask.toNat 8)) ||| new

/-- Bytes of a line written at the die's coherence point with timestamp `w`, and the mirror write that carries them, with
their poison `p`, to another die's home (R328, R380). -/
def State.writeLine (s : State) (die line : Nat) (data : BitVec 1024) (mask : BitVec 128) (w : Nat) (p : BitVec 8) : State :=
  let h := s.homeLine line
  let s := s.used die line
  if h = die then
    { s with poison := setPoison s.poison line p.toNat (fullGranules mask.toNat 8 ||| p.toNat) 8
             hbm := writeMasked s.hbm (line * 128) 128 data.toNat mask.toNat
             wts := Bank.set 0 s.wts line w, rts := Bank.set 0 s.rts line (Nat.max (s.homeRts line) w) }
  else
    let a := s.annexLine die line
    let key := mirrorKey die line h
    let seq := Bank.get 0 s.mirrorSeq key
    let owned := match a.st with
      | .o => true
      | .mp b => b
      | _ => false
    let s := s.setAnnex die line { a with st := .mp owned, data := mergeLine a.data data mask, poison := poisonOver a.poison p mask, wts := w,
                                          rts := Nat.max a.rts w, pending := a.pending ++ [seq.toNat] }
    { s with mirrorSeq := Bank.set 0 s.mirrorSeq key (seq + 1) }.post
      (.mirrorWrite die line seq.toNat ⟨data, p⟩ mask w)

/-- A write of the current core at a line it owns: wts := max(lts, rts + 1), and lts := wts (R270). The core's own L1
copy follows. -/
def State.coreWrite (s : State) (l : LineId) (data : BitVec 1024) (mask : BitVec 128) : State :=
  match l with
  | .scratch _ line =>
    let s := s.mapCore s.cur (fun c => c.writeScratch line data mask c.lts 0)
    s.mapCore s.cur (fun c => { c with lts := Bank.get 0 c.scratchWts line })
  | .hbm line =>
    let die := dieOf s.cur
    let w := Nat.max s.me.lts (s.lineRts die line + 1)
    let s := s.writeLine die line data mask w 0
    s.mapCore s.cur (fun c =>
      { c with lts := w
               l1 := match Bank.find c.l1 line with
                 | some _ => Bank.put c.l1 line ⟨s.lineData die line, w, s.lineRts die line, false, s.pointPoison die line⟩
                 | none => c.l1 })

/-- The current data of a line at the current core's coherence point, after `ownLine`. -/
def State.ownedData (s : State) (l : LineId) : BitVec 1024 :=
  match l with
  | .scratch _ line => s.me.scratchLine line
  | .hbm line => s.lineData (dieOf s.cur) line

/-- Poisoned granules of a line as core `n` reads it (R380): of its L1 copy while that is in use, and of the coherence
point otherwise. -/
def State.committedPoison (s : State) (n : Nat) : LineId → BitVec 8
  | .scratch c line => BitVec.ofNat 8 (linePoison (s.core c).scratchPoison line 8)
  | .hbm line =>
    match Bank.find (s.core n).l1 line with
    | some e => if e.frozen || decide ((s.core n).lts ≤ e.rts) then e.poison else s.pointPoison (dieOf n) line
    | none => s.pointPoison (dieOf n) line

/-- A granule that `n` bytes from `off` of a line touch is poisoned at the current core's coherence point (R380). -/
def State.linePoisoned (s : State) (l : LineId) (off n : Nat) : Bool :=
  match l with
  | .scratch c line => poisoned (s.core c).scratchPoison (line * 128 + off) n
  | .hbm line => touchesPoison (s.pointPoison (dieOf s.cur) line) off n

end Sys2Proof.Machine
end

