-- ==== Sys2Proof/Machine/Chunk.lean ====
section
/-! DEFINITION. What a ring does with a chunk: squashes, commits and the wait for the Ensign (R187, R217–R226). -/

namespace Sys2Proof.Machine
open Sys2Proof

/-- The number of chunks C of a region (R205). -/
def Region.count (r : Region) : Nat := (r.total + r.frec.per - 1) / r.frec.per

/-- The core on which chunk `q` of ring `ring` runs (R205). -/
def Region.coreOf (r : Region) (ring q : Nat) : Nat := ring * 8 + q % r.frec.width

def Region.find (r : Region) (q : Nat) : Option Chunk := r.chunks.find? (fun c => c.q == q)

/-! ## Squash (R219) -/

/-- A running transfer of chunk `q`: a faulted one is no running copy. -/
def Transfer.runsFor (t : Transfer) (q : Nat) : Bool := t.chunk == some q && t.fault.isNone

/-- Running copies of chunk `q` on its core are cancelled; a cancelled identifier counts as complete (R175). -/
def Channel.cancelChunk (c : Channel) (q : Nat) : Channel :=
  let gone := c.transfers.filter (fun t => t.runsFor q)
  { c with transfers := c.transfers.filter (fun t => !t.runsFor q), completed := c.completed ++ gone.map (·.tid) }

/-- CPYDONE moves up over complete identifiers (R167). -/
def doneUp (completed : List Nat) : Nat → Nat → Nat
  | 0, d => d
  | n + 1, d => if completed.contains d then doneUp completed n (d + 1) else d

def Channel.settle (c : Channel) : Channel :=
  let d := doneUp c.completed c.completed.length c.doneId
  { c with doneId := d, completed := c.completed.filter (fun i => decide (d ≤ i)) }

/-- The channels of a core, each changed by `f`. -/
def Core.mapChans (c : Core) (f : Channel → Channel) : Core :=
  { c with chans := c.chans.map (fun e => (e.1, f e.2)) }

/-- A squashed chunk with its state discarded (R219). -/
def Chunk.discard (c : Chunk) : Chunk := { q := c.q, spec := c.spec, st := .squashed, stepFirst := c.stepFirst }

/-- Steps on their way that a squashed chunk `q` of ring `ring` has sent and that are void with it (R210, R219). -/
def voidWith (ring q : Nat) : Instr → Bool
  | .liveInArrival g t _ _ => g == ring && t == q + 1
  | .versionProbe g a _ => g == ring && a == q
  | .probeAnswer g a _ _ => g == ring && a == q
  | .storeBroadcast g o _ _ _ => g == ring && o == q
  | .broadcastAcknowledgement g _ o => g == ring && o == q
  | _ => false

/-! ## The Halyard (R207) -/

/-- What travels on the links of a ring: the ring, whether it goes east, and the chunks it goes from and to
(Table 10.1). A probe goes as far as the oldest chunk in flight, and the answer that nothing was found comes from there. -/
def Region.halyard (r : Region) : Instr → Option (Nat × Bool × Nat × Nat)
  | .liveInArrival g q _ _ => some (g, true, q - 1, q)
  | .storeBroadcast g o r _ _ => some (g, true, o, r)
  | .squashNotice g o q => some (g, true, o, q)
  | .probeAnswer g a _ (.version o _ _ _) => some (g, true, o, a)
  | .probeAnswer g a _ .none => some (g, true, r.oldest, a)
  | .ensignArrival g q _ => some (g, true, q - 1, q)
  | .versionProbe g a _ => some (g, false, a, r.oldest)
  | .broadcastAcknowledgement g a o => some (g, false, a, o)
  | _ => none

/-- Links that an item crosses: positions repeat after WIDTH chunks. -/
def Region.links (r : Region) (a b : Nat) : Nat := ((Nat.max a b - Nat.min a b) + r.frec.width - 1) % r.frec.width + 1

/-- Links from position `p` to position `p'`, eastward or westward, 0 where they are one. -/
def Region.apart (r : Region) (east : Bool) (p p' : Nat) : Nat :=
  let w := r.frec.width
  if east then (p' % w + w - p % w) % w else (p % w + w - p' % w) % w

/-- `i`, sent after `j`, crosses a link that `j` crosses, and `j` leaves the links there or before the place where `i` does:
`i` is delivered after it, since a link delivers in the order of entry (R207). That items from two positions enter a link
in the order in which they were sent is the model's choice. DESIGN CHOICE (log 96). -/
def Region.behind (r : Region) (i j : Instr) : Bool :=
  match r.halyard i, r.halyard j with
  | some (g, east, a, b), some (h, east', c, d) =>
    let fore := r.apart east c a
    let aft := r.apart east a c
    g == h && east == east' &&
      ((decide (fore < r.links c d) && decide (r.links c d ≤ r.links a b + fore))
        || decide (r.links c d + aft ≤ r.links a b))
  | _, _ => false

/-- An item of a ring's links is the next to be delivered of those it may not pass (R207). -/
def State.mayDeliver (s : State) (ring : Nat) (i : Instr) : Bool :=
  match (s.ring ring).region with
  | some r => !(s.flight.contains i && (s.flight.takeWhile (fun j => j != i)).any (r.behind i))
  | none => true

/-- Chunk `q` of ring `ring` discards its state (R219): the position is free, its copies are cancelled, and the values
it forwarded are void (R210). -/
def State.discardChunk (s : State) (ring q : Nat) : State :=
  match (s.ring ring).region with
  | none => s
  | some r =>
    match r.find q with
    | none => s
    | some c =>
      if c.st = .squashed then s
      else
        let n := r.coreOf ring q
        let s := s.mapCore n (fun k => k.mapChans (fun ch => (ch.cancelChunk q).settle))
        let s := if c.onCore then s.mapCore n (fun k => { k with main := { k.main.fresh with wait := none }, seq := none }) else s
        let s := { s with flight := s.flight.filter (fun i => !voidWith ring q i) }
        s.mapRegion ring (fun r => { r.mapChunk q Chunk.discard with forwarded := Bank.erase r.forwarded (q + 1) })

/-- Chunk `y` and every younger chunk are squashed: `y` discards at once, and a notice travels to each younger
chunk. -/
def State.squashFrom (s : State) (ring y : Nat) : State :=
  match (s.ring ring).region with
  | none => s
  | some r =>
    let younger := (r.chunks.filter (fun c => decide (y < c.q))).map (·.q)
    younger.foldl (fun s q => s.post (.squashNotice ring y q)) (s.discardChunk ring y)

/-- Every chunk younger than `q` is squashed (R226). -/
def State.squashYounger (s : State) (ring q : Nat) : State :=
  match (s.ring ring).region with
  | none => s
  | some r => if (r.find (q + 1)).isSome then s.squashFrom ring (q + 1) else s

/-! ## Commit (R221–R224, R340) -/

/-- How far a commit has come. -/
inductive Commit where
  /-- It waits; `moved` tells whether this attempt changed anything. -/
  | wait (s : State) (moved : Bool)
  | failed (s : State)
  | done (s : State) (ts : Nat)
  deriving Repr

/-- The order of lock addresses (R221). -/
def lineKey : LineId → Nat
  | .hbm l => l
  | .scratch c l => 2 ^ 40 + c * 4096 + l

/-- A list of versions in ascending address. -/
def insertVersion (v : Version) : List Version → List Version
  | [] => [v]
  | w :: t => if lineKey v.line ≤ lineKey w.line then v :: w :: t else w :: insertVersion v t

def sortVersions (l : List Version) : List Version := l.foldr insertVersion []

/-- Locks of ring `ring` released. -/
def State.unlock (s : State) (ring : Nat) : State := { s with locks := s.locks.filter (fun e => e.2 != ring) }

/-- Locks the write set of a chunk on a core of `die` in ascending order (R221, R222, R340). A line that an atomic of a
handler in progress has written is locked once the handler ends (R247). -/
def lockAll (ring die : Nat) : List Version → State → Bool → Commit
  | [], s, moved => .wait s moved
  | v :: t, s, moved =>
    if s.locks.contains (v.line, ring) then lockAll ring die t s moved
    else if s.lockedBy v.line (some ring) || s.pins.any (fun p => decide (p.1 = v.line)) then .wait s false
    else
      match v.line with
      | .scratch _ _ => lockAll ring die t { s with locks := s.locks ++ [(v.line, ring)] } true
      | .hbm line =>
        match s.frame (line * 128) with
        | .frozen => .failed s
        | .sealing => .failed s
        | .collecting => .wait s false
        | .plain =>
          let s := if s.tagErrors = [] then s else s.meetTag (.annex die line)
          if s.combines die line then .wait (s.emptyBuffer die line) false
          else if s.writable die line then lockAll ring die t { s with locks := s.locks ++ [(v.line, ring)] } true
          else .wait (s.ask die line (s.writeRequest die line)) (!(s.annexLine die line).asked)

/-- Every line of the write set is locked. -/
def allLocked (s : State) (ring : Nat) (vs : List Version) : Bool := vs.all (fun v => s.locks.contains (v.line, ring))

/-- Dies whose Annexes hold a copy of a line that its lease rules bind; a Frozen replica has no lease (R341). -/
def State.holders (s : State) (line : Nat) : List Nat :=
  (List.range 12).filter (fun d => !decide ((s.annexLine d line).st = .i) && !decide ((s.annexLine d line).st = .f))

/-- A line is served to a die as a Frozen replica: its stamps are those of the home, which no store changes (R216, R341). -/
def State.servedFrozen (s : State) (die line : Nat) : Bool :=
  decide (s.frame (line * 128) = .frozen) || decide ((s.annexLine die line).st = .f)

/-- Stamps of a line at the coherence point of core `n`; those of its newest copy where the die holds the line no more
(R221, R223). -/
def State.stampsFor (s : State) (n : Nat) : LineId → Nat × Nat
  | .scratch c l => (Bank.get 0 (s.core c).scratchWts l, Bank.get 0 (s.core c).scratchRts l)
  | .hbm l =>
    if s.servedFrozen (dieOf n) l then (s.homeWts l, s.homeRts l)
    else if s.readable (dieOf n) l then (s.lineWts (dieOf n) l, s.lineRts (dieOf n) l)
    else ((s.holders l).foldl (fun m d => Nat.max m (s.annexLine d l).wts) (s.homeWts l), s.maxRts l)

/-- rts of a line raised to at least `ts` at its home. -/
def State.raiseHome (s : State) (line ts : Nat) : State := { s with rts := Bank.set 0 s.rts line (Nat.max (s.homeRts line) ts) }

/-- rts of a line raised to at least `ts` where core `n` reads it: at its die's coherence point; at its home for a Frozen
replica, which reports no rts when it is dropped (R327); and at every copy where the die holds the line no more, so that
the next store to it, wherever made, takes a later time. -/
def State.raiseRts (s : State) (n ts : Nat) : LineId → State
  | .scratch c l => s.mapCore c (fun k => { k with scratchRts := Bank.set 0 k.scratchRts l (Nat.max (Bank.get 0 k.scratchRts l) ts) })
  | .hbm l =>
    if s.servedFrozen (dieOf n) l then s.raiseHome l ts
    else if s.readable (dieOf n) l then s.setLineRts (dieOf n) l (Nat.max (s.lineRts (dieOf n) l) ts)
    else (s.holders l).foldl (fun s d => s.mapAnnex d l (fun a => { a with rts := Nat.max a.rts ts })) (s.raiseHome l ts)

/-- Validates the read records with a committed source of chunk `q` on core `n` (R221, R223). It waits for nothing: a line
that another commit has locked and not yet written still has its write timestamp (R222, R235, log 97). -/
def validate (ring q n ts : Nat) : List ReadRec → State → Commit
  | [], s => .done s ts
  | r :: t, s =>
    match r.src with
    | .chunk _ _ => validate ring q n ts t s
    | .committed w lease =>
      if ts ≤ lease then validate ring q n ts t s
      else if (s.stampsFor n r.line).1 = w then validate ring q n ts t (s.raiseRts n ts r.line)
      else .failed s

/-- Writes a version at its line's coherence point with timestamp `ts` (R221). -/
def writeVersion (n ts : Nat) (s : State) (v : Version) : State :=
  match v.line with
  | .scratch c l => s.mapCore c (fun k => k.putScratch l v.data v.mask ts v.poison)
  | .hbm l =>
    let die := dieOf n
    let s := s.writeLine die l v.data v.mask ts (v.poison &&& BitVec.ofNat 8 (partGranules v.mask.toNat 8))
    s.mapCore n (fun k => { k with l1 := match Bank.find k.l1 l with
      | some _ => Bank.put k.l1 l ⟨s.lineData die l, ts, s.lineRts die l, false, s.pointPoison die l⟩
      | none => k.l1 })

/-- The device lines of a write set whose home is on another die. -/
def remoteLines (s : State) (n : Nat) (vs : List Version) : List Nat :=
  vs.filterMap (fun v => match v.line with
    | .hbm l => if s.homeLine l = dieOf n then none else some l
    | .scratch _ _ => none)

/-- One attempt to move the commit of chunk `q` forward; `done` when every mirror is acknowledged (R221). Once the write set
is locked, the timestamp is taken, the records are validated and the lines are written in one step. -/
def commitTry (s : State) (ring q : Nat) : Commit :=
  match (s.ring ring).region with
  | none => .wait s false
  | some r =>
    match r.find q with
    | none => .wait s false
    | some c =>
      let n := r.coreOf ring q
      let die := dieOf n
      match c.commitTs with
      | some ts =>
        if c.mirrors.all (fun l => (s.annexLine die l).pending.isEmpty) then .done s ts else .wait s false
      | none =>
        if !c.owed.isEmpty then .wait s false
        else
          let vs := sortVersions c.versions
          match lockAll ring die vs s false with
          | .failed s => .failed (s.unlock ring)
          | .done s ts => .done s ts
          | .wait s moved =>
            if !allLocked s ring vs then .wait s moved
            else
              let ts := vs.foldl (fun m v => Nat.max m ((s.stampsFor n v.line).2 + 1)) (Nat.max (r.e + 1) (s.core n).lts)
              match validate ring q n ts c.reads s with
              | .wait s m => .wait s (m || moved)
              | .failed s => .failed (s.unlock ring)
              | .done s _ =>
                let remote := remoteLines s n vs
                let s := vs.foldl (writeVersion n ts) s
                let s := s.mapChunk ring q (fun c => { c with commitTs := some ts, mirrors := remote })
                if remote.isEmpty then .done s ts else .wait s true

/-- A commit that has failed validation (R223, R234, R340): the chunk and every younger one are squashed, and the chunk
restarts with the step of R187 done. -/
def State.failCommit (s : State) (ring q : Nat) : State :=
  (s.mapChunk ring q (fun c => { c with stepFirst := true })).squashFrom ring q

/-- What a complete commit leaves (R206, R221): locks released, versions and records discarded, and the commit's timestamp
as the core's logical time. -/
def State.closeCommit (s : State) (ring q ts : Nat) : State :=
  match (s.ring ring).region with
  | none => s
  | some r =>
    let s := (s.unlock ring).mapCore (r.coreOf ring q) (fun k => { k with lts := ts })
    s.mapChunk ring q (fun c =>
      { c with versions := [], reads := [], ranges := [], commitTs := none, mirrors := [] })

/-! ## Waiting for the Ensign (R187, R225) -/

/-- Copies that chunk `q` started at once and that still run (R175); a faulted one runs no more. -/
def copiesOf (c : Core) (q : Nat) : Bool :=
  c.chans.any (fun e => e.2.transfers.any (fun t => t.chunk == some q && t.fault.isNone))

/-- The step of R187 is complete: the chunk goes on without speculation. E stays the Ensign's time until the chunk passes it
on; later commits take larger timestamps. -/
def State.closeStep (s : State) (ring q ts : Nat) : State :=
  (s.closeCommit ring q ts).mapRegion ring (fun r =>
    { r.mapChunk q (fun c => { c with spec := false, st := .running }) with e := Nat.max r.e ts })

/-- The operation waits until its chunk holds the Ensign and performs the step of R187; an agent that is no
speculative chunk goes on at once. -/
def awaitEnsign : M Unit := fun s =>
  match s.chunk with
  | none => .ok ((), s)
  | some c =>
    if !c.spec then .ok ((), s)
    else if !s.ensign then stall (s.mapMyChunk (fun c => { c with st := .waitingEnsign }))
    else if copiesOf s.me c.q then stall s
    else
      let ring := ringOf s.cur
      match commitTry s ring c.q with
      | .wait s _ => stall s
      | .failed s => .error (s.failCommit ring c.q)
      | .done s ts => .ok ((), s.closeStep ring c.q ts)

/-- A squash notice of a ring is on its way. -/
def noticeOf (ring : Nat) : Instr → Bool
  | .squashNotice g _ _ => g == ring
  | _ => false

/-- Every squashed position of a ring has discarded its state. -/
def State.allDiscarded (s : State) (ring : Nat) : Bool := !s.flight.any (noticeOf ring)

/-- Every chunk of the region on ring `ring` that is younger than `q` has discarded its state (R219, R368). -/
def State.youngerGone (s : State) (ring q : Nat) : Bool :=
  match (s.ring ring).region with
  | none => true
  | some r => s.allDiscarded ring
      && r.chunks.all (fun c => decide (c.q ≤ q) || decide (c.st = .squashed) || decide (c.st = .placed))

/-- A held cause of the chunk traps once the chunk holds the Ensign, after the step of R187; younger chunks have been
squashed by then, or are stopped in an assured region, and start again after the `eret` (R226, R230, R368). -/
def heldTrap (h : HeldCause) : M Unit := do
  let s ← getState
  if !s.ensign then stall
  awaitEnsign
  let s ← getState
  match s.chunk with
  | none => pure ()
  | some c =>
    let ring := ringOf s.cur
    let stopped := (s.region.map (·.youngerStopped)).getD false
    let s := if s.assured || stopped then s else s.squashYounger ring c.q
    let s := s.mapRegion ring (fun r => { r with youngerStopped := true })
    if !s.assured && !s.youngerGone ring c.q then
      endIn (s.mapCtx (fun k => { k with issued := true }))
    else
      endIn ((s.mapChunk ring c.q (fun c => { c with held := none, st := .running })).trapNow h.cause h.tval h.elem true)

end Sys2Proof.Machine
end

