-- ==== Sys2Proof/Machine/Iter.lean ====
section
/-! DEFINITION. The iterations of a fork region: level counts, the three orders, index values, and the address
intervals of a chunk's range entries (R179, R229). -/

namespace Sys2Proof.Machine
open Sys2Proof

/-- count(l) := max(0, ⌈(HI − LO) / STEP⌉) (R179). -/
def Level.count (l : Level) : Nat := (-((l.lo - l.hi).fdiv l.stp)).toNat

/-- T: the product of the counts. -/
def totalOf (ls : List Level) : Nat := ls.foldl (fun n l => n * l.count) 1

/-- The digits of `t` in mixed radix, the last of the counts least significant. -/
def digitsOf (t : Nat) : List Nat → List Nat
  | [] => []
  | _ :: rest =>
    let below := rest.foldl (· * ·) 1
    t / below :: digitsOf (t % below) rest

/-- Serpentine: a digit is reversed when the outer digits, after their own reversal, sum to an odd number. -/
def serpent : Nat → List Nat → List Nat → List Nat
  | _, [], _ => []
  | _, _, [] => []
  | sum, d :: ds, c :: cs =>
    let d' := if sum % 2 = 1 then c - 1 - d else d
    d' :: serpent (sum + d') ds cs

/-- The digits of iteration `t` (R179): order 0 row-major, 1 column-major, 2 serpentine. -/
def ForkRec.digits (r : ForkRec) (t : Nat) : List Nat :=
  let cs := r.levels.map Level.count
  match r.order with
  | 0 => digitsOf t cs
  | 1 => (digitsOf t cs.reverse).reverse
  | _ => serpent 0 (digitsOf t cs) cs

/-- The index values of iteration `t`, level 0 first. -/
def ForkRec.index (r : ForkRec) (t : Nat) : List Int :=
  (r.levels.zip (r.digits t)).map (fun p => p.1.lo + p.2 * p.1.stp)

/-- The first iteration of chunk `q`, and how many it holds (R179). -/
def chunkFirst (per q : Nat) : Nat := q * per
def chunkLen (total per q : Nat) : Nat := Nat.min ((q + 1) * per) total - q * per

/-- Where one iteration starts to touch a range (R229), exactly, with the base read as unsigned. -/
def Range.start (g : Range) (ix : List Int) : Int :=
  g.base % 2 ^ 64 + 2 ^ g.sh * (g.coef.zip ix).foldl (fun n p => n + p.1 * p.2) 0

/-- The rounded interval of a range entry over the iterations of chunk `q` (R229): its start down to a multiple of
256 and its end up to one. -/
def ForkRec.interval (r : ForkRec) (total q : Nat) (g : Range) : Int × Int :=
  let its := (List.range (chunkLen total r.per q)).map (fun i => g.start (r.index (chunkFirst r.per q + i)))
  let len : Int := g.len * 2 ^ g.sh
  let a0 := g.start (r.index (chunkFirst r.per q))
  let lo := its.foldl (fun m a => if a < m then a else m) a0
  let hi := its.foldl (fun m a => if m < a then a else m) a0 + len
  (lo / 256 * 256, (hi + 255) / 256 * 256)

/-- Two rounded intervals overlap. -/
def overlaps (a b : Int × Int) : Bool := decide (a.1 < b.2) && decide (b.1 < a.2)

/-- Chunk `q` conflicts with the older chunk `p` (R229). -/
def ForkRec.conflict (r : ForkRec) (total q p : Nat) : Bool :=
  let iv (k : Nat) (gs : List Range) := gs.map (r.interval total k)
  (iv q r.writes).any (fun a => (iv p (r.reads ++ r.writes)).any (overlaps a))
    || (iv q r.reads).any (fun a => (iv p r.writes).any (overlaps a))

/-- Every 256-byte block that the bytes [a, a + n) touch lies in a rounded write range of chunk `q` (R181, R229). -/
def ForkRec.mayWrite (r : ForkRec) (total q a n : Nat) : Bool :=
  let ivs := r.writes.map (r.interval total q)
  (List.range ((a + n + 255) / 256 - a / 256)).all (fun k =>
    let b : Int := (a / 256 + k) * 256
    ivs.any (fun i => decide (i.1 ≤ b) && decide (b + 256 ≤ i.2)))

end Sys2Proof.Machine
end

