-- ==== Sys2Proof/Machine/Scalar.lean ====
section
/-! DEFINITION. Scalar integer instructions: register operations, shifts, bit fields, immediates, condition bits and
select (R76–R85), with their compact forms (R63). -/

namespace Sys2Proof.Machine
open Sys2Proof

/-! ## The operations (Tables 5.2 and 5.3), at any width -/

/-- The shift amount m: b[5:0] at width 64, b[4:0] at width 32 (R78). -/
def shiftAmount {w : Nat} (b : BitVec w) : Nat := b.toNat % w

def iAdd (w : Nat) (a b : BitVec w) : BitVec w := a + b
def iSub (w : Nat) (a b : BitVec w) : BitVec w := a - b
def iAnd (w : Nat) (a b : BitVec w) : BitVec w := a &&& b
def iOr (w : Nat) (a b : BitVec w) : BitVec w := a ||| b
def iXor (w : Nat) (a b : BitVec w) : BitVec w := a ^^^ b
def iAndn (w : Nat) (a b : BitVec w) : BitVec w := a &&& ~~~b
def iSll (w : Nat) (a b : BitVec w) : BitVec w := a <<< shiftAmount b
def iSrl (w : Nat) (a b : BitVec w) : BitVec w := a >>> shiftAmount b
def iSra (w : Nat) (a b : BitVec w) : BitVec w := a.sshiftRight (shiftAmount b)
def iRol (w : Nat) (a b : BitVec w) : BitVec w := a.rotateLeft (shiftAmount b)
def iRor (w : Nat) (a b : BitVec w) : BitVec w := a.rotateRight (shiftAmount b)
def iMin (w : Nat) (a b : BitVec w) : BitVec w := if a.toInt ≤ b.toInt then a else b
def iMax (w : Nat) (a b : BitVec w) : BitVec w := if a.toInt ≤ b.toInt then b else a
def iMinu (w : Nat) (a b : BitVec w) : BitVec w := if a.toNat ≤ b.toNat then a else b
def iMaxu (w : Nat) (a b : BitVec w) : BitVec w := if a.toNat ≤ b.toNat then b else a
def iMul (w : Nat) (a b : BitVec w) : BitVec w := a * b
/-- Bits [2w − 1 : w] of an exact product. -/
def highHalf (w : Nat) (p : Int) : BitVec w := BitVec.ofInt w (p / 2 ^ w)
def iMulh (w : Nat) (a b : BitVec w) : BitVec w := highHalf w (a.toInt * b.toInt)
def iMulhu (w : Nat) (a b : BitVec w) : BitVec w := highHalf w ((a.toNat : Int) * b.toNat)
def iMulhsu (w : Nat) (a b : BitVec w) : BitVec w := highHalf w (a.toInt * b.toNat)
/-- Truncating quotient; −1 for a zero divisor (R79). -/
def iDiv (w : Nat) (a b : BitVec w) : BitVec w := if b = 0 then -1 else BitVec.ofInt w (a.toInt.tdiv b.toInt)
def iDivu (w : Nat) (a b : BitVec w) : BitVec w := if b = 0 then -1 else a / b
/-- Remainder with the dividend's sign; the dividend for a zero divisor (R79). -/
def iRem (w : Nat) (a b : BitVec w) : BitVec w := if b = 0 then a else BitVec.ofInt w (a.toInt.tmod b.toInt)
def iRemu (w : Nat) (a b : BitVec w) : BitVec w := if b = 0 then a else a % b
/-- Leading zero bits; w for 0. -/
def iClz (w : Nat) (a : BitVec w) : BitVec w :=
  BitVec.ofNat w (if a.toNat = 0 then w else w - 1 - a.toNat.log2)
/-- Trailing zero bits among the first `n`. -/
def trailing : Nat → Nat → Nat
  | 0, _ => 0
  | n + 1, x => if x % 2 = 1 then 0 else 1 + trailing n (x / 2)
def iCtz (w : Nat) (a : BitVec w) : BitVec w := BitVec.ofNat w (trailing w a.toNat)
/-- One bits among the first `n`. -/
def ones : Nat → Nat → Nat
  | 0, _ => 0
  | n + 1, x => x % 2 + ones n (x / 2)
def iPopc (w : Nat) (a : BitVec w) : BitVec w := BitVec.ofNat w (ones w a.toNat)
/-- `n` bytes in reverse order. -/
def revBytes : Nat → Nat → Nat
  | 0, _ => 0
  | n + 1, x => x % 256 * 256 ^ n + revBytes n (x / 256)
def iRev8 (w : Nat) (a : BitVec w) : BitVec w := BitVec.ofNat w (revBytes (w / 8) a.toNat)

/-- A result at the width that `w` selects: 32 bits and sign-extended for a `.w` form (R76). -/
def atWidth (w : Bool) (f : (n : Nat) → BitVec n → BitVec n → BitVec n) (a b : Word) : Word :=
  if w then sextWord (f 32 (lowWord a) (lowWord b)) else f 64 a b

/-- The same for one source. -/
def atWidth1 (w : Bool) (f : (n : Nat) → BitVec n → BitVec n) (a : Word) : Word :=
  if w then sextWord (f 32 (lowWord a)) else f 64 a

/-- X(rd) := f X(rs1) X(rs2) (R76). -/
def binary (f : Word → Word → Word) (rd rs1 rs2 : SReg) (s : State) : Host.Outcome State Fault Refusal :=
  s.plain 4 (fun c => c.setX rd (f (c.x rs1) (c.x rs2)))

/-- X(rd) := f X(rs1) (R76), of an instruction of `len` bytes. -/
def unary (len : Word) (f : Word → Word) (rd rs1 : SReg) (s : State) : Host.Outcome State Fault Refusal :=
  s.plain len (fun c => c.setX rd (f (c.x rs1)))

/-! ## ALU, MUL and BIT (R78, R79) -/

/-- add (Table 5.2). -/
def execAdd (w : Bool) (rd rs1 rs2 : SReg) (s : State) : Host.Outcome State Fault Refusal :=
  binary (atWidth w iAdd) rd rs1 rs2 s

/-- sub (Table 5.2). -/
def execSub (w : Bool) (rd rs1 rs2 : SReg) (s : State) : Host.Outcome State Fault Refusal :=
  binary (atWidth w iSub) rd rs1 rs2 s

/-- and (Table 5.2). -/
def execAnd (w : Bool) (rd rs1 rs2 : SReg) (s : State) : Host.Outcome State Fault Refusal :=
  binary (atWidth w iAnd) rd rs1 rs2 s

/-- or (Table 5.2). -/
def execOr (w : Bool) (rd rs1 rs2 : SReg) (s : State) : Host.Outcome State Fault Refusal :=
  binary (atWidth w iOr) rd rs1 rs2 s

/-- xor (Table 5.2). -/
def execXor (w : Bool) (rd rs1 rs2 : SReg) (s : State) : Host.Outcome State Fault Refusal :=
  binary (atWidth w iXor) rd rs1 rs2 s

/-- andn (Table 5.2). -/
def execAndn (w : Bool) (rd rs1 rs2 : SReg) (s : State) : Host.Outcome State Fault Refusal :=
  binary (atWidth w iAndn) rd rs1 rs2 s

/-- sll (Table 5.2). -/
def execSll (w : Bool) (rd rs1 rs2 : SReg) (s : State) : Host.Outcome State Fault Refusal :=
  binary (atWidth w iSll) rd rs1 rs2 s

/-- srl (Table 5.2). -/
def execSrl (w : Bool) (rd rs1 rs2 : SReg) (s : State) : Host.Outcome State Fault Refusal :=
  binary (atWidth w iSrl) rd rs1 rs2 s

/-- sra (Table 5.2). -/
def execSra (w : Bool) (rd rs1 rs2 : SReg) (s : State) : Host.Outcome State Fault Refusal :=
  binary (atWidth w iSra) rd rs1 rs2 s

/-- rol (Table 5.2). -/
def execRol (w : Bool) (rd rs1 rs2 : SReg) (s : State) : Host.Outcome State Fault Refusal :=
  binary (atWidth w iRol) rd rs1 rs2 s

/-- min (Table 5.2). -/
def execMin (w : Bool) (rd rs1 rs2 : SReg) (s : State) : Host.Outcome State Fault Refusal :=
  binary (atWidth w iMin) rd rs1 rs2 s

/-- max (Table 5.2). -/
def execMax (w : Bool) (rd rs1 rs2 : SReg) (s : State) : Host.Outcome State Fault Refusal :=
  binary (atWidth w iMax) rd rs1 rs2 s

/-- minu (Table 5.2). -/
def execMinu (w : Bool) (rd rs1 rs2 : SReg) (s : State) : Host.Outcome State Fault Refusal :=
  binary (atWidth w iMinu) rd rs1 rs2 s

/-- maxu (Table 5.2). -/
def execMaxu (w : Bool) (rd rs1 rs2 : SReg) (s : State) : Host.Outcome State Fault Refusal :=
  binary (atWidth w iMaxu) rd rs1 rs2 s

/-- mul (Table 5.2). -/
def execMul (w : Bool) (rd rs1 rs2 : SReg) (s : State) : Host.Outcome State Fault Refusal :=
  binary (atWidth w iMul) rd rs1 rs2 s

/-- mulh (Table 5.2). -/
def execMulh (w : Bool) (rd rs1 rs2 : SReg) (s : State) : Host.Outcome State Fault Refusal :=
  binary (atWidth w iMulh) rd rs1 rs2 s

/-- mulhu (Table 5.2). -/
def execMulhu (w : Bool) (rd rs1 rs2 : SReg) (s : State) : Host.Outcome State Fault Refusal :=
  binary (atWidth w iMulhu) rd rs1 rs2 s

/-- mulhsu (Table 5.2). -/
def execMulhsu (w : Bool) (rd rs1 rs2 : SReg) (s : State) : Host.Outcome State Fault Refusal :=
  binary (atWidth w iMulhsu) rd rs1 rs2 s

/-- div (Table 5.2). -/
def execDiv (w : Bool) (rd rs1 rs2 : SReg) (s : State) : Host.Outcome State Fault Refusal :=
  binary (atWidth w iDiv) rd rs1 rs2 s

/-- divu (Table 5.2). -/
def execDivu (w : Bool) (rd rs1 rs2 : SReg) (s : State) : Host.Outcome State Fault Refusal :=
  binary (atWidth w iDivu) rd rs1 rs2 s

/-- rem (Table 5.2). -/
def execRem (w : Bool) (rd rs1 rs2 : SReg) (s : State) : Host.Outcome State Fault Refusal :=
  binary (atWidth w iRem) rd rs1 rs2 s

/-- remu (Table 5.2). -/
def execRemu (w : Bool) (rd rs1 rs2 : SReg) (s : State) : Host.Outcome State Fault Refusal :=
  binary (atWidth w iRemu) rd rs1 rs2 s

/-- clz (Table 5.2). -/
def execClz (w : Bool) (rd rs1 : SReg) (s : State) : Host.Outcome State Fault Refusal :=
  unary 4 (atWidth1 w iClz) rd rs1 s

/-- ctz (Table 5.2). -/
def execCtz (w : Bool) (rd rs1 : SReg) (s : State) : Host.Outcome State Fault Refusal :=
  unary 4 (atWidth1 w iCtz) rd rs1 s

/-- popc (Table 5.2). -/
def execPopc (w : Bool) (rd rs1 : SReg) (s : State) : Host.Outcome State Fault Refusal :=
  unary 4 (atWidth1 w iPopc) rd rs1 s

/-- rev8 (Table 5.2). -/
def execRev8 (w : Bool) (rd rs1 : SReg) (s : State) : Host.Outcome State Fault Refusal :=
  unary 4 (atWidth1 w iRev8) rd rs1 s

/-! ## Shifts by immediate (R80) -/

/-- slli (R80). -/
def execSlli (w : Bool) (rd rs1 : SReg) (n : BitVec 6) (s : State) : Host.Outcome State Fault Refusal :=
  unary 4 (fun a => atWidth w iSll a (n.setWidth 64)) rd rs1 s

/-- srli (R80). -/
def execSrli (w : Bool) (rd rs1 : SReg) (n : BitVec 6) (s : State) : Host.Outcome State Fault Refusal :=
  unary 4 (fun a => atWidth w iSrl a (n.setWidth 64)) rd rs1 s

/-- srai (R80). -/
def execSrai (w : Bool) (rd rs1 : SReg) (n : BitVec 6) (s : State) : Host.Outcome State Fault Refusal :=
  unary 4 (fun a => atWidth w iSra a (n.setWidth 64)) rd rs1 s

/-- rori (R80). -/
def execRori (w : Bool) (rd rs1 : SReg) (n : BitVec 6) (s : State) : Host.Outcome State Fault Refusal :=
  unary 4 (fun a => atWidth w iRor a (n.setWidth 64)) rd rs1 s

/-! ## Bit fields (R81): `len` holds len − 1 -/

/-- f := X(rs1)[pos + len − 1 : pos]. -/
def field (a : Word) (pos len : BitVec 6) : Nat := bits a.toNat pos.toNat (len.toNat + 1)

/-- bfxu (R81). -/
def execBfxu (rd rs1 : SReg) (pos len : BitVec 6) (s : State) : Host.Outcome State Fault Refusal :=
  unary 4 (fun a => BitVec.ofNat 64 (field a pos len)) rd rs1 s

/-- bfxs (R81). -/
def execBfxs (rd rs1 : SReg) (pos len : BitVec 6) (s : State) : Host.Outcome State Fault Refusal :=
  unary 4 (fun a => BitVec.ofInt 64 (toInt (len.toNat + 1) (field a pos len))) rd rs1 s

/-- X(rd)[pos + len − 1 : pos] := X(rs1)[len − 1 : 0] (R81). -/
def insertField (d a : Word) (pos len : BitVec 6) : Word :=
  let m : Word := BitVec.ofNat 64 (maskBits pos.toNat (len.toNat + 1))
  (d &&& ~~~m) ||| ((a <<< pos.toNat) &&& m)

/-- bfi (R81). -/
def execBfi (rd rs1 : SReg) (pos len : BitVec 6) (s : State) : Host.Outcome State Fault Refusal :=
  s.plain 4 (fun c => c.setX rd (insertField (c.x rd) (c.x rs1) pos len))

/-! ## Immediates and addresses (R82, R83) -/

/-- addi (R82). -/
def execAddi (rd rs1 : SReg) (imm : BitVec 12) (s : State) : Host.Outcome State Fault Refusal :=
  unary 4 (fun a => iAdd 64 a (simm imm)) rd rs1 s

/-- andi (R82). -/
def execAndi (rd rs1 : SReg) (imm : BitVec 12) (s : State) : Host.Outcome State Fault Refusal :=
  unary 4 (fun a => iAnd 64 a (simm imm)) rd rs1 s

/-- ori (R82). -/
def execOri (rd rs1 : SReg) (imm : BitVec 12) (s : State) : Host.Outcome State Fault Refusal :=
  unary 4 (fun a => iOr 64 a (simm imm)) rd rs1 s

/-- xori (R82). -/
def execXori (rd rs1 : SReg) (imm : BitVec 12) (s : State) : Host.Outcome State Fault Refusal :=
  unary 4 (fun a => iXor 64 a (simm imm)) rd rs1 s

/-- li (R83). -/
def execLi (rd : SReg) (imm : BitVec 18) (s : State) : Host.Outcome State Fault Refusal :=
  s.plain 4 (fun c => c.setX rd (simm imm))

/-- lih (R83). -/
def execLih (rd : SReg) (imm : BitVec 18) (s : State) : Host.Outcome State Fault Refusal :=
  s.plain 4 (fun c => c.setX rd ((c.x rd <<< 18) ||| imm.setWidth 64))

/-- lea.pc (R83). -/
def execLeaPc (rd : SReg) (imm : BitVec 18) (s : State) : Host.Outcome State Fault Refusal :=
  s.plain 4 (fun c => c.setX rd (c.pc + simm imm))

/-- lea (R83). -/
def execLea (q : BitVec 2) (rd rs1 rs2 : SReg) (s : State) : Host.Outcome State Fault Refusal :=
  binary (fun a b => a + (b <<< q.toNat)) rd rs1 rs2 s

/-! ## Condition bits and select (R84, R85) -/

/-- kd := f X(rs1) X(rs2), of the 64-bit registers or of bits [31:0] sign-extended (`signed`) or zero-extended. -/
def compareK (w signed : Bool) (f : Word → Word → Bool) (kd : KReg) (rs1 rs2 : SReg) (s : State) :
    Host.Outcome State Fault Refusal :=
  s.plain 4 (fun c =>
    let v (r : SReg) : Word := if w then (if signed then sextWord (lowWord (c.x r)) else (lowWord (c.x r)).setWidth 64) else c.x r
    c.setK kd (f (v rs1) (v rs2)))

/-- keq (Table 5.6). -/
def execKeq (w : Bool) (kd : KReg) (rs1 rs2 : SReg) (s : State) : Host.Outcome State Fault Refusal :=
  compareK w false (fun a b => a == b) kd rs1 rs2 s

/-- kne (Table 5.6). -/
def execKne (w : Bool) (kd : KReg) (rs1 rs2 : SReg) (s : State) : Host.Outcome State Fault Refusal :=
  compareK w false (fun a b => a != b) kd rs1 rs2 s

/-- klt (Table 5.6). -/
def execKlt (w : Bool) (kd : KReg) (rs1 rs2 : SReg) (s : State) : Host.Outcome State Fault Refusal :=
  compareK w true (fun a b => decide (a.toInt < b.toInt)) kd rs1 rs2 s

/-- kge (Table 5.6). -/
def execKge (w : Bool) (kd : KReg) (rs1 rs2 : SReg) (s : State) : Host.Outcome State Fault Refusal :=
  compareK w true (fun a b => decide (b.toInt ≤ a.toInt)) kd rs1 rs2 s

/-- kltu (Table 5.6). -/
def execKltu (w : Bool) (kd : KReg) (rs1 rs2 : SReg) (s : State) : Host.Outcome State Fault Refusal :=
  compareK w false (fun a b => decide (a.toNat < b.toNat)) kd rs1 rs2 s

/-- kgeu (Table 5.6). -/
def execKgeu (w : Bool) (kd : KReg) (rs1 rs2 : SReg) (s : State) : Host.Outcome State Fault Refusal :=
  compareK w false (fun a b => decide (b.toNat ≤ a.toNat)) kd rs1 rs2 s

/-- kand (Table 5.6). -/
def execKand (kd ka kb : KReg) (s : State) : Host.Outcome State Fault Refusal :=
  s.plain 4 (fun c => c.setK kd (c.kb ka && c.kb kb))

/-- kor (Table 5.6). -/
def execKor (kd ka kb : KReg) (s : State) : Host.Outcome State Fault Refusal :=
  s.plain 4 (fun c => c.setK kd (c.kb ka || c.kb kb))

/-- kxor (Table 5.6). -/
def execKxor (kd ka kb : KReg) (s : State) : Host.Outcome State Fault Refusal :=
  s.plain 4 (fun c => c.setK kd (c.kb ka ^^ c.kb kb))

/-- kset (Table 5.6). -/
def execKset (kd : KReg) (rs1 : SReg) (s : State) : Host.Outcome State Fault Refusal :=
  s.plain 4 (fun c => c.setK kd (decide (c.x rs1 ≠ 0)))

/-- sel (R85). -/
def execSel (rd : SReg) (k : KReg) (rs1 rs2 : SReg) (s : State) : Host.Outcome State Fault Refusal :=
  s.plain 4 (fun c => c.setX rd (if c.kb k then c.x rs1 else c.x rs2))

/-! ## Compact forms (R63) -/

/-- c.addi (Table 3.15). -/
def execCAddi (rd : SReg) (x : BitVec 4) (s : State) : Host.Outcome State Fault Refusal :=
  unary 2 (fun a => iAdd 64 a (simm x)) rd rd s

/-- c.li (Table 3.15). -/
def execCLi (rd : SReg) (x : BitVec 4) (s : State) : Host.Outcome State Fault Refusal :=
  unary 2 (fun _ => simm x) rd rd s

/-- c.slli (Table 3.15). -/
def execCSlli (rd : SReg) (x : BitVec 4) (s : State) : Host.Outcome State Fault Refusal :=
  unary 2 (fun a => iSll 64 a (x.setWidth 64)) rd rd s

/-- c.srli (Table 3.15). -/
def execCSrli (rd : SReg) (x : BitVec 4) (s : State) : Host.Outcome State Fault Refusal :=
  unary 2 (fun a => iSrl 64 a (x.setWidth 64)) rd rd s

/-- c.srai (Table 3.15). -/
def execCSrai (rd : SReg) (x : BitVec 4) (s : State) : Host.Outcome State Fault Refusal :=
  unary 2 (fun a => iSra 64 a (x.setWidth 64)) rd rd s

/-- c.andi (Table 3.15). -/
def execCAndi (rd : SReg) (x : BitVec 4) (s : State) : Host.Outcome State Fault Refusal :=
  unary 2 (fun a => iAnd 64 a (simm x)) rd rd s

/-- c.mv (Table 3.15). -/
def execCMv (rd rs : SReg) (s : State) : Host.Outcome State Fault Refusal :=
  s.plain 2 (fun c => c.setX rd (c.x rs))

/-- c.add (Table 3.15). -/
def execCAdd (rd rs : SReg) (s : State) : Host.Outcome State Fault Refusal :=
  s.plain 2 (fun c => c.setX rd (c.x rd + c.x rs))

/-- c.sub (Table 3.15). -/
def execCSub (rd rs : SReg) (s : State) : Host.Outcome State Fault Refusal :=
  s.plain 2 (fun c => c.setX rd (c.x rd - c.x rs))

/-- c.and (Table 3.15). -/
def execCAnd (rd rs : SReg) (s : State) : Host.Outcome State Fault Refusal :=
  s.plain 2 (fun c => c.setX rd (c.x rd &&& c.x rs))

/-- c.nop (R64). -/
def execCNop (s : State) : Host.Outcome State Fault Refusal := s.plain 2 id

/-- nop (R199). -/
def execNop (s : State) : Host.Outcome State Fault Refusal := s.plain 4 id

end Sys2Proof.Machine
end

