-- ==== Sys2Proof/Machine/Memory.lean ====
section
/-! DEFINITION. Loads, stores and local atomics of the scalar unit (R97–R105), and the line reads and writes of the
load-store unit that the vector unit shares: versions and read records of a chunk among them (R211–R217). -/

namespace Sys2Proof.Machine
open Sys2Proof

/-! ## Lines as a context reads and writes them -/

/-- The line of a device byte or of a byte of the own scratchpad. -/
def Target.line (n : Nat) : Target → LineId
  | .hbm pa => .hbm (pa / 128)
  | .own _ off => .scratch n (off / 128)
  | _ => .scratch n 0

/-- The place within its line. -/
def Target.within : Target → Nat
  | .hbm pa => pa % 128
  | .own _ off => off % 128
  | _ => 0

/-- A read record is made at a chunk's first read of a line (R212); with its overflow table full the chunk waits for
the Ensign, performs the step of R187, and then makes the access anew, on committed data (R214). -/
def addRecord (l : LineId) (src : ReadSource) : M Unit := fun s =>
  match s.chunk with
  | none => .ok ((), s)
  | some c =>
    if c.reads.any (fun r => decide (r.line = l)) then .ok ((), s)
    else if 1280 ≤ c.reads.length then (do awaitEnsign; stall : M Unit) s
    else .ok ((), s.mapMyChunk (fun c => { c with reads := c.reads ++ [⟨l, src⟩] }))

/-- A speculative chunk's read of a line (R212): its own version, the youngest older version, or committed data. -/
def chunkRead (l : LineId) : M (BitVec 1024) := fun s =>
  match s.chunk, s.region with
  | some c, some r =>
    match c.versions.find? (fun v => decide (v.line = l)) with
    | some v => .ok (v.data, s)
    | none =>
      let older := r.chunks.any (fun o => decide (o.q < c.q))
      let committedRead : M (BitVec 1024) := do
        let f ← leaseRead l
        addRecord l (.committed f.wts f.rts)
        return f.data
      match c.probe.find? (fun p => decide (p.1 = l)) with
      | some (_, .version o n d _) => (do addRecord l (.chunk o n); return d : M (BitVec 1024)) s
      | some (_, .none) => committedRead s
      | none =>
        if !older then committedRead s
        else if c.probing = some l then stall s
        else stall ((s.mapMyChunk (fun c => { c with probing := some l })).post (.versionProbe (ringOf s.cur) c.q l))
  | _, _ => (do let f ← leaseRead l; return f.data : M (BitVec 1024)) s

/-- Poisoned granules of a line as the current context reads it (R380): of its own version, of the version that answered
its probe, or of the committed line. -/
def State.readPoison (s : State) (l : LineId) : BitVec 8 :=
  let committed := s.committedPoison s.cur l
  match s.chunk with
  | some c =>
    if !c.spec then committed
    else match c.versions.find? (fun v => decide (v.line = l)) with
      | some v => v.poison
      | none => match c.probe.find? (fun p => decide (p.1 = l)) with
        | some (_, .version _ _ _ p) => p
        | _ => committed
  | none => committed

/-- A granule that `n` bytes from `off` of a line touch is poisoned as the current context reads it. -/
def State.readPoisoned (s : State) (l : LineId) (off n : Nat) : Bool := touchesPoison (s.readPoison l) off n

/-- The data of a line for a load of the current context (R102, R212, R245). -/
def readLine (l : LineId) : M (BitVec 1024) := fun s =>
  if s.speculative then chunkRead l s else (do let f ← leaseRead l; return f.data : M (BitVec 1024)) s

/-- A store of the current chunk is broadcast east to every younger chunk in flight (R217). -/
def broadcast (l : LineId) (count : Nat) : M Unit := fun s =>
  match s.chunk, s.region with
  | some c, some r =>
    if r.assured then .ok ((), s)
    else
      let younger := (r.chunks.filter (fun o => decide (c.q < o.q))).map (·.q)
      let s := s.mapMyChunk (fun c => { c with owed := c.owed ++ younger })
      .ok ((), younger.foldl (fun s q => s.post (.storeBroadcast (ringOf s.cur) c.q q l count)) s)
  | _, _ => .ok ((), s)

/-- A speculative chunk may have a version of a line: a store or atomic to a Frozen line raises WRITE_FROZEN, and one to a
line under collection waits for the ticket (R101, R103, R213). -/
def versionable (l : LineId) (ea : Word) : M Unit := fun s =>
  match l with
  | .scratch _ _ => .ok ((), s)
  | .hbm line =>
    match s.frame (line * 128) with
    | .frozen => .error (s.raise .writeFrozen ea false)
    | .collecting => stall s
    | _ => .ok ((), s)

/-- The version a chunk's store writes into, made from the data it reads (R213). -/
def versionFor (l : LineId) : M Version := fun s =>
  match s.chunk with
  | none => .ok (⟨l, 0, 0, 0, 0, []⟩, s)
  | some c =>
    match c.versions.find? (fun v => decide (v.line = l)) with
    | some v => .ok (v, s)
    | none =>
      (do
        let d ← chunkRead l
        let t ← getState
        return { line := l, data := d, mask := 0, count := 0, poison := t.readPoison l } : M Version) s

/-- A version with bytes stored into it (R213). -/
def Version.store (v : Version) (data : BitVec 1024) (mask : BitVec 128) : Version :=
  { v with data := mergeLine v.data data mask, mask := v.mask ||| mask, count := Nat.min (v.count + 1) 0xFFFF,
           poison := v.poison &&& ~~~BitVec.ofNat 8 (fullGranules mask.toNat 8) }

/-- The version with the pages of a store from `ea` noted (R311). -/
def Version.through (v : Version) (ea : Word) : Version :=
  { v with pages := (v.pages ++ [ea.toNat / 65536, (ea.toNat + 127) / 65536]).eraseDups }

/-- A store of the current context that is performed at the line's coherence point (R101, R187, R217). -/
def writeThrough (l : LineId) (data : BitVec 1024) (mask : BitVec 128) (ea : Word) : M Unit := do
  ownLine l ea
  modState (fun s => s.coreWrite l data mask)
  broadcast l 1

/-- A speculative chunk's store (R213): it writes its version. -/
def chunkWrite (l : LineId) (data : BitVec 1024) (mask : BitVec 128) (ea : Word) : M Unit := do
  versionable l ea
  let v ← versionFor l
  let v' := (v.store data mask).through ea
  modState (fun s => (s.freeFrame s.cur l).mapMyChunk (fun c =>
    { c with versions := c.versions.filter (fun w => decide (w.line ≠ l)) ++ [v'] }))
  broadcast l v'.count

/-- Bytes of a line stored by the current context (R101, R102, R187, R214, R217). A chunk without a frame for a version
performs the step of R187 and then makes the access anew. -/
def writeLine (l : LineId) (data : BitVec 1024) (mask : BitVec 128) (ea : Word) : M Unit := do
  let s ← getState
  if s.speculative && s.framesFull s.cur l then
    awaitEnsign
    stall
  if s.speculative then chunkWrite l data mask ea else writeThrough l data mask ea

/-- A write of an assured chunk to device HBM outside its rounded write ranges raises assured-range (R181, R229). -/
def assuredCheck (t : Target) (ea : Word) (n : Nat) : M Unit := fun s =>
  match t with
  | .hbm _ =>
    match s.chunk, s.region with
    | some c, some r =>
      if r.assured && !r.frec.mayWrite r.total c.q ea.toNat n then .error (s.raise .assuredRange ea false) else .ok ((), s)
    | _, _ => .ok ((), s)
  | _ => .ok ((), s)

/-- A failed translation or target raises its cause. -/
def orRaise {α : Type} : Except Failed α → M α
  | .ok a => pure a
  | .error (cause, tval) => raise cause tval

/-- Translates the address of an access and raises its cause. -/
def target (acc : Access) (ea : Word) : M Target := do orRaise (← resolve acc ea.toNat)

/-- Lim of an alias window (Table 2.5). -/
def windowLim (w : Nat) : Nat :=
  match w with
  | 0 => 0x80000
  | 1 => 0x40000
  | 6 => 0x6FFF0
  | _ => 0x70000

/-- A load of `n` bytes of a line: poison raises poison-consumed, with TVAL a function of the poisoned granules (R99). -/
def loadFrom (t : Target) (n : Nat) (tval : BitVec 8 → Word) : M Nat := do
  let l := t.line (← getState).cur
  let d ← readLine l
  let s ← getState
  if s.readPoisoned l t.within n then raise .poisonConsumed (tval (s.readPoison l))
  return bits d.toNat (8 * t.within) (8 * n)

/-- A load of `n` bytes that lie in one granule: TVAL is their address. -/
def loadLine (t : Target) (n : Nat) (ea : Word) : M Nat := loadFrom t n (fun _ => ea)

/-- A load of a block of bytes of a line: TVAL is the address of the first poisoned byte (R372, log 45). -/
def loadBlock (t : Target) (n : Nat) (ea : Word) : M Nat :=
  loadFrom t n (fun p => ea + BitVec.ofNat 64 (firstPoison p t.within n - t.within))

/-- A store of `n` bytes of a line. -/
def storeLine (t : Target) (n : Nat) (v : Nat) (ea : Word) : M Unit := do
  let s ← getState
  writeLine (t.line s.cur) (BitVec.ofNat 1024 (v * 2 ^ (8 * t.within))) (BitVec.ofNat 128 (maskBits t.within n)) ea

/-- The orders of R58. -/
def ordRlx : BitVec 2 := 0
def ordSc : BitVec 2 := 3
/-- Scope sys (Table 3.10). -/
def scSys : BitVec 3 := 4

/-- An sc operation waits for the Ensign (R102, R105) and raises the logical time by 1 for its stamp (R269). -/
def stampSc (ord : BitVec 2) : M Unit := do
  if ord = ordSc then
    awaitEnsign
    if !(← getCtx).stamped then
      modCore (fun c => { c with lts := c.lts + 1 })
      modCtx (fun c => { c with stamped := true })

/-- A loaded value of 2^sz bytes, extended (R99). -/
def extend (sz : BitVec 2) (sx : Bool) (v : Nat) : Word :=
  if sx then BitVec.ofInt 64 (toInt (8 * 2 ^ sz.toNat) v) else BitVec.ofNat 64 v

/-- The context waits for a step of the package that completes its instruction. -/
def waitFor (w : Wait) : M Unit := modCtx (fun c => { c with wait := some w, issued := true })

/-- A request to a peer package leaves through a station (R356). -/
def State.toPeer (s : State) (pkg : Nat) (a : PeerAcc) (ask : PeerAsk) : State :=
  { s with peerOut := s.peerOut ++ [(s.peerNext, pkg, a, ask)], peerNext := s.peerNext + 1 }

/-- The device has performed this die's stores at scope pkg: no Annex line has a mirror pending (R328). -/
def State.mirrorsDone (s : State) (die : Nat) : Bool :=
  s.annex.all (fun e => decide (e.1 / 2 ^ 34 ≠ die) || e.2.pending.isEmpty)

/-- Earlier stores are performed at scope `sc` before the instruction goes on (R100, R117, R328). -/
def performed (sc : BitVec 3) : M Unit := fun s =>
  if sc.toNat < 3 ∨ s.mirrorsDone (dieOf s.cur) then .ok ((), s) else stall s

/-- An LSU access with order rel or sc waits for earlier stores at its scope (R100). -/
def releaseWait (ord : BitVec 2) (sc : BitVec 3) : M Unit := do
  if 2 ≤ ord.toNat then
    let s ← getState
    if !s.speculative then performed sc

/-- Every access that the current context has made to a peer window is acknowledged (R358, Table 6.9). -/
def State.peersDone (s : State) : Bool := !s.peerOut.any (fun e => decide (e.2.2.2 = .context s.cur s.curH))

/-- An access to a peer window with order rel or sc waits for those before it on its own path (R100, R358). -/
def peerReleaseWait (ord : BitVec 2) : M Unit := fun s => if 2 ≤ ord.toNat ∧ !s.peersDone then stall s else .ok ((), s)

/-- A scalar load (R97–R102, Table 6.1). -/
def doLoad (ord : BitVec 2) (sc : BitVec 3) (sz : BitVec 2) (sx : Bool) (rd : SReg) (ea : Word) : M Unit := do
  let n := 2 ^ sz.toNat
  if ea.toNat % n ≠ 0 then raise .misalignedAccess ea
  match ← target .load ea with
  | .hbm pa =>
    releaseWait ord sc
    stampSc ord
    if ord = ordSc then acquire
    let v ← loadLine (.hbm pa) n ea
    if ord = 1 then acquire
    writeX rd (extend sz sx v)
    retire 4
  | .own w off =>
    if windowLim w < off + n then raise .awRange ea
    releaseWait ord sc
    stampSc ord
    let v ← loadLine (.own w off) n ea
    if ord.toNat % 2 = 1 then acquire
    writeX rd (extend sz sx v)
    retire 4
  | .remote core w off =>
    if w ≠ 0 ∨ ord ≠ ordRlx then raise .accessTarget ea
    awaitEnsign
    modState (fun s => s.post (.remoteLoad ⟨s.cur, s.curH, core, s.me.asid.toNat, off, ea, sz, sx, rd⟩))
    waitFor (.remoteLoad (.scratch core off) ea rd sz sx)
  | .host a =>
    if sc ≠ scSys then raise .accessTarget ea
    awaitEnsign
    stampSc ord
    modState (fun s => s.post (.hostReadCompletion s.cur (.context s.curH) false))
    waitFor (.remoteLoad (.host a) ea rd sz sx)
  | .peer p off =>
    if sc ≠ scSys then raise .accessTarget ea
    awaitEnsign
    peerReleaseWait ord
    stampSc ord
    modState (fun s => s.toPeer p (.load off n) (.context s.cur s.curH))
    waitFor (.remoteLoad (.peer p off) ea rd sz sx)

/-- ea of LS and LO (R97). -/
def effAddr {w : Nat} (c : Ctx) (base : SReg) (off : BitVec w) (sz : BitVec 2) : Word :=
  c.x base + (off.signExtend 64) * 2 ^ sz.toNat

/-- `n` bytes of a number, lowest first. -/
def bytesOf (v : Nat) : Nat → List (BitVec 8)
  | 0 => []
  | n + 1 => BitVec.ofNat 8 v :: bytesOf (v / 256) n

/-! ## Host memory -/

/-- Poison of 16-byte granules after bytes from `a` are written with theirs: a poisoned byte poisons its granule, and sound
bytes clear a granule that they write whole (R380). -/
def poisonAfter (b : Bank Bool) (a : Nat) (p : List Bool) : Bank Bool :=
  (List.range ((a + p.length + 15) / 16 - a / 16)).foldl (fun b k =>
    let lo := (a / 16 + k) * 16
    let part := (List.range 16).map (fun i => if lo + i < a then none else p[lo + i - a]?)
    if part.any (fun x => x == some true) then Bank.set false b (a / 16 + k) true
    else if part.all (fun x => x == some false) then Bank.set false b (a / 16 + k) false
    else b) b

/-- A posted write to host memory; with the port lost it reaches nothing (R351, R382, log 71). -/
def State.putHost (s : State) (a : Nat) (l : List (BitVec 8 × Bool)) : State :=
  if s.hostLink then
    { s with
      hostMem := writeBytes s.hostMem a l.length (pack 8 (l.map (fun b => b.1.toNat)))
      hostPoison := poisonAfter s.hostPoison a (l.map (·.2)) }
  else s

/-! ## Stores -/

/-- A scalar store (R97–R102, Table 6.1). -/
def doStore (ord : BitVec 2) (sc : BitVec 3) (sz : BitVec 2) (v : Word) (ea : Word) : M Unit := do
  let n := 2 ^ sz.toNat
  if ea.toNat % n ≠ 0 then raise .misalignedAccess ea
  let data := v.toNat % 256 ^ n
  match ← target .store ea with
  | .hbm pa =>
    assuredCheck (.hbm pa) ea n
    releaseWait ord sc
    stampSc ord
    storeLine (.hbm pa) n data ea
    retire 4
  | .own w off =>
    if w ≠ 0 then raise .awWrite ea
    releaseWait ord sc
    stampSc ord
    storeLine (.own 0 off) n data ea
    retire 4
  | .remote core w off =>
    if w ≠ 0 then raise .awWrite ea
    if ord ≠ ordRlx then raise .accessTarget ea
    awaitEnsign
    let sh := 8 * (off % 128)
    modState (fun s => s.post (.remoteStorePacket
      { src := s.cur, dst := core, asid := s.me.asid.toNat, line := off / 128, data := BitVec.ofNat 1024 (data * 2 ^ sh),
        mask := BitVec.ofNat 1024 (maskBits sh (8 * n)), sync := none, bytes := n, poison := 0 }))
    retire 4
  | .host a =>
    if sc ≠ scSys then raise .accessTarget ea
    awaitEnsign
    stampSc ord
    modState (fun s => s.putHost a ((bytesOf data n).map (fun b => (b, false))))
    retire 4
  | .peer p off =>
    if sc ≠ scSys then raise .accessTarget ea
    awaitEnsign
    peerReleaseWait ord
    stampSc ord
    modState (fun s => s.toPeer p (.store s.peerNext off ((bytesOf data n).map (fun b => (b, false)))) (.context s.cur s.curH))
    retire 4

/-! ## The instructions -/

/-- ld (R99). -/
def execLd (sz : BitVec 2) (reg base : SReg) (off : BitVec 10) (s : State) : Host.Outcome State Fault Refusal :=
  finish (doLoad ordRlx scSys sz true reg (effAddr s.ctx base off sz)) s

/-- ldu (R99). -/
def execLdu (sz : BitVec 2) (reg base : SReg) (off : BitVec 10) (s : State) : Host.Outcome State Fault Refusal :=
  finish (doLoad ordRlx scSys sz false reg (effAddr s.ctx base off sz)) s

/-- st (R99). -/
def execSt (sz : BitVec 2) (reg base : SReg) (off : BitVec 10) (s : State) : Host.Outcome State Fault Refusal :=
  finish (doStore ordRlx scSys sz (s.ctx.x reg) (effAddr s.ctx base off sz)) s

/-- ldo (R99, R100). -/
def execLdo (ord : BitVec 2) (sc : BitVec 3) (x : Bool) (sz : BitVec 2) (reg base : SReg) (off : BitVec 4) (s : State) :
    Host.Outcome State Fault Refusal :=
  finish (doLoad ord sc sz x reg (effAddr s.ctx base off sz)) s

/-- sto (R99, R100). -/
def execSto (ord : BitVec 2) (sc : BitVec 3) (sz : BitVec 2) (reg base : SReg) (off : BitVec 4) (s : State) :
    Host.Outcome State Fault Refusal :=
  finish (doStore ord sc sz (s.ctx.x reg) (effAddr s.ctx base off sz)) s

/-! ## Atomics (R103–R105) -/

/-- new := op(m, b) (Table 6.4); for cas, b. -/
def atomicOp (fn : Nat) (w : Nat) (m b : BitVec w) : BitVec w :=
  match fn with
  | 0 => b
  | 1 => m + b
  | 2 => m &&& b
  | 3 => m ||| b
  | 4 => m ^^^ b
  | 5 => iMin w m b
  | 6 => iMax w m b
  | 7 => iMinu w m b
  | 8 => iMaxu w m b
  | _ => b

/-- The value an atomic of `n` bytes leaves; cas leaves `m` unless it equals `cmp`. -/
def atomicNew (fn n m b cmp : Nat) : Nat :=
  let w := 8 * n
  if fn = 9 ∧ m ≠ cmp % 2 ^ w then m
  else (atomicOp fn w (BitVec.ofNat w m) (BitVec.ofNat w b)).toNat

/-- The old value as the atomic delivers it: 32-bit results sign-extended (R103). -/
def atomicOld (d : Bool) (m : Nat) : Word := if d then BitVec.ofNat 64 m else sextWord (BitVec.ofNat 32 m)

/-- The atomic acts and does not merely read: a failing cas writes nothing. -/
def atomicWrites (fn n m cmp : Nat) : Bool := !(decide (fn = 9) && decide (m ≠ cmp % 256 ^ n))

/-- A handler's atomic pins its line until the handler ends (R247, R335). -/
def pinForHandler (l : LineId) : M Unit := modState (fun s =>
  if s.curH then { s with pins := (l, s.cur) :: s.pins.erase (l, s.cur) } else s)

/-- An atomic that writes nothing has read its line as a load does that goes to the coherence point (R270). -/
def State.atomicLease (s : State) (l : LineId) : State :=
  match l with
  | .scratch _ line => s.mapCore s.cur (fun c =>
      c.grantScratch line (c.leaseEnd (Bank.get 0 c.scratchRts line)) (Bank.get 0 c.scratchWts line))
  | .hbm line =>
    let die := dieOf s.cur
    let w := s.lineWts die line
    (s.setLineRts die line (s.me.leaseEnd (s.lineRts die line))).mapCore s.cur (fun c => { c with lts := Nat.max c.lts w })

/-- The bytes of a line that a location holds for an atomic of the current context. The freeze is checked before the data
is met (steps 10 and 11 of Table 22.3), for an atomic that writes nothing too (R103, R105). -/
def atomicRead (t : Target) (n : Nat) (ea : Word) : M Nat := do
  let s ← getState
  let l := t.line s.cur
  if s.speculative then
    versionable l ea
    loadLine t n ea
  else
    ownLine l ea
    modState (fun s => s.meet (lineHolds l))
    let s ← getState
    if s.linePoisoned l t.within n then raise .poisonConsumed ea
    return bits (s.ownedData l).toNat (8 * t.within) (8 * n)

/-- A local atomic (R103–R105, Table 6.1). -/
def doAtomic (fn : Nat) (d : Bool) (ord : BitVec 2) (rd rs1 rs2 : SReg) : M Unit := do
  let c ← getCtx
  let ea := c.x rs1
  let n := if d then 8 else 4
  if ea.toNat % n ≠ 0 then raise .misalignedAccess ea
  let t ← target .modify ea
  match t with
  | .hbm _ => pure ()
  | .own w _ => if w ≠ 0 then raise .awWrite ea
  | .remote _ w _ => if w ≠ 0 then raise .awWrite ea else raise .accessTarget ea
  | .host _ => raise .accessTarget ea
  | .peer _ _ => raise .accessTarget ea
  assuredCheck t ea n
  releaseWait ord 3
  stampSc ord
  let m ← atomicRead t n ea
  let cmp := (c.x rd).toNat
  if atomicWrites fn n m cmp then
    storeLine t n (atomicNew fn n m (c.x rs2).toNat cmp) ea
    pinForHandler (t.line (← getState).cur)
  else modState (fun s => if s.speculative then s else s.atomicLease (t.line s.cur))
  if ord.toNat % 2 = 1 then acquire
  writeX rd (atomicOld d m)
  retire 4

end Sys2Proof.Machine
end

