-- ==== Sys2Proof/Machine/Atomics.lean ====
section
/-! DEFINITION. Local atomics, one meaning for each operation (R103–R105, Table 6.4), and far atomics at the issuing
core (R106–R109). -/

namespace Sys2Proof.Machine
open Sys2Proof

/-- amswap (Table 6.4). -/
def execAmSwap (d : Bool) (ord : BitVec 2) (rd rs1 rs2 : SReg) (s : State) : Host.Outcome State Fault Refusal :=
  finish (doAtomic 0 d ord rd rs1 rs2) s

/-- amadd (Table 6.4). -/
def execAmAdd (d : Bool) (ord : BitVec 2) (rd rs1 rs2 : SReg) (s : State) : Host.Outcome State Fault Refusal :=
  finish (doAtomic 1 d ord rd rs1 rs2) s

/-- amand (Table 6.4). -/
def execAmAnd (d : Bool) (ord : BitVec 2) (rd rs1 rs2 : SReg) (s : State) : Host.Outcome State Fault Refusal :=
  finish (doAtomic 2 d ord rd rs1 rs2) s

/-- amor (Table 6.4). -/
def execAmOr (d : Bool) (ord : BitVec 2) (rd rs1 rs2 : SReg) (s : State) : Host.Outcome State Fault Refusal :=
  finish (doAtomic 3 d ord rd rs1 rs2) s

/-- amxor (Table 6.4). -/
def execAmXor (d : Bool) (ord : BitVec 2) (rd rs1 rs2 : SReg) (s : State) : Host.Outcome State Fault Refusal :=
  finish (doAtomic 4 d ord rd rs1 rs2) s

/-- ammin (Table 6.4). -/
def execAmMin (d : Bool) (ord : BitVec 2) (rd rs1 rs2 : SReg) (s : State) : Host.Outcome State Fault Refusal :=
  finish (doAtomic 5 d ord rd rs1 rs2) s

/-- ammax (Table 6.4). -/
def execAmMax (d : Bool) (ord : BitVec 2) (rd rs1 rs2 : SReg) (s : State) : Host.Outcome State Fault Refusal :=
  finish (doAtomic 6 d ord rd rs1 rs2) s

/-- amminu (Table 6.4). -/
def execAmMinu (d : Bool) (ord : BitVec 2) (rd rs1 rs2 : SReg) (s : State) : Host.Outcome State Fault Refusal :=
  finish (doAtomic 7 d ord rd rs1 rs2) s

/-- ammaxu (Table 6.4). -/
def execAmMaxu (d : Bool) (ord : BitVec 2) (rd rs1 rs2 : SReg) (s : State) : Host.Outcome State Fault Refusal :=
  finish (doAtomic 8 d ord rd rs1 rs2) s

/-- amcas (Table 6.4). -/
def execAmCas (d : Bool) (ord : BitVec 2) (rd rs1 rs2 : SReg) (s : State) : Host.Outcome State Fault Refusal :=
  finish (doAtomic 9 d ord rd rs1 rs2) s

/-- o of R246: the exclusive or of the 6-bit fields of the physical address. -/
def ownerHash (pa : Nat) : Nat :=
  [7, 13, 19, 25, 31, 37, 43].foldl (fun h b => h ^^^ bits pa b 6) (bits pa 49 3)

/-- The core that owns a location (R246); a compute-dropped home die is stood in for by its substitute. -/
def State.owner (s : State) : Loc → Nat
  | .hbm pa => s.substitute (s.homeOf pa) * 64 + ownerHash pa
  | .scratch c _ => c
  | _ => 0

/-- The core that takes over the far atomics of core `n` once its die is compute-dropped (R383). -/
def State.standIn (s : State) (n : Nat) : Nat := s.substitute (dieOf n) * 64 + n % 64

/-- A far atomic at the issuing core (R106, R107, R109). -/
def doFar (fn : Nat) (d : Bool) (rd rs1 rs2 : SReg) : M Unit := do
  if rd ≠ 0 then notHandler
  let c ← getCtx
  let ea := c.x rs1
  let n := if d then 8 else 4
  if ea.toNat % n ≠ 0 then raise .misalignedAccess ea
  let t ← target .modify ea
  let loc : Loc ← match t with
    | .hbm pa => pure (.hbm pa)
    | .own w off => do
      if w ≠ 0 then raise .awWrite ea
      pure (.scratch (← getState).cur off)
    | .remote core w off => do
      if w ≠ 0 then raise .awWrite ea
      pure (.scratch core off)
    | .host _ => raise .accessTarget ea
    | .peer p off => pure (.peer p off)
  assuredCheck t ea n
  awaitEnsign
  let cmp := if fn = 9 then c.x rd else 0
  modState (fun s =>
    let r : FarReq := ⟨s.cur, s.curH, s.owner loc, s.me.asid.toNat, s.me.lts, ea, loc, c.x rs2, cmp, BitVec.ofNat 4 fn, d,
      decide (rd ≠ 0), rd, none, none⟩
    match loc with
    | .peer p off => s.toPeer p (.atomic off r.fn d r.b cmp) (.far r)
    | _ => s.post (.farAtomicStep r))
  if rd = 0 then retire 4 else waitFor (.farReply rd)

/-- far.swap (R106). -/
def execFarSwap (d : Bool) (rd rs1 rs2 : SReg) (s : State) : Host.Outcome State Fault Refusal :=
  finish (doFar 0 d rd rs1 rs2) s

/-- far.add (R106). -/
def execFarAdd (d : Bool) (rd rs1 rs2 : SReg) (s : State) : Host.Outcome State Fault Refusal :=
  finish (doFar 1 d rd rs1 rs2) s

/-- far.and (R106). -/
def execFarAnd (d : Bool) (rd rs1 rs2 : SReg) (s : State) : Host.Outcome State Fault Refusal :=
  finish (doFar 2 d rd rs1 rs2) s

/-- far.or (R106). -/
def execFarOr (d : Bool) (rd rs1 rs2 : SReg) (s : State) : Host.Outcome State Fault Refusal :=
  finish (doFar 3 d rd rs1 rs2) s

/-- far.xor (R106). -/
def execFarXor (d : Bool) (rd rs1 rs2 : SReg) (s : State) : Host.Outcome State Fault Refusal :=
  finish (doFar 4 d rd rs1 rs2) s

/-- far.min (R106). -/
def execFarMin (d : Bool) (rd rs1 rs2 : SReg) (s : State) : Host.Outcome State Fault Refusal :=
  finish (doFar 5 d rd rs1 rs2) s

/-- far.max (R106). -/
def execFarMax (d : Bool) (rd rs1 rs2 : SReg) (s : State) : Host.Outcome State Fault Refusal :=
  finish (doFar 6 d rd rs1 rs2) s

/-- far.minu (R106). -/
def execFarMinu (d : Bool) (rd rs1 rs2 : SReg) (s : State) : Host.Outcome State Fault Refusal :=
  finish (doFar 7 d rd rs1 rs2) s

/-- far.maxu (R106). -/
def execFarMaxu (d : Bool) (rd rs1 rs2 : SReg) (s : State) : Host.Outcome State Fault Refusal :=
  finish (doFar 8 d rd rs1 rs2) s

/-- far.cas (R106). -/
def execFarCas (d : Bool) (rd rs1 rs2 : SReg) (s : State) : Host.Outcome State Fault Refusal :=
  finish (doFar 9 d rd rs1 rs2) s

end Sys2Proof.Machine
end

