-- ==== Sys2Proof/Machine/Catalogue.lean ====
section
/-! DEFINITION. The Annex and Catalogue protocol: requests, forwarded reads, invalidations, recalls, evictions and
mirror writes (R325–R335, Tables 19.2 to 19.5). A line's home die appears among the holders of its entry only when it
has registered; its own key of the Annex map is then in state S. -/

namespace Sys2Proof.Machine
open Sys2Proof

/-! ## Quarters and sets (R325, R330, R334) -/

/-- Quarter Q of a line. -/
def quarterOf (line : Nat) : Nat :=
  let pa := line * 128
  bits pa 7 2 ^^^ bits pa 9 2 ^^^ bits pa 11 2 ^^^ bits pa 13 2

/-- The set of a line within its quarter. -/
def setOf (line : Nat) : Nat := bits (line * 128) 7 19 ^^^ bits (line * 128) 26 19

/-- The switch die that holds a line's Catalogue entry (R325, R336, R382). -/
def State.quarterDie (s : State) (line : Nat) : Nat :=
  let d := (Bank.find s.qmap (quarterOf line)).getD (quarterOf line)
  let live := (List.range 4).filter (fun x => !s.lostXd.contains x)
  if d < 4 then d else live.getD (line % 2 ^ 45 % live.length) 0

/-- Entries in use in the set of a line. -/
def State.setEntries (s : State) (line : Nat) : List (Nat × CatEntry) :=
  s.cat.filter (fun e => s.quarterDie e.1 == s.quarterDie line && quarterOf e.1 == quarterOf line && setOf e.1 == setOf line
    && !decide (e.2.st = .none))

/-- The holders of an entry, in rising order of die. -/
def CatEntry.holders (e : CatEntry) : List Nat :=
  (List.range 12).filter (fun d => e.sharers.getLsbD d || e.owner == d)

/-- The sharers of an entry but `d`. -/
def CatEntry.sharersBut (e : CatEntry) (d : Nat) : List Nat := (List.range 12).filter (fun x => e.sharers.getLsbD x && x != d)

/-- Die `d` as a set. -/
def dieBit (d : Nat) : BitVec 12 := BitVec.twoPow 12 d

/-! ## Pins (R335) -/

/-- A recall, a forwarded read or an invalidation must wait at a holder: a commit lock, a handler's atomic, or mirrors
not yet acknowledged. -/
def State.pinned (s : State) (die line : Nat) : Bool :=
  s.locks.any (fun e => decide (e.1 = .hbm line) && dieOf (e.2 * 8) == die)
    || s.pins.any (fun p => decide (p.1 = .hbm line) && dieOf p.2 == die)
    || match (s.annexLine die line).st with
       | .mp _ => true
       | _ => false

/-- A holder gives up its copy, keeping only the mark of its own outstanding request. -/
def State.drop (s : State) (die line : Nat) : State := s.mapAnnex die line (fun a => { asked := a.asked })

/-- The lease end that a holder reports: its Annex's, or its slice's for the home. -/
def State.reportedRts (s : State) (die line : Nat) : Nat :=
  if s.homeLine line = die then s.homeRts line else (s.annexLine die line).rts

/-! ## Resolution (R332, Table 19.5) -/

/-- A request on its way to the quarter of its line. -/
def CatReq.instr (r : CatReq) (line : Nat) : Instr :=
  match r.kind with
  | .rd => .catalogueRd r.die line
  | .rfo => .catalogueRfo r.die line
  | .upg => .catalogueUpg r.die line

/-- The request that has waited longest for a settled entry is on its way again; the others stay behind it (R333). -/
def State.sendNext (s : State) (line : Nat) : State :=
  match (s.catEntry line).waiting with
  | [] => s
  | r :: _ => s.post (r.instr line)

/-- The entry is settled and its next waiting request goes to the quarter again (R333). -/
def State.settle (s : State) (line : Nat) (e : CatEntry) : State :=
  (s.setCat line { e with busy := none, awaiting := [], data := none, wts := 0, rts := 0, wasE := false }).sendNext line

/-- A request for the line waits at its quarter or is on its way there. -/
def State.requested (s : State) (line : Nat) : Bool :=
  !(s.catEntry line).waiting.isEmpty || (List.range 12).any (fun d =>
    s.flight.contains (.catalogueRd d line) || s.flight.contains (.catalogueRfo d line) || s.flight.contains (.catalogueUpg d line))

/-- A recalled entry is free (R334): its way goes to the line whose request had it recalled, while that still needs one. -/
def State.freed (s : State) (line : Nat) (e : CatEntry) : State :=
  let s := s.settle line { e with st := .none, sharers := 0, owner := 15, forLine := none }
  match e.forLine with
  | none => s
  | some l => if (s.catEntry l).st = .none ∧ s.requested l then s.setCat l { s.catEntry l with way := true } else s

/-- An entry with no holder left, or whose only holder is the home, is freed and CAT cleared (R331). -/
def State.tidy (s : State) (line : Nat) (e : CatEntry) : CatEntry × State :=
  let h := s.homeLine line
  if e.owner = 15 ∧ e.sharers &&& ~~~dieBit h = 0 then
    ({ e with st := .none, sharers := 0, owner := 15 },
      if (s.annexLine h line).st = .s then s.drop h line else s)
  else (e, s)

/-- The answer goes to the requester; the entry stays busy until it arrives (R333). -/
def State.answer (s : State) (line : Nat) (e : CatEntry) (d : Nat) (st : Moesi) (data : Option LineData)
    (wts rts : Nat) : State :=
  (s.setCat line e).post (.catalogueAnswer d line ⟨st, data, wts, Nat.max wts rts⟩)

/-- Every copy named has answered an invalidation: the requester becomes the only holder (R332). The home's copy was
given up with the others, or supplied the data when no die held one. -/
def State.ownAnswer (s : State) (line : Nat) (e : CatEntry) (r : CatReq) : State :=
  let h := s.homeLine line
  let keeps := !decide ((s.annexLine r.die line).st = .i) && r.die != h
  let data := if keeps then none else some (e.data.getD (s.pointData h line))
  let rts := if e.data.isNone && !keeps then Nat.max e.rts (s.homeRts line) else e.rts
  if r.die = h then s.answer line { e with st := .none, sharers := 0, owner := 15 } h .m none (s.homeWts line) rts
  else s.answer line { e with st := .xc, sharers := 0, owner := r.die } r.die .m data
    (Nat.max e.wts (if keeps then (s.annexLine r.die line).wts else s.homeWts line)) rts

/-- Invalidations of `ds` for the request `r`; with none to make, the answer goes at once. -/
def State.invalidateAll (s : State) (line : Nat) (e : CatEntry) (r : CatReq) (ds : List Nat) : State :=
  let e := { e with busy := some r, awaiting := ds }
  if ds.isEmpty then s.ownAnswer line e r
  else ds.foldl (fun s d => s.post (.invalidate d line)) (s.setCat line e)

/-- Recall of every holder of an entry (R334, R339): state RCL until every answer has come. -/
def State.recallEntry (s : State) (line : Nat) (e : CatEntry) : State :=
  let ds := e.holders
  ds.foldl (fun s d => s.post (.recallLine d line)) (s.setCat line { e with st := .rcl, awaiting := ds })

/-- The least recently used entry of a list that may be evicted (R334). -/
def victim : List (Nat × CatEntry) → Option (Nat × CatEntry)
  | [] => none
  | x :: t =>
    let ok := x.2.busy.isNone && !decide (x.2.st = .rcl)
    match victim t with
    | none => if ok then some x else none
    | some y => if ok && decide (x.2.lru ≤ y.2.lru) then some x else some y

/-- A request that needs a new entry finds its set full: the least recently used entry is recalled for it, and no second
one while that recall runs (R334). -/
def State.makeRoom (s : State) (line : Nat) : State :=
  let set := s.setEntries line
  if set.any (fun e => decide (e.2.forLine = some line)) then s
  else match victim set with
    | some (l, e) => s.recallEntry l { e with forLine := some line }
    | none => s

/-- A new entry can be allocated, or exists: a way is free that no recall has freed for another request. -/
def State.hasRoom (s : State) (line : Nat) : Bool :=
  let kept := s.cat.filter (fun e => e.2.way && decide (e.2.st = .none) && s.quarterDie e.1 == s.quarterDie line
    && quarterOf e.1 == quarterOf line && setOf e.1 == setOf line)
  !decide ((s.catEntry line).st = .none) || (s.catEntry line).way || decide ((s.setEntries line).length + kept.length < 16)

/-- A read whose data comes from the home or a sharer: the requester joins the sharers. -/
def State.shareAnswer (s : State) (line : Nat) (e : CatEntry) (d : Nat) : State :=
  let h := s.homeLine line
  match (e.sharersBut d).find? (· != h) with
  | some x => s.answer line { e with sharers := e.sharers ||| dieBit d } d .s (some (s.pointData x line))
      (s.annexLine x line).wts 0
  | none => s.answer line { e with sharers := e.sharers ||| dieBit d } d .s (some (s.pointData h line)) (s.homeWts line)
      (s.homeRts line)

/-- A request waits at the entry, behind the earlier ones; the one whose turn had come keeps its place (R333). -/
def CatEntry.await (e : CatEntry) (r : CatReq) : CatEntry :=
  { e with waiting := if e.waiting.contains r then e.waiting else e.waiting ++ [r] }

/-- A request is resolved at the line's quarter. -/
def State.resolveReq (s : State) (line : Nat) (r : CatReq) : State :=
  let e0 := s.catEntry line
  let h := s.homeLine line
  let d := r.die
  let clock := s.catClock + 1
  let s := { s with catClock := clock }
  let e := { e0 with lru := clock, busy := some r, way := false }
  match e.st, r.kind with
  | .rcl, _ => s.setCat line (e0.await r)
  | .none, .rd =>
    if d = h then s.answer line { e with waiting := e0.waiting } h .s none (s.homeWts line) (s.homeRts line)
    else s.answer line { e with st := .xc, owner := d } d .e (some (s.pointData h line)) (s.homeWts line) (s.homeRts line)
  | .none, _ =>
    if d = h then s.answer line e h .m none (s.homeWts line) (s.homeRts line)
    else s.answer line { e with st := .xc, owner := d } d .m (some (s.pointData h line)) (s.homeWts line) (s.homeRts line)
  | .sh, .rd => s.shareAnswer line e d
  | .sh, _ => s.invalidateAll line e r (e.sharersBut d)
  | .xc, .rd =>
    if e.owner = d then s.answer line e d (s.annexLine d line).st none (s.annexLine d line).wts (s.annexLine d line).rts
    else (s.setCat line { e with awaiting := [e.owner] }).post (.forwardedRead e.owner d line)
  | .xc, _ => s.invalidateAll line e r (if e.owner = d then [] else [e.owner])
  | .ow, .rd => (s.setCat line { e with awaiting := [e.owner] }).post (.forwardedRead e.owner d line)
  | .ow, _ =>
    if e.owner = d then s.invalidateAll line e r (e.sharersBut d)
    else s.invalidateAll line e r (e.owner :: e.sharersBut d)

/-- A line without an entry, which its home die uses under the lease rules alone, is locked or pinned there: a request
that would allocate its entry waits (R331, R335). -/
def State.heldAtHome (s : State) (line : Nat) : Bool :=
  decide ((s.catEntry line).st = .none) && s.pinned (s.homeLine line) line

/-- A request may be resolved now: the entry is settled, a way is free, no commit or handler of the home die keeps the
line, and the line's frame is not changing (R333, R334, R335, R339 step 2). -/
def State.mayResolve (s : State) (line : Nat) (k : CatKind) : Bool :=
  (s.catEntry line).busy.isNone && !decide ((s.catEntry line).st = .rcl) && s.hasRoom line && !s.heldAtHome line &&
    match s.frame (line * 128), k with
    | .sealing, .rd => true
    | .collecting, .rd => true
    | .sealing, _ => false
    | .collecting, _ => false
    | _, _ => true

/-- The request is taken up: it waits no longer, and its way here is done. -/
def State.taken (s : State) (line : Nat) (r : CatReq) : State :=
  let e := s.catEntry line
  (s.take (r.instr line)).setCat line { e with waiting := if e.waiting.head? = some r then e.waiting.tail else e.waiting }

/-- A request reaches its quarter. It waits there behind earlier ones and while the entry is being resolved or recalled
(R333). Of a frozen line, a read is passed to the home, which marks its answer F (R341), and a request to write is turned
back for the access to raise its cause (R342). -/
def catalogueRequest (line : Nat) (r : CatReq) (s : State) : Host.Outcome State Fault Refusal :=
  let s := s.meetTag (.catalogue line)
  let e := s.catEntry line
  if e.busy.isSome ∨ e.st = .rcl ∨ (e.waiting ≠ [] ∧ e.waiting.head? ≠ some r) then
    .next ((s.take (r.instr line)).setCat line (e.await r))
  else if s.frame (line * 128) = .frozen then
    let s := s.taken line r
    let s := s.setCat line { s.catEntry line with way := false }
    let s := if r.kind = .rd then
        s.post (.catalogueAnswer r.die line ⟨.f, some (s.pointData (s.homeLine line) line), s.homeWts line, s.homeRts line⟩)
      else s.mapAnnex r.die line (fun a => { a with asked := false })
    .next (s.sendNext line)
  else if s.mayResolve line r.kind then .next ((s.taken line r).resolveReq line r)
  else if !s.hasRoom line then .next (s.makeRoom line)
  else .next s

/-- CATALOGUE_RD (R332). -/
def execCatalogueRd (die line : Nat) (s : State) : Host.Outcome State Fault Refusal := catalogueRequest line ⟨die, .rd⟩ s
/-- CATALOGUE_RFO (R332). -/
def execCatalogueRfo (die line : Nat) (s : State) : Host.Outcome State Fault Refusal := catalogueRequest line ⟨die, .rfo⟩ s
/-- CATALOGUE_UPG (R332). -/
def execCatalogueUpg (die line : Nat) (s : State) : Host.Outcome State Fault Refusal := catalogueRequest line ⟨die, .upg⟩ s

/-! ## The ways of an Annex (R326, R329) -/

/-- The lines that share a line's set in the Annex of a die: 16,384 sets of 16 ways at each port, the index the low bits
of the line number (R326, log 15). -/
def State.annexSet (s : State) (die line : Nat) : List (Nat × AnnexLine) :=
  s.annex.filter (fun e => e.1 / 2 ^ 34 == die && !decide (e.2.st = .i) && portOf (e.1 % 2 ^ 34) == portOf line
    && e.1 % 2 ^ 14 == line % 2 ^ 14 && !(s.homeLine (e.1 % 2 ^ 34) == die))

/-- A line may leave its Annex: it is not in MP, not pinned, and no request for it is being resolved (R329, R335). -/
def State.evictable (s : State) (die line : Nat) : Bool :=
  !s.pinned die line && (s.catEntry line).busy.isNone && !decide ((s.catEntry line).st = .rcl) && !(s.annexLine die line).asked

/-- The least recently used line of an Annex's set that may leave. -/
def State.annexVictim (s : State) (die : Nat) : List (Nat × AnnexLine) → Option (Nat × AnnexLine)
  | [] => none
  | x :: t =>
    let ok := s.evictable die (x.1 % 2 ^ 34)
    match s.annexVictim die t with
    | none => if ok then some x else none
    | some y => if ok && decide (x.2.lru ≤ y.2.lru) then some x else some y

/-- A die's Annex has a way for a line: it holds the line, or its set is not full. -/
def State.annexRoom (s : State) (die line : Nat) : Bool :=
  s.homeLine line == die || !decide ((s.annexLine die line).st = .i) || decide ((s.annexSet die line).length < 16)

/-- A full set gives up its least recently used line: a Frozen replica silently, any other with a notice (R329). -/
def State.evictFor (s : State) (die line : Nat) : State :=
  match s.annexVictim die (s.annexSet die line) with
  | none => s
  | some (k, a) =>
    let l := k % 2 ^ 34
    if a.st = .f then s.drop die l
    else
      let i : Instr := .evictionNotice die l
      if s.flight.contains i then s else s.post i

/-- An Annex line takes the data of an answer that carries some (R332, R380). -/
def AnnexLine.takes (a : AnnexLine) (grant : Grant) : AnnexLine :=
  match grant.data with
  | some d => { a with data := d.bits, poison := d.poison }
  | none => a

/-- CATALOGUE_ANSWER (R332): the requester takes the line, once its Annex has a way for it (R329), and the entry settles. -/
def execCatalogueAnswer (die line : Nat) (grant : Grant) (s : State) : Host.Outcome State Fault Refusal :=
  if !s.annexRoom die line then .next (s.evictFor die line)
  else
  let s := s.take (.catalogueAnswer die line grant)
  if grant.state = .f then
    .next ((s.mapAnnex die line (fun a =>
      if s.homeLine line ≠ die then
        { a.takes grant with st := .f, wts := grant.wts, rts := grant.rts, asked := false }
      else { a with asked := false })).used die line)
  else
    let e := s.catEntry line
    let h := s.homeLine line
    let s :=
      if die = h then
        { (s.mapAnnex die line (fun _ => { st := if grant.state = .s ∧ e.st ≠ .none then .s else .i })) with
          rts := Bank.set 0 s.rts line (Nat.max (s.homeRts line) grant.rts) }
      else s.mapAnnex die line (fun a =>
        { a.takes grant with
          st := grant.state, asked := false
          wts := Nat.max grant.wts (if grant.data.isNone then a.wts else 0)
          rts := Nat.max grant.rts (if grant.data.isNone then a.rts else 0) })
    .next ((s.used die line).settle line e)

/-! ## The Annex's answers (R327, Table 19.3)

A recall, an invalidation or a forwarded read that reaches an Annex also empties its combining buffer of the line (R253). -/

/-- FORWARDED_READ: the owner supplies the data and keeps a copy. -/
def execForwardedRead (owner die line : Nat) (s : State) : Host.Outcome State Fault Refusal :=
  if s.pinned owner line then .next s
  else
    let s := (s.take (.forwardedRead owner die line)).emptyBuffer owner line
    let a := s.annexLine owner line
    let e := s.catEntry line
    match a.st with
    | .e =>
      let s := s.setAnnex owner line { a with st := .s }
      .next (s.answer line { e with st := .sh, sharers := dieBit owner ||| dieBit die, owner := 15, awaiting := [] } die .s
        (some (s.pointData owner line)) a.wts 0)
    | .m =>
      let s := s.setAnnex owner line { a with st := .o }
      .next (s.answer line { e with st := .ow, sharers := dieBit die, owner := owner, awaiting := [] } die .s
        (some (s.pointData owner line)) a.wts 0)
    | _ =>
      .next (s.answer line { e with sharers := e.sharers ||| dieBit die, awaiting := [] } die .s
        (some (s.pointData owner line)) a.wts 0)

/-- INVALIDATE: a holder gives up its copy for another die's read-for-ownership, supplies its data and reports its lease
end; one that has lost its copy supplies none (R377). -/
def execInvalidate (holder line : Nat) (s : State) : Host.Outcome State Fault Refusal :=
  if s.pinned holder line then .next s
  else
    let s := (s.take (.invalidate holder line)).emptyBuffer holder line
    let a := s.annexLine holder line
    let e := s.catEntry line
    let supplies := s.homeLine line ≠ holder ∧ a.st ≠ .i
    let e := { e with rts := Nat.max e.rts (s.reportedRts holder line), awaiting := e.awaiting.erase holder,
                      wts := if supplies then Nat.max e.wts a.wts else e.wts, data := if supplies then some (s.pointData holder line) else e.data }
    let s := (s.drop holder line).setCat line e
    match e.busy with
    | some r => if e.awaiting.isEmpty then .next (s.ownAnswer line e r) else .next s
    | none => .next s

/-- RECALL: a holder gives up its copy and reports its lease end to the home; with the last answer the entry is freed
(R327, R332). -/
def execRecallLine (holder line : Nat) (s : State) : Host.Outcome State Fault Refusal :=
  if s.pinned holder line then .next s
  else
    let s := (s.take (.recallLine holder line)).emptyBuffer holder line
    let s := { s with rts := Bank.set 0 s.rts line (Nat.max (s.homeRts line) (s.reportedRts holder line)) }
    let e := s.catEntry line
    let e := { e with awaiting := e.awaiting.erase holder }
    let s := s.drop holder line
    if e.st = .rcl ∧ e.awaiting.isEmpty then .next (s.freed line e) else .next (s.setCat line e)

/-- FREEZE_CONVERT: a shared copy becomes a Frozen replica (R327, R339); the home keeps its own line. -/
def execFreezeConvert (holder line : Nat) (s : State) : Host.Outcome State Fault Refusal :=
  if s.pinned holder line then .next s
  else
    let s := s.take (.freezeConvert holder line)
    let s := { s with rts := Bank.set 0 s.rts line (Nat.max (s.homeRts line) (s.reportedRts holder line)) }
    let a := s.annexLine holder line
    let e := s.catEntry line
    let e := { e with awaiting := e.awaiting.erase holder }
    let s := if a.st = .s ∧ s.homeLine line ≠ holder then s.setAnnex holder line { a with st := .f } else s.drop holder line
    if e.st = .rcl ∧ e.awaiting.isEmpty then .next (s.freed line e) else .next (s.setCat line e)

/-- EVICTION_NOTICE (R329, R332): an Annex gives up the least recently used line of a set. A Frozen replica goes silently; a
line that is pinned or whose entry is being resolved stays. -/
def execEvictionNotice (die line : Nat) (s : State) : Host.Outcome State Fault Refusal :=
  let s := s.take (.evictionNotice die line)
  let a := s.annexLine die line
  let e := s.catEntry line
  if s.homeLine line = die ∨ a.st = .i then .next s
  else if ((s.annexVictim die (s.annexSet die line)).map (·.1)) ≠ some (annexKey die line) then .next s
  else if a.st = .f then .next (s.drop die line)
  else
    let s := { (s.drop die line) with rts := Bank.set 0 s.rts line (Nat.max (s.homeRts line) a.rts) }
    let e := { e with sharers := e.sharers &&& ~~~dieBit die, owner := if e.owner = die then 15 else e.owner }
    let e := { e with st := if e.owner = 15 then .sh else e.st }
    let (e, s) := s.tidy line e
    .next (s.setCat line e)

/-! ## Mirror writes (R328) -/

/-- MIRROR_WRITE: the home applies the mirror writes of each Annex in sequence order, with the poison of their bytes, and
discards a duplicate (R328, R380). -/
def execMirrorWrite (die line seq : Nat) (data : LineData) (mask : BitVec 128) (wts : Nat) (s : State) :
    Host.Outcome State Fault Refusal :=
  let i : Instr := .mirrorWrite die line seq data mask wts
  let key := mirrorKey die line (s.homeLine line)
  let next := (Bank.get 0 s.mirrorDone key).toNat
  if seq = next then
    let s := s.take i
    .next ({ s with hbm := writeMasked s.hbm (line * 128) 128 data.bits.toNat mask.toNat
                    poison := setPoison s.poison line data.poison.toNat (fullGranules mask.toNat 8 ||| data.poison.toNat) 8
                    wts := Bank.set 0 s.wts line wts
                    mirrorDone := Bank.set 0 s.mirrorDone key (BitVec.ofNat 32 (seq + 1)) }.post (.mirrorAck die line seq))
  else if (s.annexLine die line).pending.contains seq then .next s
  else .next ((s.take i).post (.mirrorAck die line seq))

/-- MIRROR_ACK: with the last acknowledgement the line leaves MP. -/
def execMirrorAck (die line seq : Nat) (s : State) : Host.Outcome State Fault Refusal :=
  .next ((s.take (.mirrorAck die line seq)).mapAnnex die line (fun a =>
    let p := a.pending.erase seq
    match a.st with
    | .mp owned => { a with pending := p, st := if p.isEmpty then (if owned then .o else .m) else a.st }
    | _ => { a with pending := p }))

end Sys2Proof.Machine
end

