-- ==== Sys2Proof/Machine/Float.lean ====
section
/-! DEFINITION. Floating-point values, the one rounding function every result goes through, and the arithmetic of the
scalar and vector units (R24–R40). -/

namespace Sys2Proof.Machine
open Sys2Proof

/-- How a format reads its top exponent (R24). -/
inductive FKind where
  /-- Infinity and NaNs at the top exponent. -/
  | ieee
  /-- FP8 E4M3: one NaN for each sign, no infinity. -/
  | e4m3
  /-- FP6 and FP4: neither. -/
  | finite
  deriving DecidableEq, Repr

/-- A format of Table 2.1. -/
structure Fmt where
  e : Nat
  m : Nat
  kind : FKind
  deriving DecidableEq, Repr

def fp64 : Fmt := ⟨11, 52, .ieee⟩
def fp32 : Fmt := ⟨8, 23, .ieee⟩
def bf16 : Fmt := ⟨8, 7, .ieee⟩
def fp16 : Fmt := ⟨5, 10, .ieee⟩
def fp8e4m3 : Fmt := ⟨4, 3, .e4m3⟩
def fp8e5m2 : Fmt := ⟨5, 2, .ieee⟩
def fp6e3m2 : Fmt := ⟨3, 2, .finite⟩
def fp6e2m3 : Fmt := ⟨2, 3, .finite⟩
def fp4e2m1 : Fmt := ⟨2, 1, .finite⟩

/-- Bits of a code. -/
def Fmt.width (f : Fmt) : Nat := 1 + f.e + f.m
/-- The bias B (Table 2.1). -/
def Fmt.bias (f : Fmt) : Nat := 2 ^ (f.e - 1) - 1
/-- Exponent of the smallest normal number. -/
def Fmt.emin (f : Fmt) : Int := 1 - f.bias
/-- The code of the largest finite magnitude. -/
def Fmt.maxCode (f : Fmt) : Nat :=
  match f.kind with
  | .ieee => (2 ^ f.e - 1) * 2 ^ f.m - 1
  | .e4m3 => 0x7E
  | .finite => 2 ^ (f.e + f.m) - 1
/-- The code of +∞ (IEEE formats). -/
def Fmt.infCode (f : Fmt) : Nat := (2 ^ f.e - 1) * 2 ^ f.m
/-- The canonical NaN (Table 2.2); a format without one delivers +0 (R37). -/
def Fmt.nanCode (f : Fmt) : Nat :=
  match f.kind with
  | .ieee => (2 ^ f.e - 1) * 2 ^ f.m + 2 ^ (f.m - 1)
  | .e4m3 => 0x7F
  | .finite => 0
/-- The sign bit of a code. -/
def Fmt.sign (f : Fmt) (neg : Bool) : Nat := if neg then 2 ^ (f.e + f.m) else 0

/-- A value: a NaN, an infinity, or ± m × 2 ^ e. -/
inductive FVal where
  | nan (signalling : Bool)
  | inf (neg : Bool)
  | fin (neg : Bool) (m : Nat) (e : Int)
  deriving DecidableEq, Repr

/-- The value of a code (R24). -/
def Fmt.decode (f : Fmt) (x : Nat) : FVal :=
  let neg := x / 2 ^ (f.e + f.m) % 2 == 1
  let ex := x / 2 ^ f.m % 2 ^ f.e
  let mn := x % 2 ^ f.m
  let finite := if ex = 0 then FVal.fin neg mn (f.emin - f.m) else .fin neg (2 ^ f.m + mn) (f.emin - f.m + (ex - 1 : Nat))
  match f.kind with
  | .ieee =>
    if ex = 2 ^ f.e - 1 then
      if mn = 0 then .inf neg else .nan (decide (mn < 2 ^ (f.m - 1)))
    else finite
  | .e4m3 => if ex = 15 ∧ mn = 7 then .nan false else finite
  | .finite => finite

/-- A result with its flags, and whether it took an output of the generator: under SR every result that is not exact
takes one, the results at or beyond the largest finite magnitude among them (R34, R35). DEDUCED (log 63). -/
structure FRes where
  code : Nat
  flags : Flags := 0
  rand : Bool := false
  deriving DecidableEq, Repr

/-- A number that overflows (R37). -/
def Fmt.overflow (f : Fmt) (md : Rnd) (neg : Bool) : FRes :=
  let big := match f.kind with
    | .ieee =>
      match md with
      | .rtz => f.maxCode
      | .rdn => if neg then f.infCode else f.maxCode
      | .rup => if neg then f.maxCode else f.infCode
      | _ => f.infCode
    | _ => f.maxCode
  ⟨f.sign neg + big, flagOF ||| flagNX, false⟩

/-- Whether a magnitude k + r / d (0 ≤ r < d) rounds up in a mode (Table 2.3). `u` is the generator's next output. -/
def roundsUp (md : Rnd) (neg : Bool) (u : BitVec 32) (k r d : Nat) : Bool :=
  match md with
  | .rne => decide (d < 2 * r) || (decide (2 * r = d) && k % 2 == 1)
  | .rtz => false
  | .rdn => neg && decide (r ≠ 0)
  | .rup => !neg && decide (r ≠ 0)
  | .rna => decide (r ≠ 0) && decide (d ≤ 2 * r)
  | .sr => decide (u.toNat < r * 2 ^ 32 / d)

/-- ⌊log2 (num / den)⌋ for num, den > 0. -/
def ratLog2 (num den : Nat) : Int :=
  let k : Int := (num.log2 : Int) - den.log2
  let big := if 0 ≤ k then decide (den * 2 ^ k.toNat ≤ num) else decide (den ≤ num * 2 ^ (-k).toNat)
  if big then k else k - 1

/-- num / den × 2 ^ (e − q) as quotient, remainder and divisor. -/
def scaled (num den : Nat) (e q : Int) : Nat × Nat × Nat :=
  let n := if q ≤ e then num * 2 ^ (e - q).toNat else num
  let d := if q ≤ e then den else den * 2 ^ (q - e).toNat
  (n / d, n % d, d)

/-- Rounds ± num / den × 2 ^ e (num > 0) into a format (R33, R34, R37, R38). -/
def Fmt.roundRat (f : Fmt) (md : Rnd) (u : BitVec 32) (neg : Bool) (num den : Nat) (e : Int) : FRes :=
  let ex := ratLog2 num den + e
  let qu := ex - f.m
  let qmin := f.emin - f.m
  let q := if qu < qmin then qmin else qu
  let (k, r, d) := scaled num den e q
  -- |x| at or above the largest finite magnitude, under SR: the RNE overflow rule (R34)
  let top := decide (f.maxCode ≤ (q - qmin).toNat * 2 ^ f.m + k)
  let md' := if md = .sr ∧ top then Rnd.rne else md
  let up := roundsUp md' neg u k r d
  let k' := k + bit up
  let code := (q - qmin).toNat * 2 ^ f.m + k'
  if f.maxCode < code then { f.overflow md' neg with rand := decide (md = .sr) }
  else
    let tiny :=
      if md' = .sr then decide (code < 2 ^ f.m)
      else if qu < qmin then
        let (ku, ru, du) := scaled num den e qu
        let kk := ku + bit (roundsUp md' neg u ku ru du)
        !(decide (qu + 1 = qmin) && decide (kk = 2 ^ (f.m + 1)))
      else false
    let inexact := decide (r ≠ 0)
    ⟨f.sign neg + code, flagIf inexact flagNX ||| flagIf (inexact && tiny) flagUF, decide (md = .sr) && inexact⟩

/-- Rounds a value that is not a NaN; a zero keeps its sign. -/
def Fmt.round (f : Fmt) (md : Rnd) (u : BitVec 32) : FVal → FRes
  | .nan _ => ⟨f.nanCode, flagIf (f.kind == .finite) flagNV, false⟩
  | .inf neg =>
    match f.kind with
    | .ieee => ⟨f.sign neg + f.infCode, 0, false⟩
    | _ => ⟨f.sign neg + f.maxCode, flagOF ||| flagNX, decide (md = .sr)⟩
  | .fin neg m e => if m = 0 then ⟨f.sign neg, 0, false⟩ else f.roundRat md u neg m 1 e

/-- The canonical NaN with NV. -/
def Fmt.invalid (f : Fmt) : FRes := ⟨f.nanCode, flagNV, false⟩

/-- NV for a signalling operand (R26). -/
def FVal.snan : FVal → Flags
  | .nan true => flagNV
  | _ => 0

def FVal.isNan : FVal → Bool
  | .nan _ => true
  | _ => false

def FVal.neg : FVal → FVal
  | .nan s => .nan s
  | .inf n => .inf (!n)
  | .fin n m e => .fin (!n) m e

/-- A sign as a factor. -/
def signed (neg : Bool) (m : Nat) : Int := if neg then -(m : Int) else (m : Int)

/-- The exact sum of two finite values. The manual does not state the sign of an exact zero sum of operands of opposite
sign (`fadd`, `fsub`, `fmacc`, `fmsac` and their vector forms); the model takes IEEE 754's, −0 only under RDN. PRESUMED
(log 64). -/
def addFin (md : Rnd) (n1 : Bool) (m1 : Nat) (e1 : Int) (n2 : Bool) (m2 : Nat) (e2 : Int) : FVal :=
  let e := if e1 ≤ e2 then e1 else e2
  let a := signed n1 (m1 * 2 ^ (e1 - e).toNat)
  let b := signed n2 (m2 * 2 ^ (e2 - e).toNat)
  let t := a + b
  if t = 0 then .fin (if n1 = n2 then n1 else decide (md = .rdn)) 0 e
  else .fin (decide (t < 0)) t.natAbs e

/-- The exact sum of two values, or `none` for ∞ − ∞. -/
def FVal.add (md : Rnd) : FVal → FVal → Option FVal
  | .nan s, _ => some (.nan s)
  | _, .nan s => some (.nan s)
  | .inf a, .inf b => if a = b then some (.inf a) else none
  | .inf a, .fin _ _ _ => some (.inf a)
  | .fin _ _ _, .inf b => some (.inf b)
  | .fin n1 m1 e1, .fin n2 m2 e2 => some (addFin md n1 m1 e1 n2 m2 e2)

/-- The exact product, or `none` for 0 × ∞. -/
def FVal.mul : FVal → FVal → Option FVal
  | .nan s, _ => some (.nan s)
  | _, .nan s => some (.nan s)
  | .inf a, .inf b => some (.inf (a ^^ b))
  | .inf a, .fin b m _ => if m = 0 then none else some (.inf (a ^^ b))
  | .fin a m _, .inf b => if m = 0 then none else some (.inf (a ^^ b))
  | .fin a m e, .fin b n g => some (.fin (a ^^ b) (m * n) (e + g))

/-- Delivers an exact result, or the canonical NaN with NV where there is none. -/
def Fmt.deliver (f : Fmt) (md : Rnd) (u : BitVec 32) : Option FVal → FRes
  | none => f.invalid
  | some (.nan _) => ⟨f.nanCode, 0, false⟩
  | some v => f.round md u v

/-- Adds the flags of signalling operands. -/
def FRes.with (r : FRes) (fl : Flags) : FRes := { r with flags := r.flags ||| fl }

/-- round(a + b) on values. -/
def Fmt.addV (f : Fmt) (md : Rnd) (a b : FVal) : FRes :=
  (f.deliver md 0 (FVal.add md a b)).with (a.snan ||| b.snan)

/-- round(a × b) on values. -/
def Fmt.mulV (f : Fmt) (md : Rnd) (a b : FVal) : FRes :=
  (f.deliver md 0 (FVal.mul a b)).with (a.snan ||| b.snan)

/-- round(c + a × b), the product exact (R40). -/
def Fmt.fmaV (f : Fmt) (md : Rnd) (c a b : FVal) : FRes :=
  let r := match FVal.mul a b with
    | none => f.invalid
    | some p => f.deliver md 0 (FVal.add md c p)
  r.with (a.snan ||| b.snan ||| c.snan)

/-- round(a / b) (R86). -/
def Fmt.divV (f : Fmt) (md : Rnd) (a b : FVal) : FRes :=
  let r : FRes := match a, b with
    | .nan _, _ => ⟨f.nanCode, 0, false⟩
    | _, .nan _ => ⟨f.nanCode, 0, false⟩
    | .inf _, .inf _ => f.invalid
    | .inf n, .fin o _ _ => ⟨f.sign (n ^^ o) + f.infCode, 0, false⟩
    | .fin n _ _, .inf o => ⟨f.sign (n ^^ o), 0, false⟩
    | .fin n m e, .fin o d g =>
      if d = 0 then
        if m = 0 then f.invalid else ⟨f.sign (n ^^ o) + f.infCode, flagDZ, false⟩
      else if m = 0 then ⟨f.sign (n ^^ o), 0, false⟩
      else f.roundRat md 0 (n ^^ o) m d (e - g)
  r.with (a.snan ||| b.snan)

/-- ⌊√n⌋ by digits: `k` binary digits are still to be found below the root `r`. -/
def isqrtGo (n : Nat) : Nat → Nat → Nat
  | 0, r => r
  | k + 1, r => if (r + 2 ^ k) * (r + 2 ^ k) ≤ n then isqrtGo n k (r + 2 ^ k) else isqrtGo n k r

/-- ⌊√n⌋. -/
def isqrt (n : Nat) : Nat := isqrtGo n (n.log2 / 2 + 1) 0

/-- round(√a) (R86): the root is found to more bits than the format keeps, with a sticky half below it. -/
def Fmt.sqrtV (f : Fmt) (md : Rnd) (a : FVal) : FRes :=
  let r : FRes := match a with
    | .nan _ => ⟨f.nanCode, 0, false⟩
    | .inf n => if n then f.invalid else ⟨f.infCode, 0, false⟩
    | .fin n m e =>
      if m = 0 then ⟨f.sign n, 0, false⟩
      else if n then f.invalid
      else
        let odd := e % 2
        let m' := m * 2 ^ odd.toNat * 4 ^ (f.m + 4)
        let e' := (e - odd) / 2 - (f.m + 4)
        let s := isqrt m'
        f.roundRat md 0 false (2 * s + bit (decide (s * s ≠ m'))) 1 (e' - 1)
  r.with a.snan

/-- −1, 0 or 1 as a is below, equal to or above b; −0 equals +0. -/
def cmpFin (n1 : Bool) (m1 : Nat) (e1 : Int) (n2 : Bool) (m2 : Nat) (e2 : Int) : Int :=
  let e := if e1 ≤ e2 then e1 else e2
  let t := signed n1 (m1 * 2 ^ (e1 - e).toNat) - signed n2 (m2 * 2 ^ (e2 - e).toNat)
  if t < 0 then -1 else if t = 0 then 0 else 1

/-- The order of two values that are not NaNs; `none` when either is. -/
def FVal.cmp : FVal → FVal → Option Int
  | .nan _, _ => none
  | _, .nan _ => none
  | .inf a, .inf b => some (if a = b then 0 else if a then -1 else 1)
  | .inf a, .fin _ _ _ => some (if a then -1 else 1)
  | .fin _ _ _, .inf b => some (if b then 1 else -1)
  | .fin n1 m1 e1, .fin n2 m2 e2 => some (cmpFin n1 m1 e1 n2 m2 e2)

/-- The sign of a value that is not a NaN. -/
def FVal.isNeg : FVal → Bool
  | .nan _ => false
  | .inf n => n
  | .fin n _ _ => n

/-- fmin and fmax on codes, with −0 < +0 (R86). -/
def Fmt.minmax (f : Fmt) (isMax : Bool) (x y : Nat) : FRes :=
  let a := f.decode x
  let b := f.decode y
  let fl := a.snan ||| b.snan
  match FVal.cmp a b with
  | none => ⟨f.nanCode, fl, false⟩
  | some t =>
    let aLess := if t = 0 then a.isNeg else decide (t < 0)
    ⟨(if aLess ^^ isMax then x else y), fl, false⟩

/-! ## Operations on codes -/

def Fmt.add (f : Fmt) (md : Rnd) (x y : Nat) : FRes := f.addV md (f.decode x) (f.decode y)
def Fmt.sub (f : Fmt) (md : Rnd) (x y : Nat) : FRes := f.addV md (f.decode x) (f.decode y).neg
def Fmt.mul (f : Fmt) (md : Rnd) (x y : Nat) : FRes := f.mulV md (f.decode x) (f.decode y)
def Fmt.div (f : Fmt) (md : Rnd) (x y : Nat) : FRes := f.divV md (f.decode x) (f.decode y)
def Fmt.sqrt (f : Fmt) (md : Rnd) (x : Nat) : FRes := f.sqrtV md (f.decode x)
/-- round(d + x × y). -/
def Fmt.macc (f : Fmt) (md : Rnd) (d x y : Nat) : FRes := f.fmaV md (f.decode d) (f.decode x) (f.decode y)
/-- round(d − x × y). -/
def Fmt.msac (f : Fmt) (md : Rnd) (d x y : Nat) : FRes := f.fmaV md (f.decode d) (f.decode x).neg (f.decode y)
/-- The code with its sign bit inverted; a bitwise operation (R86). -/
def Fmt.negCode (f : Fmt) (x : Nat) : Nat :=
  if x / 2 ^ (f.e + f.m) % 2 = 1 then x - 2 ^ (f.e + f.m) else x + 2 ^ (f.e + f.m)
/-- The code with its sign bit cleared. -/
def Fmt.absCode (f : Fmt) (x : Nat) : Nat := x % 2 ^ (f.e + f.m)

/-- A conversion between formats: rounds under `md` (narrowing) and keeps only the class of a NaN (R26, R37). -/
def convert (src dst : Fmt) (md : Rnd) (u : BitVec 32) (x : Nat) : FRes :=
  let a := src.decode x
  (dst.round md u a).with a.snan

/-! ## Compares (R87, R142) -/

/-- The four floating-point compares. -/
inductive FCmp where
  | eq | lt | le | un
  deriving DecidableEq, Repr

/-- The truth of a compare and its flag. -/
def Fmt.compare (f : Fmt) (op : FCmp) (x y : Nat) : Bool × Flags :=
  let a := f.decode x
  let b := f.decode y
  let quiet := a.snan ||| b.snan
  let any := flagIf (a.isNan || b.isNan) flagNV
  match op with
  | .eq => (FVal.cmp a b == some 0, quiet)
  | .lt => (FVal.cmp a b == some (-1), any)
  | .le => (FVal.cmp a b == some (-1) || FVal.cmp a b == some 0, any)
  | .un => (a.isNan || b.isNan, quiet)

/-! ## Integers (R39) -/

/-- Rounds ± num / den × 2 ^ e to an integer; whether it was exact, and whether an output of the generator was
taken. -/
def roundInt (md : Rnd) (u : BitVec 32) (neg : Bool) (num den : Nat) (e : Int) : Int × Bool × Bool :=
  let (k, r, d) := scaled num den e 0
  let k' := k + bit (roundsUp md neg u k r d)
  (signed neg k', decide (r = 0), decide (md = .sr) && decide (r ≠ 0))

/-- A conversion to an integer in lo .. hi (R39). -/
def toInteger (md : Rnd) (lo hi : Int) : FVal → Int × Flags
  | .nan _ => (0, flagNV)
  | .inf n => (if n then lo else hi, flagNV)
  | .fin n m e =>
    let (t, exact, _) := roundInt md 0 n m 1 e
    if t < lo then (lo, flagNV) else if hi < t then (hi, flagNV) else (t, flagIf (!exact) flagNX)

/-- A conversion from an integer (R39). -/
def Fmt.ofInteger (f : Fmt) (md : Rnd) (i : Int) : FRes := f.round md 0 (.fin (decide (i < 0)) i.natAbs 0)

end Sys2Proof.Machine
end

