-- ==== Sys2Proof/Machine/Sync.lean ====
section
/-! DEFINITION. Sync registers, `swait`, the fences and `vdrain` (R17, R110–R120), and the steps that complete their
waits. -/

namespace Sys2Proof.Machine
open Sys2Proof

/-! ## Sync registers -/

/-- The home die of a sync register (R3, R17). -/
def syncHome (y : Nat) : Nat := y / 4096

/-- The value at the home. -/
def State.syncAt (s : State) (y : Nat) : Word := Bank.get 0 s.sync y

/-- mirror(Y): a die's mirror, or Y itself on the home die (R110). -/
def State.mirrorAt (s : State) (die y : Nat) : Word :=
  if syncHome y = die then s.syncAt y else Bank.get 0 s.mirror (die * 65536 + y % 65536)

/-- A mirror receives an update (R111). -/
def State.setMirror (s : State) (die y : Nat) (v : Word) : State :=
  { s with mirror := Bank.set 0 s.mirror (die * 65536 + y % 65536) v }

/-- Every mirror update on its way to a die arrives, in order. -/
def State.drainMirrors (s : State) (die : Nat) : State :=
  let s' := s.flight.foldl (fun s i => match i with
    | .syncMirrorUpdate d y v => if d = die then s.setMirror d y v else s
    | _ => s) s
  { s' with flight := s.flight.filter (fun i => match i with
    | .syncMirrorUpdate d _ _ => d != die
    | _ => true) }

/-- Y := v by an agent of `die`: the home holds it, the die's own mirror holds it, and it travels to the others
(R110, R111). The updater's die, and the register's home, apply every update on its way to them before they hold this one,
so that each die always reads a prefix of one order of updates (log 73). -/
def State.updateSync (s : State) (die y : Nat) (v : Word) : State :=
  let s := { ((s.drainMirrors die).drainMirrors (syncHome y)) with sync := Bank.set 0 s.sync y v }
  let s := if syncHome y = die then s else s.setMirror die y v
  (List.range 12).foldl (fun s d => if d = die ∨ d = syncHome y then s else s.post (.syncMirrorUpdate d y v)) s

/-- A register number whose home-die field is 12–15 or names a full-dropped die (R17, R384). -/
def State.noSync (s : State) (y : Nat) : Bool := decide (Config.dies ≤ syncHome y) || s.fullDropped.contains (syncHome y)

/-- Raises the sync-register range cause for a number without a register. -/
def checkSync (y : Nat) : M Unit := do
  if (← getState).noSync y then raise .syncRegisterRange (BitVec.ofNat 64 y)

/-- A sync-register update: a release of earlier LSU accesses at scope pkg, after the Ensign (R111, R114). -/
def syncUpdate (y : Nat) (f : Word → Word) : M Word := do
  awaitEnsign
  performed 3
  let s ← getState
  let old := s.syncAt y
  modState (fun s => s.updateSync (dieOf s.cur) y (f old))
  acquire
  return old

/-- yld (R110). -/
def doYld (y : Nat) (rd : SReg) : M Unit := do
  checkSync y
  awaitEnsign
  let s ← getState
  acquire
  writeX rd (s.mirrorAt (dieOf s.cur) y)
  retire 4

/-- yst (R110). -/
def doYst (y : Nat) (v : Word) : M Unit := do
  checkSync y
  let _ ← syncUpdate y (fun _ => v)
  retire 4

/-- yts (R110). -/
def doYts (y : Nat) (rd : SReg) : M Unit := do
  checkSync y
  let old ← syncUpdate y (fun o => if o = 0 then 1 else o)
  writeX rd old
  retire 4

/-- yfad (R110). -/
def doYfad (y : Nat) (rd : SReg) (add : Word) : M Unit := do
  checkSync y
  let old ← syncUpdate y (fun o => o + add)
  writeX rd old
  retire 4

/-- ybar (R112, R113): n is tested first, then phase 1, then the wait of phase 2. -/
def doYbar (y : Nat) (n : Word) : M Unit := do
  notHandler
  if n = 0 then raise .syncOperand 0
  checkSync y
  let old ← syncUpdate y (fun o => o + 1)
  let goal : Word := BitVec.ofNat 64 ((old.toNat / n.toNat + 1) * n.toNat)
  let s ← getState
  if goal ≤ s.mirrorAt (dieOf s.cur) y then retire 4 else waitFor (.ybar y goal)

def execYld (y : BitVec 16) (reg : SReg) (s : State) : Host.Outcome State Fault Refusal := finish (doYld y.toNat reg) s
def execYst (y : BitVec 16) (reg : SReg) (s : State) : Host.Outcome State Fault Refusal :=
  finish (doYst y.toNat (s.ctx.x reg)) s
def execYts (y : BitVec 16) (reg : SReg) (s : State) : Host.Outcome State Fault Refusal := finish (doYts y.toNat reg) s
def execYfad (y : BitVec 16) (reg : SReg) (s : State) : Host.Outcome State Fault Refusal :=
  finish (doYfad y.toNat reg (s.ctx.x reg)) s
def execYbar (y : BitVec 16) (reg : SReg) (s : State) : Host.Outcome State Fault Refusal :=
  finish (doYbar y.toNat (s.ctx.x reg)) s

/-- The number of an indexed form: X(rs1)[15:0] (Table 3.9). -/
def syncIndex (c : Ctx) (rs1 : SReg) : Nat := (c.x rs1).toNat % 65536

def execYldX (rd rs1 : SReg) (s : State) : Host.Outcome State Fault Refusal := finish (doYld (syncIndex s.ctx rs1) rd) s
def execYstX (rs1 rs2 : SReg) (s : State) : Host.Outcome State Fault Refusal :=
  finish (doYst (syncIndex s.ctx rs1) (s.ctx.x rs2)) s
def execYtsX (rd rs1 : SReg) (s : State) : Host.Outcome State Fault Refusal := finish (doYts (syncIndex s.ctx rs1) rd) s
def execYfadX (rd rs1 rs2 : SReg) (s : State) : Host.Outcome State Fault Refusal :=
  finish (doYfad (syncIndex s.ctx rs1) rd (s.ctx.x rs2)) s
def execYbarX (rs1 rs2 : SReg) (s : State) : Host.Outcome State Fault Refusal :=
  finish (doYbar (syncIndex s.ctx rs1) (s.ctx.x rs2)) s

/-! ## swait -/

/-- The fields of a sync word (Table 6.7). -/
def swTarget (c : Core) (off : Nat) : Nat := readBytes c.scratch off 4
def swCount (c : Core) (off : Nat) : Nat := readBytes c.scratch (off + 4) 4
def swGen (c : Core) (off : Nat) : Nat := readBytes c.scratch (off + 8) 4
def swFlags (c : Core) (off : Nat) : Nat := readBytes c.scratch (off + 12) 4
def swPoison (c : Core) (off : Nat) : Bool := swFlags c off % 2 == 1

/-- `swait` returns: ((GEN − g) mod 2^32) < 2^31, or POISON (R116). -/
def swaitDone (c : Core) (off : Nat) (g : BitVec 32) : Bool :=
  decide ((swGen c off + (2 ^ 32 - g.toNat)) % 2 ^ 32 < 2 ^ 31) || swPoison c off

/-- The core of a context with the line of a sync word as the context reads it: the newest version of its chunk or of an
older one on the same core, or the committed line (R116, log 48). -/
def State.swaitCore (s : State) (n off : Nat) : Core :=
  let line := off / 128
  let c := s.core n
  match s.chunkOn n, (s.ring (ringOf n)).region with
  | some q, some r =>
    match (r.chunks.filter (fun o => decide (o.q ≤ q.q))).reverse.findSome? (fun o =>
        o.versions.find? (fun v => decide (v.line = .scratch n line))) with
    | some v => { c with scratch := writeBytes c.scratch (line * 128) 128 v.data.toNat }
    | none => c
  | _, _ => c

/-- swait (R116): an address that is not one of the own scratchpad through aw0, translated ones included, is refused
(Table 22.5). -/
def execSwait (rs1 rs2 : SReg) (s : State) : Host.Outcome State Fault Refusal :=
  finish (do
    notHandler
    let c ← getCtx
    let ea := c.x rs1
    if ea.toNat % 16 ≠ 0 then raise .misalignedAccess ea
    let s ← getState
    match untranslated s.cur ea.toNat with
    | some (.ok (.own 0 off)) =>
      let g := lowWord (c.x rs2)
      modState (fun s => s.meetScratch s.cur [(off, 16)])
      let s ← getState
      let w := s.swaitCore s.cur off
      if swaitDone w off g then
        modCtx (fun c => c.setK 0 (swPoison w off))
        acquire
        retire 4
      else waitFor (.swait off g)
    | _ => raise .accessTarget ea) s

/-! ## Fences -/

/-- fence (R117, R120): full, acq, rel or sc at a scope. -/
def execFence (ord : BitVec 2) (sc : BitVec 3) (s : State) : Host.Outcome State Fault Refusal :=
  finish (do
    if ord = ordSc then awaitEnsign
    let s ← getState
    if ord ≠ 1 ∧ !s.speculative then performed sc
    stampSc ord
    if ord ≠ 2 then acquire
    retire 4) s

/-- A step on its way was sent by core `n` on path MSG (Table 6.9). -/
def onMsgPath (n : Nat) : Instr → Bool
  | .messageArrival m => m.src == n && !m.host && m.peer.isNone
  | .mailboxMessage m => m.src == n
  | .peerMessage _ m => m.src == n
  | .launchMessage m => m.src == n
  | .farAtomicStep r => r.src == n && r.peer.isNone
  | .remoteStorePacket p => p.src == n
  | .mmrotPacket p => p.src == n
  | _ => false

/-- A step on its way is a contribution of core `n` to a combining buffer. -/
def onGwyPath (n : Nat) : Instr → Bool
  | .combineContribution c => c.core == n
  | _ => false

/-- A step on its way counts bytes that traffic of core `n` has written (R250). -/
def onCpyPath (n : Nat) : Instr → Bool
  | .syncWordCount w _ _ _ => w.src == n
  | _ => false

/-- An item that waits at a core: a far atomic, a remote store or an `mmrot` packet that core `n` sent and that is not
performed (R263), or a count of its traffic that is not applied. A packet of a copy belongs to the copy's path. -/
def heldMsg (n : Nat) : Held → Bool
  | .far r => r.peer.isNone && r.src == n
  | .packet p => p.copy.isNone && p.src == n
  | _ => false
def heldCount (n : Nat) : Held → Bool
  | .count w _ _ _ => w.src == n
  | _ => false

/-- An item that `f` holds for waits in a queue or an overflow area. -/
def State.waiting (s : State) (f : Held → Bool) : Bool :=
  s.cores.any (fun e => e.2.queue.any f || e.2.overflow.any (fun a => a.2.any f))

/-- Every access of the current core on a path is performed at scope `sc` (Table 6.9). -/
def pathDone (s : State) (sc : BitVec 3) (path : Nat) : Bool :=
  match path with
  | 0 => decide (sc.toNat < 3) || s.mirrorsDone (dieOf s.cur)
  | 1 => s.me.chans.all (fun e => e.2.transfers.all (fun t => t.fault.isSome || t.hnd != s.curH))
    && !s.flight.any (onCpyPath s.cur) && !s.waiting (heldCount s.cur)
  | 2 => s.me.chans.all (fun e => e.2.transfers.all (fun t => t.fault.isSome || t.follow.isNone || t.hnd != s.curH))
  | 3 => !s.flight.any (onMsgPath s.cur) && !s.waiting (heldMsg s.cur)
    && !s.peerOut.any (fun e => match e.2.2.2 with | .far r => r.src == s.cur | _ => false)
  | 4 => !s.flight.any (onGwyPath s.cur) && !s.combine.any (fun b => b.die == dieOf s.cur)
  | 6 => !s.peerOut.any (fun e => decide (e.2.2.2 = .context s.cur s.curH))
  | _ => true

/-- A fence.x with GWY in its earlier set empties the die's combining buffers (R253). -/
def flushCombining : M Unit := modState (fun s =>
  (s.combine.filter (fun b => b.die == dieOf s.cur)).foldl (fun s b => s.emptyBuffer b.die b.line) s)

/-- fence.x (R118, R120). -/
def execFenceX (sc : BitVec 3) (pa pb : BitVec 7) (s : State) : Host.Outcome State Fault Refusal :=
  finish (do
    awaitEnsign
    if pa.getLsbD 4 then flushCombining
    let s ← getState
    if (List.range 7).all (fun p => !pa.getLsbD p || pathDone s sc p) then
      if pb.getLsbD 0 then acquire
      retire 4
    else stall) s

/-- vdrain (R119): a vector memory instruction completes before the next instruction of its context issues. -/
def execVdrain (s : State) : Host.Outcome State Fault Refusal := s.plain 4 id

/-! ## Steps that complete waits -/

/-- A step performed for context `h` of core `n`. -/
def onContext (n : Nat) (h : Bool) (m : M Unit) (s : State) : Host.Outcome State Fault Refusal :=
  finish m { s with cur := n, curH := h }

/-- The wait of the current context ends. -/
def endWait : M Unit := modCtx (fun c => { c with wait := none })

/-- A mirror update on its way to a die. -/
def mirrorUpdateTo (die : Nat) : Instr → Bool
  | .syncMirrorUpdate d _ _ => d == die
  | _ => false

/-- SYNC_MIRROR_UPDATE (R17, R111): a die's mirrors apply their updates in the order in which they were made; one that
is not the first on its way to the die stays on its way. -/
def execSyncMirrorUpdate (die y : Nat) (value : BitVec 64) (s : State) : Host.Outcome State Fault Refusal :=
  if s.flight.find? (mirrorUpdateTo die) = some (.syncMirrorUpdate die y value) then
    .next ((s.take (.syncMirrorUpdate die y value)).setMirror die y value)
  else .next s

/-- YBAR_RELEASE (R112, R113): the die's mirror has reached the target of a waiting barrier. -/
def execYbarRelease (core : Nat) (s : State) : Host.Outcome State Fault Refusal :=
  match (s.core core).main.wait with
  | some (.ybar y goal) =>
    if goal ≤ s.mirrorAt (dieOf core) y ∧ (s.core core).awake then onContext core false (do endWait; acquire; retire 4) s else .next s
  | _ => .next s

/-- SWAIT_RETURN (R116). -/
def execSwaitReturn (core : Nat) (s : State) : Host.Outcome State Fault Refusal :=
  match (s.core core).main.wait with
  | some (.swait off g) =>
    let s := s.meetScratch core [(off, 16)]
    let w := s.swaitCore core off
    if swaitDone w off g then
      onContext core false (do
        endWait
        acquire
        modCtx (fun c => c.setK 0 (swPoison w off))
        retire 4) s
    else .next s
  | _ => .next s

end Sys2Proof.Machine
end

