-- ==== Sys2Proof/Machine/Messages.lean ====
section
/-! DEFINITION. Messages and handlers: sending, the arrival queue and its overflow areas, dispatch, the built-in
far-atomic step, and the network agent's work on scratchpads (R188–R192, R237–R249, R255, R260, R266). -/

namespace Sys2Proof.Machine
open Sys2Proof

/-! ## Arrival (R237–R240) -/

/-- The ring of core `n` runs a launch of the address space (R240, R317). A Curator core takes every message. -/
def State.runsAsid (s : State) (n asid : Nat) : Bool :=
  if isRingCore n then
    let r := s.ring (ringOf n)
    !r.stopped && (match r.running with | some l => l.asid == asid | none => false)
  else true

/-- The address space of a held item. -/
def heldAsid : Held → Nat
  | .msg m => m.asid
  | .far r => r.asid
  | .packet p => p.asid
  | .count _ asid _ _ => asid

/-- Class c of a core is bound; the far-atomic class always is (R191, R106). -/
def Core.bound (c : Core) (cls : Nat) : Bool := decide (Bank.get 0 c.classes cls ≠ 0)

/-- A queued item whose class is bound (R241). -/
def Core.ready (c : Core) : Held → Bool
  | .msg m => c.bound m.cls
  | .far _ => true
  | .packet _ => false
  | .count _ _ _ _ => false

/-- A message of the launch class at a head core, which never dispatches (R294). -/
def launchClass (n : Nat) : Held → Bool
  | .msg m => m.cls == 63 && isRingCore n && n % 8 == 0
  | _ => false

/-- An item may enter the arrival queue: 64 entries, at most 4 of one unbound class and 32 of unbound classes (R237). -/
def Core.mayEnter (c : Core) (h : Held) : Bool :=
  decide (c.queue.length < 64) &&
    match h with
    | .msg m =>
      c.bound m.cls ||
        (decide ((c.queue.filter (fun x => match x with | .msg y => y.cls == m.cls | _ => false)).length < 4)
          && decide ((c.queue.filter (fun x => !c.ready x)).length < 32))
    | .far _ => true
    | .packet _ => false
    | .count _ _ _ _ => false

/-- Bytes of an item in an overflow area (R238). -/
def heldSize : Held → Nat
  | .msg m => 16 + (m.len + 15) / 16 * 16
  | .far _ => 80
  | .packet p => 16 + (p.bytes + 15) / 16 * 16
  | .count _ _ _ _ => 16

/-- Bytes used of an overflow area. -/
def areaUsed (l : List Held) : Nat := l.foldl (fun n h => n + heldSize h) 0

/-- Operand words of a far atomic at its owner (Table 6.5). -/
def farPayload (r : FarReq) : BitVec 4096 :=
  BitVec.ofNat 4096 (r.ea.toNat + r.b.toNat * 2 ^ 64 + r.cmp.toNat * 2 ^ 128
    + (r.fn.toNat + (if r.dbl then 3 else 2) * 16) * 2 ^ 192)

/-- The answer of a far atomic's step travels to its issuer, or to the peer package it came from; that a frozen line refuses
one is logged (R107, R108, R356). -/
def State.farAnswer (s : State) (r : FarReq) (a : FarAnswer) : State :=
  match r.peer with
  | none => s.post (.farAtomicReply r a)
  | some p =>
    let s := if a = .failed .writeFrozen then s.logRefused 2 r.ea.toNat else s
    { s with answers := s.answers ++ [match a with
      | .old v => .peerData p ((List.range (if r.dbl then 8 else 4)).map (fun i => (v >>> (8 * i)).setWidth 8)) false
      | .failed c => .peerCause p c] }

/-- A dead-message record of a far atomic (R108, R370). -/
def State.deadFar (s : State) (n : Nat) (r : FarReq) (cause : Cause) (tval : Word) (ran : Bool) : State :=
  s.deadWrite n r.asid
    { sender := BitVec.ofNat 64 ((match r.peer with | some p => 2 ^ 62 + p * 2 ^ 32 | none => 0) + r.src), stamp := r.stamp,
      tval := tval, pc := 0, len := 64, cls := 0x40,
      code := cause.code, re := r.reply, refused := r.reply, replied := false, notRun := !ran,
      count := if ran then 1 else 0, payload := farPayload r }

/-- The package-global address of a byte of core `n`'s scratchpad (R260). -/
def scratchAddr (n off : Nat) : Word := BitVec.ofNat 64 (Config.globalScratch + n * 0x800000 + off)

/-- The first byte of a line that a mask of bits touches. -/
def firstTouched (mask : BitVec 1024) : Nat := ((List.range 128).find? (fun i => bits mask.toNat (8 * i) 8 != 0)).getD 0

/-- The network agent of core `n` refuses an item (R239). TVAL of its record is the accessed address, where it has one
(Table 22.5). -/
def State.refuse (s : State) (n : Nat) : Held → State
  | .msg m =>
    if m.re then s.sendMsg (refusalOf m .messageOverflow (s.core n).lts)
    else s.deadMessage n m .messageOverflow 0 0 0 false true
  | .far r =>
    if r.reply then s.farAnswer r (.failed .messageOverflow) else s.deadFar n r .messageOverflow r.ea false
  | .packet p =>
    s.deadWrite n p.asid
      { sender := BitVec.ofNat 64 p.src, stamp := 0, tval := scratchAddr n (p.line * 128 + firstTouched p.mask), pc := 0, len := p.bytes, cls := 0,
        code := Cause.messageOverflow.code, re := false, refused := false, replied := false, notRun := true, count := 0,
        payload := p.data.setWidth 4096 }
  | .count way asid off k =>
    s.deadWrite n asid
      { sender := BitVec.ofNat 64 way.src, stamp := 0, tval := scratchAddr n off, pc := 0, len := k, cls := 0,
        code := Cause.messageOverflow.code, re := false, refused := false, replied := false, notRun := true, count := 0,
        payload := 0 }

/-- A core that runs at S has a message for its `halt` (R200). -/
def State.wake (s : State) (n : Nat) : State := if (s.core n).prv then s.post (.haltEvent n) else s

/-- Bytes of a line that a mask of bits touches. -/
def bytesTouched (mask : BitVec 1024) : BitVec 128 :=
  BitVec.ofNat 128 (pack 1 ((elems 8 128 mask.toNat).map (fun b => bit (decide (b ≠ 0)))))

/-- The bytes of its core's scratchpad that an item acts on: a line with a mask of bytes. -/
def heldPlace : Held → Option (Nat × Nat)
  | .msg _ => none
  | .far r =>
    match r.loc with
    | .scratch _ off => some (off / 128, maskBits (off % 128) (if r.dbl then 8 else 4))
    | _ => none
  | .packet p => some (p.line, (bytesTouched p.mask).toNat)
  | .count _ _ off _ => some (off / 128, maskBits (off % 128) 16)

/-- Two packets of one sender. -/
def sameSender : Held → Held → Bool
  | .packet p, .packet q => p.src == q.src
  | _, _ => false

/-- Two items keep their order: they act on a common byte (R260, Table 12.3), or are packets of one sender to one line
(R266). -/
def heldMeets (h k : Held) : Bool :=
  match heldPlace h, heldPlace k with
  | some a, some b => a.1 == b.1 && (a.2 &&& b.2 != 0 || sameSender h k)
  | _, _ => false

/-- An item for another address space, or one that the queue does not take, goes to its overflow area (R238, R240). -/
def State.spill (s : State) (n : Nat) (h : Held) : State :=
  match Bank.find (s.core n).overflow (heldAsid h) with
  | none => s.refuse n h
  | some l =>
    if areaUsed l + heldSize h ≤ Config.overflowBytes then
      s.mapCore n (fun c => { c with overflow := Bank.put c.overflow (heldAsid h) (l ++ [h]) })
    else s.refuse n h

/-- The network agent of core `n` accepts a message or a far atomic (R237), whose arrival is an event for a main context at
S, whichever address space it comes from (R200). A core of a compute-dropped die takes none (R383). -/
def State.accept (s : State) (n : Nat) (h : Held) : State :=
  let c := s.core n
  if (Bank.find s.dropped (dieOf n)).isSome && isRingCore n then s.refuse n h
  else if !s.runsAsid n (heldAsid h) then (s.spill n h).wake n
  else
    let area := (Bank.find c.overflow (heldAsid h)).getD []
    if c.mayEnter h && !area.any c.mayEnter && !area.any (heldMeets h) then (s.setCore n { c with queue := c.queue ++ [h] }).wake n
    else (s.spill n h).wake n

/-- The oldest item of a list that a core's queue may take, with the list without it. A far atomic stays behind an earlier
write to its bytes, one in `before` (R260). -/
def takeEntering (c : Core) : List Held → List Held → Option (Held × List Held)
  | _, [] => none
  | before, h :: t =>
    if c.mayEnter h && !before.any (heldMeets h) then some (h, t)
    else match takeEntering c (before ++ [h]) t with
      | some (x, l) => some (x, h :: l)
      | none => none

/-- A queue entry has freed: the oldest message of the running address space's overflow area that may enter does
(R237). -/
def State.refill (s : State) (n asid : Nat) : State :=
  let c := s.core n
  match takeEntering c [] ((Bank.find c.overflow asid).getD []) with
  | none => s
  | some (h, l) => s.setCore n { c with queue := c.queue ++ [h], overflow := Bank.put c.overflow asid l }

/-- count_bytes (R249). -/
def Core.countBytes (c : Core) (off n : Nat) : Core :=
  let tgt := swTarget c off
  if swPoison c off ∨ tgt = 0 then c
  else
    let total := swCount c off + n
    let gen := (swGen c off + total / tgt) % 2 ^ 32
    -- one store of bytes 4–11 by the core's agent
    c.agentWrite (off / 128) (BitVec.ofNat 1024 ((total % tgt + gen * 2 ^ 32) * 2 ^ (8 * (off % 128 + 4))))
      (BitVec.ofNat 1024 (maskBits (8 * (off % 128 + 4)) 64)) 0

/-! ## Scratchpad writes by the network agent -/

/-- The element of a reduce-add (R168): a format, or an integer's width. -/
def addFmt (etype : BitVec 3) : Option Fmt × Nat :=
  match etype.toNat with
  | 0 => (some fp32, 32) | 1 => (some fp16, 16) | 2 => (some bf16, 16) | 3 => (some fp64, 64)
  | 4 => (none, 32) | _ => (none, 64)

/-- One addition of a reduce-add: rounded under RNE, or wrapping (R168, R345). -/
def addElem (etype : BitVec 3) (a b : Nat) : Nat :=
  match addFmt etype with
  | (some f, _) => (f.addV .rne (f.decode a) (f.decode b)).code
  | (none, w) => (a + b) % 2 ^ w

/-- The elements of `old` to which those of `new` that `mask` names by their first byte are added. -/
def reduceAdd (etype : BitVec 3) (old new : BitVec 1024) (mask : BitVec 128) : BitVec 1024 :=
  let w := (addFmt etype).2
  BitVec.ofNat 1024 (pack w ((List.range (1024 / w)).map (fun i =>
    let a := bits old.toNat (w * i) w
    if mask.getLsbD (w / 8 * i) then addElem etype a (bits new.toNat (w * i) w) else a)))

/-- A packet is applied at its core, indivisibly (R266), and its bytes are counted (R250). A poisoned element that is
added poisons what it is added to, and a poisoned destination stays so (R170). -/
def State.applyPacket (s : State) (p : Packet) : State :=
  let s := s.mapCore p.dst (fun c =>
    match p.add with
    | none => c.agentWrite p.line p.data p.mask p.poison
    | some e =>
      let keep := BitVec.ofNat 8 (linePoison c.scratchPoison p.line 8)
      c.agentWrite p.line (reduceAdd e (c.scratchLine p.line) p.data (bytesTouched p.mask)) p.mask (p.poison ||| keep))
  match p.sync with
  | some (w, off) => s.post (.syncWordCount ⟨p.src, w, p.left⟩ p.asid off p.bytes)
  | none => s

/-- An item that the address space's overflow area still holds comes before `h` (R260). -/
def State.heldBefore (s : State) (n : Nat) (h : Held) : Bool :=
  ((Bank.find (s.core n).overflow (heldAsid h)).getD []).any (heldMeets h)

/-- A packet reaches its core: it is applied, or held in the address space's overflow area, as it is behind an earlier
item there that acts on its bytes (R260). -/
def State.packetArrives (s : State) (p : Packet) : State :=
  if s.runsAsid p.dst p.asid && !s.heldBefore p.dst (.packet p) then s.applyPacket p else s.spill p.dst (.packet p)

/-- A held write of core `n` stands behind an item that came before it and acts on its bytes: one in `kept`, or a far atomic
in the queue (R260, R266, R267). -/
def State.writeWaits (s : State) (n : Nat) (kept : List Held) (h : Held) : Bool := (kept ++ (s.core n).queue).any (heldMeets h)

/-- A message or a far atomic may leave the area for the queue: the queue takes it, and no earlier write to its bytes stands
in `kept` (R237, R260). -/
def Core.enters (c : Core) (kept : List Held) (h : Held) : Bool := c.mayEnter h && !kept.any (heldMeets h)

/-- An overflow area drains, in arrival order: writes are applied, and where `enter` holds messages enter the queue while it
takes them (R237, R240, R260, R317). `kept` is what stays of the items before. -/
def drainArea (n : Nat) (enter : Bool) : List Held → List Held → State → State × List Held
  | [], kept, s => (s, kept)
  | h :: t, kept, s =>
    match h with
    | .packet p =>
      if s.writeWaits n kept h then drainArea n enter t (kept ++ [h]) s else drainArea n enter t kept (s.applyPacket p)
    | .count _ _ off k =>
      if s.writeWaits n kept h then drainArea n enter t (kept ++ [h]) s
      else drainArea n enter t kept (s.mapCore n (fun c => c.countBytes off k))
    | h =>
      if enter && (s.core n).enters kept h then
        drainArea n enter t kept (s.mapCore n (fun c => { c with queue := c.queue ++ [h] }))
      else drainArea n enter t (kept ++ [h]) s

/-- The overflow area of an address space drains on core `n`. -/
def State.drainHeld (s : State) (n asid : Nat) (enter : Bool) : State :=
  match Bank.find (s.core n).overflow asid with
  | none => s
  | some l =>
    let r := drainArea n enter l [] s
    r.1.mapCore n (fun c => { c with overflow := Bank.put c.overflow asid r.2 })

/-- The address space runs again: its area drains (R237, R317). -/
def State.drainOverflow (s : State) (n asid : Nat) : State := s.drainHeld n asid true

/-- A far atomic has been performed: the writes that it held back are applied (R260). -/
def State.drainWrites (s : State) (n asid : Nat) : State := s.drainHeld n asid false

/-- The queue's messages move to the front of their address space's overflow area (R240); without an area they stay. -/
def State.queueToOverflow (s : State) (n asid : Nat) : State :=
  s.mapCore n (fun c =>
    { c with overflow := Bank.put c.overflow asid (c.queue ++ (Bank.find c.overflow asid).getD []), queue := [] })

/-! ## The built-in step (R247, R106) -/

/-- How an attempt at a far atomic's step ends. -/
inductive FarTry where
  | wait (s : State)
  | failed (c : Cause) (tval : Word)
  | done (s : State) (old : Word)

/-- Where the owner finds the location: it translates an address of the translated region again, in the message's address
space (R108, R311); a peer's access names a place of the peer window. The scratchpads of a compute-dropped die are out of
reach (R383). -/
def farPlace (s : State) (n : Nat) (r : FarReq) : Except Failed Loc :=
  match r.loc with
  | .hbm pa =>
    if r.peer.isSome then .ok (.hbm pa)
    else match findLeaf s n (s.core n).tlb r.asid (s.core n).ptbase.toNat .modify r.ea.toNat with
      | .error f => .error f
      | .ok (e, _) =>
        match leafTarget s e r.ea.toNat with
        | .ok (.hbm pa') => .ok (.hbm pa')
        | .ok _ => .error (.accessTarget, r.ea)
        | .error f => .error f
  | .scratch c off => if (Bank.find s.dropped (dieOf c)).isSome then .error (.accessTarget, r.ea) else .ok (.scratch c off)
  | l => .ok l

/-- The owner's access at the line's coherence point, as a local atomic of core `n` with order rlx, at a logical time not
below the message's stamp (R245). -/
def farTry (s : State) (n : Nat) (r : FarReq) : FarTry :=
  let bytes := if r.dbl then 8 else 4
  let fn := r.fn.toNat
  let go (s : State) (l : LineId) (off : Nat) : FarTry :=
    let s := s.meet (lineHolds l)
    let at' := { s.mapCore n (fun c => { c with lts := Nat.max c.lts r.stamp }) with cur := n, curH := true }
    if at'.linePoisoned l off bytes then .failed .poisonConsumed r.ea
    else
      let m := bits (at'.ownedData l).toNat (8 * off) (8 * bytes)
      let t := if atomicWrites fn bytes m r.cmp.toNat then
          let w := atomicNew fn bytes m r.b.toNat r.cmp.toNat
          at'.coreWrite l (BitVec.ofNat 1024 (w * 2 ^ (8 * off))) (BitVec.ofNat 128 (maskBits off bytes))
        else at'.atomicLease l
      .done { t with cur := s.cur, curH := s.curH } (atomicOld r.dbl m)
  match farPlace s n r with
  | .error f => .failed f.1 f.2
  | .ok (.scratch c off) => if s.lockedBy (.scratch c (off / 128)) none then .wait s else go s (.scratch c (off / 128)) (off % 128)
  | .ok (.hbm pa) =>
    let line := lineOf pa
    let die := dieOf n
    match s.frame pa with
    | .frozen => .failed .writeFrozen r.ea
    | .sealing => .wait s
    | .collecting => .wait s
    | .plain =>
      let s := if s.tagErrors = [] then s else s.meetTag (.annex die line)
      if s.lockedBy (.hbm line) none then .wait s
      else if s.combines die line then .wait (s.emptyBuffer die line)
      else
        let s := if (s.annexLine die line).st = .f then s.setAnnex die line { asked := (s.annexLine die line).asked } else s
        if s.writable die line then go s (.hbm line) (pa % 128) else .wait (s.ask die line (s.writeRequest die line))
  | .ok _ => .failed .accessTarget r.ea

/-! ## Dispatch (R241, R245, R23) -/

/-- The token of the next message that expects a reply; never 0 (R23). -/
def tokenOf (n : Nat) : Word := if Config.replyToken n = 0 then 1 else Config.replyToken n

/-- Handler-context state at entry (R23, Table 1.7). -/
def entryCtx (n : Nat) (entry : Word) (m : Msg) (token : Word) : Ctx :=
  let word (i : Nat) : Word := BitVec.ofNat 64 (m.payload.toNat / 2 ^ (64 * i))
  let c := { (Core.reset n).hnd with pc := entry }
  let c := c.setX 1 (BitVec.ofNat 64 m.cls) |>.setX 2 (senderWord m) |>.setX 3 (BitVec.ofNat 64 m.stamp)
    |>.setX 4 token |>.setX 5 (BitVec.ofNat 64 m.len)
  if m.vec then { c with v := Bank.set 0 c.v 0 (m.payload &&& BitVec.ofNat 4096 (2 ^ (8 * m.len) - 1)) }
  else (List.range 8).foldl (fun c i => c.setX (BitVec.ofNat 6 (8 + i)) (word i)) c

/-- A core at a dispatch boundary whose agent may start a handler (R241, R258, R240). -/
def Core.atBoundary (c : Core) : Bool := c.run.isNone && !c.halted && !c.haltReq && !c.stopped && !c.fenced

/-- An item may dispatch at core `n` (R241, R294). A stop ends the dispatch of messages (R240); far atomics go on, since
their issuers' stop waits for the replies (R109, Table 18.6). -/
def Core.mayDispatch (n : Nat) (c : Core) (h : Held) : Bool :=
  c.ready h && !launchClass n h && (!c.stopReq || match h with | .far _ => true | _ => false)

/-- The oldest item that may dispatch at core `n`, with the queue without it (R241, R294). -/
def takeReady (n : Nat) (c : Core) : List Held → Option (Held × List Held)
  | [] => none
  | h :: t =>
    if c.mayDispatch n h then some (h, t)
    else match takeReady n c t with
      | some (x, l) => some (x, h :: l)
      | none => none

/-- A dispatch at core `n`: a handler starts, or a far atomic's step is performed (R241, R247). -/
def State.dispatch (s : State) (n : Nat) : State :=
  let c := s.core n
  if !c.atBoundary then s
  else match takeReady n c c.queue with
    | none => s
    | some (h, q) =>
      let begun (s : State) (stamp : Nat) : State := s.mapCore n (fun c => { c.acquire with queue := q, lts := Nat.max c.lts stamp })
      let started (s : State) (stamp : Nat) : State := (begun s stamp).refill n (heldAsid h)
      -- the writes that a far atomic held back come before what the freed entry lets in
      let stepped (s : State) (r : FarReq) : State := ((begun s r.stamp).drainWrites n r.asid).refill n r.asid
      match h with
      | .packet _ => s
      | .count _ _ _ _ => s
      | .msg m =>
        let token := if m.re then tokenOf c.tokens else 0
        (started s m.stamp).mapCore n (fun c =>
          { c with
            run := some { msg := m, token := token }
            hnd := entryCtx n (Bank.get 0 c.classes m.cls) m token
            tokens := if m.re then c.tokens + 1 else c.tokens })
      | .far r =>
        match farTry s n r with
        | .wait s => s
        | .failed cause tval =>
          let s := (stepped s r).deadFar n r cause tval true
          if r.reply then s.farAnswer r (.failed cause) else s
        | .done s v =>
          let s := stepped s r
          if r.reply then s.farAnswer r (.old v) else s

/-! ## The message instructions (R188–R192) -/

/-- The destination word is well formed for a sender at S or U (R188), from package `pkg` (R357). -/
def destOk (w : Nat) (atS : Bool) (pkg : Nat) : Bool :=
  let host := bits w 22 1 == 1
  let peer := bits w 23 1 == 1
  let re := bits w 24 1 == 1
  let core := bits w 0 16
  let pk := bits w 32 10
  bits w 42 22 == 0 && bits w 31 1 == 0 && (peer || pk == 0)
    && !(host && (core != 0 || peer || pk != 0 || re))
    && decide (core ≤ if atS then 779 else 767)
    && !(peer && pk == pkg)

/-- The message that a destination word, a payload and a sender make. -/
def messageTo (w : Nat) (src asid stamp : Nat) (vec : Bool) (len : Nat) (payload : BitVec 4096) : Msg :=
  { src := src, host := false, peer := none, vec := vec, dst := bits w 0 16, toHost := bits w 22 1 == 1,
    toPeer := if bits w 23 1 = 1 then some (bits w 32 10) else none, cls := bits w 16 6, asid := asid, stamp := stamp,
    re := bits w 24 1 == 1, rclass := bits w 25 6, len := len, payload := payload }

/-- A message of class 63 to a head core of this package is the launch agent's (R294). -/
def toLaunchAgent (m : Msg) : Bool :=
  m.cls == 63 && !m.toHost && m.toPeer.isNone && isRingCore m.dst && m.dst % 8 == 0

/-- A sent message enters the network. -/
def State.launchOrSend (s : State) (m : Msg) : State := if toLaunchAgent m then s.post (.launchMessage m) else s.sendMsg m

/-- The eight payload registers from rs2 (R189). -/
def payloadRegs (c : Ctx) (rs2 : SReg) : BitVec 4096 :=
  BitVec.ofNat 4096 (pack 64 ((List.range 8).map (fun i => (c.x (rs2 + BitVec.ofNat 6 i)).toNat)))

/-- Sends after the checks of R188 and the wait of R192. -/
def doSend (w : Word) (vec : Bool) (len : Nat) (payload : BitVec 4096) : M Unit := do
  let s ← getState
  require (destOk w.toNat s.atS s.pkgNo) .messageConfiguration
  if vec then require (decide (1 ≤ len) && decide (len ≤ 512)) .messageConfiguration
  awaitEnsign
  modState (fun s => s.launchOrSend (messageTo w.toNat s.cur s.me.asid.toNat s.me.lts vec len payload))
  retire 4

/-- send (R189). -/
def execSend (rs1 rs2 : SReg) (s : State) : Host.Outcome State Fault Refusal :=
  finish (doSend (s.ctx.x rs1) false 64 (payloadRegs s.ctx rs2)) s

/-- sendv (R189). -/
def execSendv (rs1 : SReg) (vs : VReg) (rs2 : SReg) (s : State) : Host.Outcome State Fault Refusal :=
  let len := (s.ctx.x rs2).toNat
  finish (do
    if s.curH then require (decide (vs.toNat < 4)) .illegalInstruction
    doSend (s.ctx.x rs1) true len (s.ctx.vr vs &&& BitVec.ofNat 4096 (2 ^ (8 * Nat.min len 512) - 1))) s

/-- reply (R190). -/
def execReply (rs1 rs2 : SReg) (s : State) : Host.Outcome State Fault Refusal :=
  finish (do
    let s ← getState
    if !s.curH then raiseHere .handlerState
    match s.me.run with
    | none => raiseHere .messageConfiguration
    | some h =>
      let t := s.ctx.x rs1
      if t = 0 ∨ t ≠ h.token ∨ h.replied then raiseHere .messageConfiguration
      let m : Msg :=
        { src := s.cur, host := false, peer := none, vec := false, dst := h.msg.src, toHost := false, toPeer := h.msg.peer,
          cls := h.msg.rclass, asid := s.me.asid.toNat, stamp := s.me.lts, re := false, rclass := 0, len := 64,
          payload := payloadRegs s.ctx rs2 }
      modState (fun s => (s.sendMsg m).mapCore s.cur (fun c => { c with run := some { h with replied := true } }))
      retire 4) s

/-- hbind (R191). -/
def execHbind (rs1 rs2 : SReg) (s : State) : Host.Outcome State Fault Refusal :=
  finish (do
    let c ← getCtx
    let cls := c.x rs1
    let entry := c.x rs2
    require (decide (cls.toNat ≤ 63) && !entry.getLsbD 0) .messageConfiguration
    awaitEnsign
    modCore (fun k => { k with classes := Bank.set 0 k.classes cls.toNat entry })
    retire 4) s

/-- hend (R191): the handler's registers are discarded, and its pins end (R247). -/
def doHend : M Unit := do
  loopHazard
  let s ← getState
  if !s.curH then raiseHere .handlerState
  modState (fun s =>
    { s.mapCore s.cur (fun c => { c with run := none, hnd := (Core.reset s.cur).hnd }) with
      pins := s.pins.filter (fun p => p.2 != s.cur) })

/-- hend (R191). -/
def execHend (s : State) : Host.Outcome State Fault Refusal := finish doHend s
/-- c.hend (R191). -/
def execCHend (s : State) : Host.Outcome State Fault Refusal := finish doHend s

/-! ## Steps of the network agents -/

/-- A message or far atomic of a core, of this package or of a peer, to a core (R189, R355). -/
def sameRoute (peer : Option Nat) (src dst : Nat) : Instr → Bool
  | .messageArrival m => !m.host && m.peer == peer && m.src == src && m.dst == dst
  | .launchMessage m => !m.host && m.peer == peer && m.src == src && m.dst == dst
  | .farAtomicStep r => r.peer == peer && r.src == src && r.owner == dst
  | _ => false

/-- Nothing that `f` holds for stands before `i` among the steps on their way. -/
def State.firstOf (s : State) (f : Instr → Bool) (i : Instr) : Bool := (s.flight.find? f == some i) || !s.flight.any f

/-- MESSAGE_ARRIVAL (R237): messages of one core to one core arrive in the order sent. -/
def execMessageArrival (m : Msg) (s : State) : Host.Outcome State Fault Refusal :=
  if !m.host && !s.firstOf (sameRoute m.peer m.src m.dst) (.messageArrival m) then .next s
  else if s.agentFails m.dst then .next (s.checkUnit m.dst Upset.ofAgent)
  else .next (((s.checkUnit m.dst Upset.ofAgent).take (.messageArrival m)).accept m.dst (.msg m))

/-- HANDLER_DISPATCH (R241). -/
def execHandlerDispatch (core : Nat) (s : State) : Host.Outcome State Fault Refusal := .next (s.dispatch core)

/-- HANDLER_BUDGET (R243): an attempt to issue a 513th instruction, once the 512th has completed. -/
def execHandlerBudget (core : Nat) (s : State) : Host.Outcome State Fault Refusal :=
  match (s.core core).run with
  | some h => if 512 ≤ h.count ∧ (s.core core).hnd.issued = false ∧ (s.core core).hnd.wait = none then .next (s.abortHandler core .handlerBudget (s.core core).hnd.pc) else .next s
  | none => .next s

/-- An access of a sender on the MSG path to a line of a scratchpad: sender, core, line, bytes of the line, and whether it
is a packet (R266, log 72). -/
def msgAccess : Instr → Option (Nat × Nat × Nat × Nat × Bool)
  | .remoteStorePacket p => some (p.src, p.dst, p.line, (bytesTouched p.mask).toNat, true)
  | .mmrotPacket p => some (p.src, p.dst, p.line, 0, true)
  | .remoteLoad r => some (r.src, r.dst, r.off / 128, maskBits (r.off % 128) (2 ^ r.sz.toNat), false)
  | .farAtomicStep r =>
    match r.loc with
    | .scratch c off => if r.peer.isNone then some (r.src, c, off / 128, maskBits (off % 128) (if r.dbl then 8 else 4), false) else none
    | _ => none
  | _ => none

/-- Two accesses of one sender that keep their order: packets to one line (R266), and accesses to one location on the MSG
path (Table 12.3). -/
def msgOrdered (i j : Instr) : Bool :=
  match msgAccess i, msgAccess j with
  | some (a, c, l, m, p), some (a', c', l', m', p') => a == a' && c == c' && l == l' && ((p && p') || m &&& m' != 0)
  | _, _ => false

/-- An earlier access that keeps its order with step `i` is on its way, or is a far atomic that waits at the core `n`
for its handler context, or a write that waits behind one there (R266, R267). -/
def State.msgWaits (s : State) (n asid : Nat) (i : Instr) : Bool :=
  let earlier : Held → Bool := fun h => match h with
    | .far r => msgOrdered (.farAtomicStep r) i
    | .packet p => msgOrdered (.remoteStorePacket p) i
    | _ => false
  (s.flight.takeWhile (fun j => decide (j ≠ i))).any (msgOrdered i)
    || (s.runsAsid n asid && ((s.core n).queue.any earlier || ((Bank.find (s.core n).overflow asid).getD []).any earlier))

/-- FAR_ATOMIC_STEP (R106, R246, R247): a far atomic reaches its owner, which performs it as soon as its handler context
is at a dispatch boundary and nothing older waits there. One that reaches a compute-dropped die goes on to its new
owner (R383). -/
def execFarAtomicStep (r : FarReq) (s : State) : Host.Outcome State Fault Refusal :=
  let i : Instr := .farAtomicStep r
  if !s.firstOf (sameRoute r.peer r.src r.owner) i || (r.peer.isNone && (s.flight.takeWhile (fun j => decide (j ≠ i))).any (msgOrdered i)) then
    .next s
  else
    let s := s.take i
    let now := s.standIn r.owner
    if isRingCore r.owner && decide (now ≠ r.owner) then
      .next (s.post (.farAtomicStep { r with owner := now }))
    else .next ((s.accept r.owner (.far r)).dispatch r.owner)

/-- The instruction that waits for a far atomic's old value completes, or raises the owner's cause (R107, R108). -/
def farReturns (answer : FarAnswer) (ea : Word) (rd : SReg) : M Unit := do
  endWait
  match answer with
  | .old v =>
    writeX rd v
    retire 4
  | .failed c => raise c ea

/-- FAR_ATOMIC_REPLY (R107, R108). -/
def execFarAtomicReply (r : FarReq) (answer : FarAnswer) (s : State) : Host.Outcome State Fault Refusal :=
  let s := s.take (.farAtomicReply r answer)
  match ((s.core r.src).ctx r.hnd).wait with
  | some (.farReply rd) => onContext r.src r.hnd (farReturns answer r.ea rd) s
  | _ => .next s

/-- A commit holds a line of a scratchpad locked: accesses wait there (R222). -/
def State.scratchLocked (s : State) (n line : Nat) : Bool := s.lockedBy (.scratch n line) none

/-- REMOTE_STORE_PACKET (R266): packets of one sender to one line are applied in the order sent. -/
def execRemoteStorePacket (p : Packet) (s : State) : Host.Outcome State Fault Refusal :=
  let i : Instr := .remoteStorePacket p
  if s.msgWaits p.dst p.asid i || s.scratchLocked p.dst p.line then .next s
  else if s.agentFails p.dst then .next (s.checkUnit p.dst Upset.ofAgent)
  else .next (((s.checkUnit p.dst Upset.ofAgent).take i).packetArrives p)

/-- An earlier packet of the same sender to the same line is on its way (R266). -/
def State.packetWaits (s : State) (i : Instr) : Bool := (s.flight.takeWhile (fun j => decide (j ≠ i))).any (msgOrdered i)

/-- MMROT_PACKET (R255, R266). -/
def execMmrotPacket (p : Packet) (s : State) : Host.Outcome State Fault Refusal :=
  if s.packetWaits (.mmrotPacket p) || s.scratchLocked p.dst p.line then .next s
  else if s.agentFails p.dst then .next (s.checkUnit p.dst Upset.ofAgent)
  else .next (((s.checkUnit p.dst Upset.ofAgent).take (.mmrotPacket p)).packetArrives p)

/-- The context that waits for a load of another place completes with a value or raises a cause. -/
def loadReturns (v : Except Cause Nat) (ea : Word) (rd : SReg) (sz : BitVec 2) (sx : Bool) : M Unit := do
  endWait
  match v with
  | .ok n =>
    writeX rd (extend sz sx n)
    retire 4
  | .error c => raise c ea

/-- REMOTE_LOAD (R260, R266): the agent reads its scratchpad, or refuses when its ring runs another address space. -/
def execRemoteLoad (r : RemoteLoadReq) (s : State) : Host.Outcome State Fault Refusal :=
  if s.msgWaits r.dst r.asid (.remoteLoad r) || s.scratchLocked r.dst (r.off / 128) then .next s
  else if s.agentFails r.dst then .next (s.checkUnit r.dst Upset.ofAgent)
  else
  let n := 2 ^ r.sz.toNat
  let s := (s.checkUnit r.dst Upset.ofAgent).take (.remoteLoad r)
  let s := if s.runsAsid r.dst r.asid then s.meetScratch r.dst [(r.off, n)] else s
  let c := s.core r.dst
  let v : Except Cause Nat :=
    if !s.runsAsid r.dst r.asid then .error .accessTarget
    else if poisoned c.scratchPoison r.off n then .error .poisonConsumed
    else .ok (readBytes c.scratch r.off n)
  match ((s.core r.src).ctx r.hnd).wait with
  | some (.remoteLoad (.scratch _ _) ea rd sz sx) => onContext r.src r.hnd (loadReturns v ea rd sz sx) s
  | _ => .next s

/-- SYNC_WORD_COUNT (R249, R250): the word's core counts, or holds the count until its address space runs again. -/
def execSyncWordCount (way : CountWay) (asid off n : Nat) (s : State) : Host.Outcome State Fault Refusal :=
  if s.scratchLocked way.core (off / 128) then .next s
  else
  let s := s.take (.syncWordCount way asid off n)
  let h : Held := .count way asid off n
  .next (if s.runsAsid way.core asid && !s.heldBefore way.core h then s.mapCore way.core (fun c => c.countBytes off n)
    else s.spill way.core h)

end Sys2Proof.Machine
end

