-- ==== Sys2Proof/Machine/Special.lean ====
section
/-! DEFINITION. The special functions (R141, Table 7.7): each value is enclosed between two fixed-point bounds, and the
bounds are tightened until both round to the same number, which is then the one correct rounding. -/

namespace Sys2Proof.Machine
open Sys2Proof

/-! ## Intervals in units of 2 ^ −p -/

/-- Two bounds of a real number. -/
abbrev Itv := Int × Int

/-- ⌈a / b⌉. -/
def cdiv (a : Int) (b : Nat) : Int := -((-a).fdiv b)

/-- The interval divided by a positive number. -/
def Itv.div (x : Itv) (n : Nat) : Itv := (x.1.fdiv n, cdiv x.2 n)

/-- The product of two intervals in units of 2 ^ −p. -/
def Itv.mul (p : Nat) (x y : Itv) : Itv :=
  let a := x.1 * y.1
  let b := x.1 * y.2
  let c := x.2 * y.1
  let d := x.2 * y.2
  Itv.div (min (min a b) (min c d), max (max a b) (max c d)) (2 ^ p)

def Itv.add (x y : Itv) : Itv := (x.1 + y.1, x.2 + y.2)
def Itv.sub (x y : Itv) : Itv := (x.1 - y.2, x.2 - y.1)
def Itv.neg (x : Itv) : Itv := (-x.2, -x.1)

/-- x / y for a positive interval y. -/
def Itv.quot (p : Nat) (x y : Itv) : Itv :=
  let s : Int := 2 ^ p
  let lo := if 0 ≤ x.1 then (x.1 * s).fdiv y.2 else (x.1 * s).fdiv y.1
  let hi := if 0 ≤ x.2 then cdiv (x.2 * s) y.1.toNat else cdiv (x.2 * s) y.2.toNat
  (lo, hi)

/-- The rational num / den × 2 ^ e, enclosed. -/
def Itv.ofRat (p num den : Nat) (e : Int) : Itv :=
  let (k, r, _) := scaled num den e (-(p : Int))
  ((k : Int), (k : Int) + bit (decide (r ≠ 0)))

/-- The sum of a series of non-negative terms: the next term is `f k t`, the k-th is counted with `g k t`. It stops when
a term is at most one unit, and the rest is at most twice that. -/
def sumSeries (f g : Nat → Itv → Itv) (sign : Nat → Bool) : Nat → Nat → Itv → Itv → Itv
  | 0, _, _, s => (s.1 - 4, s.2 + 4)
  | n + 1, k, t, s =>
    let u := g k t
    let s' := if sign k then s.sub u else s.add u
    if t.2 ≤ 1 then (s'.1 - 4, s'.2 + 4) else sumSeries f g sign n (k + 1) (f k t) s'

/-- e ^ y for 0 ≤ y < 1. -/
def expSmall (p : Nat) (y : Itv) : Itv :=
  sumSeries (fun k t => (Itv.mul p t y).div (k + 1)) (fun _ t => t) (fun _ => false) (2 * p + 64) 0 (2 ^ p, 2 ^ p) (0, 0)

/-- 2 · atanh z for the rational 0 ≤ z = num / den ≤ 1/3: the logarithm of (1 + z) / (1 − z). -/
def atanh2 (p num den : Nat) : Itv :=
  let z := Itv.ofRat p num den 0
  let z2 := Itv.ofRat p (num * num) (den * den) 0
  let r := sumSeries (fun _ t => Itv.mul p t z2) (fun k t => t.div (2 * k + 1)) (fun _ => false) (2 * p + 64) 0 z (0, 0)
  (2 * r.1, 2 * r.2)

/-- ln 2. -/
def ln2 (p : Nat) : Itv := atanh2 p 1 3

/-- atan (1 / n). -/
def atanInv (p n : Nat) : Itv :=
  sumSeries (fun _ t => t.div (n * n)) (fun k t => t.div (2 * k + 1)) (fun k => k % 2 == 1) (2 * p + 64) 0
    (Itv.ofRat p 1 n 0) (0, 0)

/-- π by Machin's formula. -/
def piItv (p : Nat) : Itv :=
  let a := atanInv p 5
  let b := atanInv p 239
  Itv.sub (16 * a.1, 16 * a.2) (4 * b.1, 4 * b.2)

/-- e ^ y for 0 ≤ y < 2 ^ j, by j squarings. -/
def expBig (p j : Nat) (y : Itv) : Itv :=
  j.repeat (fun v => Itv.mul p v v) (expSmall p (y.div (2 ^ j)))

/-- Σ (−1)^k z^k / (2k + odd)! for 0 ≤ z < 4. -/
def trigSeries (p : Nat) (odd : Nat) (z : Itv) : Itv :=
  sumSeries (fun k t => (Itv.mul p t z).div ((2 * k + odd + 1) * (2 * k + odd + 2))) (fun _ t => t)
    (fun k => k % 2 == 1) (2 * p + 64) 0 (2 ^ p, 2 ^ p) (0, 0)

/-! ## The functions -/

/-- 2 ^ x for x = ± m × 2 ^ e with |x| < 2048: the bounds and the exponent of their unit. -/
def exp2Itv (p : Nat) (neg : Bool) (m : Nat) (e : Int) : Itv × Int :=
  let x := signed neg m
  let whole : Int := if 0 ≤ e then x * 2 ^ e.toNat else x.fdiv (2 ^ (-e).toNat)
  let frac : Nat := if 0 ≤ e then 0 else (x - whole * 2 ^ (-e).toNat).toNat
  (expSmall p (Itv.mul p (Itv.ofRat p frac 1 e) (ln2 p)), whole - p)

/-- log₂ of m × 2 ^ e, m > 0. -/
def log2Itv (p m : Nat) (e : Int) : Itv :=
  let k := m.log2
  let q := Itv.quot p (atanh2 p (m - 2 ^ k) (m + 2 ^ k)) (ln2 p)
  let n : Int := (k + e) * 2 ^ p
  (q.1 + n, q.2 + n)

/-- The reduction of x = m × 2 ^ e ≥ 0 by multiples of π/2: the quadrant and the rest, in −1 … 2. -/
def reduce (p m : Nat) (e : Int) : Nat × Itv :=
  let g := p + m.log2 + 1 + e.toNat
  let half : Itv := (piItv (g + 8)).div 512
  let x := Itv.ofRat g m 1 e
  let n := (x.1.fdiv half.2).toNat
  let r := Itv.sub x (half.1 * n, half.2 * n)
  (n % 4, r.div (2 ^ (g - p)))

/-- sin (quadrant `q` = 0) or cos (`q` = 1) of x = m × 2 ^ e ≥ 0. -/
def trigItv (p q m : Nat) (e : Int) : Itv :=
  let (n, r) := reduce p m e
  let z0 := Itv.mul p r r
  let z : Itv := (max 0 z0.1, z0.2)
  let k := (n + q) % 4
  let v := if k % 2 = 0 then Itv.mul p r (trigSeries p 1 z) else trigSeries p 0 z
  if 2 ≤ k then v.neg else v

/-- tanh of x = m × 2 ^ e, 0 < x < 32. -/
def tanhItv (p m : Nat) (e : Int) : Itv :=
  let v := expBig p 6 (Itv.ofRat p m 1 (e + 1))
  let one : Int := 2 ^ p
  Itv.quot p (v.1 - one, v.2 - one) (v.1 + one, v.2 + one)

/-- erf of x = m × 2 ^ e, 0 < x < 8. -/
def erfItv (p m : Nat) (e : Int) : Itv :=
  let x := Itv.ofRat p m 1 e
  let z := Itv.ofRat p (m * m) 1 (2 * e)
  let s := sumSeries (fun k t => (Itv.mul p t z).div (k + 1)) (fun k t => t.div (2 * k + 1)) (fun k => k % 2 == 1)
    (4 * p + 512) 0 x (0, 0)
  -- 2 / √π = √(4 / π)
  let w := Itv.quot (2 * p) (4 * 2 ^ (2 * p), 4 * 2 ^ (2 * p)) (piItv (2 * p))
  let root : Itv := (isqrt w.1.toNat, isqrt w.2.toNat + 1)
  Itv.mul p s root

/-! ## Rounding an enclosed value (R141) -/

/-- The bounds round to one inexact number. -/
def Fmt.agree (f : Fmt) (md : Rnd) (v : Itv) (unit : Int) : Option FRes :=
  let go (neg : Bool) (a b : Nat) : Option FRes :=
    let x := f.roundRat md 0 neg a 1 unit
    let y := f.roundRat md 0 neg b 1 unit
    if decide (x = y) && x.flags.getLsbD 0 then some x else none
  if 0 < v.1 then go false v.1.toNat v.2.toNat
  else if v.2 < 0 then go true v.1.natAbs v.2.natAbs
  else none

/-- The rounding of an irrational value whose bounds at precision p are `at p`, in units of 2 ^ `.2`. -/
def Fmt.roundItv (f : Fmt) (md : Rnd) (at_ : Nat → Itv × Int) : Nat → Nat → FRes
  | 0, p =>
    let (v, unit) := at_ p
    if v.1 + v.2 = 0 then ⟨0, flagNX, false⟩
    else f.roundRat md 0 (decide (v.1 + v.2 < 0)) (2 * (v.1 + v.2).natAbs + 1) 1 (unit - 2)
  | n + 1, p =>
    let (v, unit) := at_ p
    match f.agree md v unit with
    | some r => r
    | none => f.roundItv md at_ n (2 * p)

/-- Bounds in units of 2 ^ −p, with the sign of the result. -/
def Fmt.irrational (f : Fmt) (md : Rnd) (neg : Bool) (at_ : Nat → Itv) : FRes :=
  f.roundItv md (fun p => (if neg then (at_ p).neg else at_ p, -(p : Int))) 5 96

/-- m × 2 ^ e is below 2 ^ k. -/
def below (m : Nat) (e k : Int) : Bool := m == 0 || decide ((m.log2 : Int) + e < k)

/-- vexp2. -/
def Fmt.exp2 (f : Fmt) (md : Rnd) : FVal → FRes
  | .nan _ => ⟨f.nanCode, 0, false⟩
  | .inf neg => ⟨if neg then 0 else f.infCode, 0, false⟩
  | .fin neg m e =>
    if m = 0 then f.roundRat md 0 false 1 1 0
    else if !below m e 11 then f.roundRat md 0 false 1 1 (if neg then -4096 else 4096)
    else
      let w : Int := if 0 ≤ e then signed neg m * 2 ^ e.toNat else (signed neg m).fdiv (2 ^ (-e).toNat)
      if 0 ≤ e ∨ m % 2 ^ (-e).toNat = 0 then f.roundRat md 0 false 1 1 w
      else f.roundItv md (fun p => exp2Itv p neg m e) 5 96

/-- vlog2. -/
def Fmt.log2 (f : Fmt) (md : Rnd) : FVal → FRes
  | .nan _ => ⟨f.nanCode, 0, false⟩
  | .inf neg => if neg then f.invalid else ⟨f.infCode, 0, false⟩
  | .fin neg m e =>
    if m = 0 then ⟨f.sign true + f.infCode, flagDZ, false⟩
    else if neg then f.invalid
    else if m = 2 ^ m.log2 then f.round md 0 (.fin (decide ((m.log2 : Int) + e < 0)) ((m.log2 : Int) + e).natAbs 0)
    else f.irrational md false (fun p => log2Itv p m e)

/-- vrcp. -/
def Fmt.rcp (f : Fmt) (md : Rnd) (a : FVal) : FRes := f.divV md (.fin false 1 0) a

/-- vrsqrt. -/
def Fmt.rsqrt (f : Fmt) (md : Rnd) : FVal → FRes
  | .nan _ => ⟨f.nanCode, 0, false⟩
  | .inf neg => if neg then f.invalid else ⟨0, 0, false⟩
  | .fin neg m e =>
    if m = 0 then ⟨f.sign neg + f.infCode, flagDZ, false⟩
    else if neg then f.invalid
    else
      let odd := (e % 2).toNat
      let n := m * 2 ^ odd
      let h := (e - odd) / 2
      let k := n.log2 + f.m + 6
      let t := isqrt (4 ^ k / n)
      f.roundRat md 0 false (2 * t + bit (decide (t * t * n ≠ 4 ^ k))) 1 (-h - k - 1)

/-- vsin. -/
def Fmt.sin (f : Fmt) (md : Rnd) : FVal → FRes
  | .nan _ => ⟨f.nanCode, 0, false⟩
  | .inf _ => f.invalid
  | .fin neg m e => if m = 0 then ⟨f.sign neg, 0, false⟩ else f.irrational md neg (fun p => trigItv p 0 m e)

/-- vcos. -/
def Fmt.cos (f : Fmt) (md : Rnd) : FVal → FRes
  | .nan _ => ⟨f.nanCode, 0, false⟩
  | .inf _ => f.invalid
  | .fin _ m e => if m = 0 then f.roundRat md 0 false 1 1 0 else f.irrational md false (fun p => trigItv p 1 m e)

/-- A magnitude just below 1, for arguments at which the function differs from 1 by less than every format can tell. -/
def Fmt.almostOne (f : Fmt) (md : Rnd) (neg : Bool) : FRes := f.roundRat md 0 neg (2 ^ 200 - 1) 1 (-200)

/-- vtanh. -/
def Fmt.tanh (f : Fmt) (md : Rnd) : FVal → FRes
  | .nan _ => ⟨f.nanCode, 0, false⟩
  | .inf neg => f.roundRat md 0 neg 1 1 0
  | .fin neg m e =>
    if m = 0 then ⟨f.sign neg, 0, false⟩
    else if below m e 5 then f.irrational md neg (fun p => tanhItv p m e)
    else f.almostOne md neg

/-- verf. -/
def Fmt.erf (f : Fmt) (md : Rnd) : FVal → FRes
  | .nan _ => ⟨f.nanCode, 0, false⟩
  | .inf neg => f.roundRat md 0 neg 1 1 0
  | .fin neg m e =>
    if m = 0 then ⟨f.sign neg, 0, false⟩
    else if below m e 3 then f.irrational md neg (fun p => erfItv p m e)
    else f.almostOne md neg

/-- The eight functions of Table 7.7. -/
inductive Special where
  | exp2 | log2 | rcp | rsqrt | sin | cos | tanh | erf
  deriving DecidableEq, Repr

/-- A special function of a code, with NV for a signalling operand (R26, R141). -/
def Fmt.special (f : Fmt) (md : Rnd) (g : Special) (x : Nat) : FRes :=
  let a := f.decode x
  let r := match g with
    | .exp2 => f.exp2 md a
    | .log2 => f.log2 md a
    | .rcp => f.rcp md a
    | .rsqrt => f.rsqrt md a
    | .sin => f.sin md a
    | .cos => f.cos md a
    | .tanh => f.tanh md a
    | .erf => f.erf md a
  { r with flags := r.flags ||| a.snan }

end Sys2Proof.Machine
end

