-- ==== Sys2Proof/Machine/Vector.lean ====
section
/-! DEFINITION. Vector and predicate instructions that touch registers only (R122–R143, R393). -/

namespace Sys2Proof.Machine
open Sys2Proof

/-! ## Configuration at issue (R122–R128) -/

/-- Raises a cause met at a vector element or a row block: CAUSE.ELEM = 1. -/
def raiseElem {α : Type} (cause : Cause) (tval : Word) : M α := fun s => .error (s.raise cause tval true)

/-- EW in bits, one of `allowed`, or vector-configuration (R122). -/
def vconfig (allowed : List Nat) : M Nat := do
  let c ← getCtx
  require (!c.vill && decide (c.ew.toNat ≤ 5) && allowed.contains (widthOf c.ew)) .vectorConfiguration
  return widthOf c.ew

/-- Widths of Table 7.1. -/
def allWidths : List Nat := [4, 6, 8, 16, 32, 64]
def intWidths : List Nat := [4, 8, 16, 32, 64]
def floatWidths : List Nat := [16, 32, 64]

/-- The native format of a width (Table 7.1). -/
def nativeFmt (w : Nat) : Fmt :=
  match w with
  | 4 => fp4e2m1 | 6 => fp6e2m3 | 8 => fp8e4m3 | 16 => fp16 | 32 => fp32 | _ => fp64

/-- is_active(i) of R123 (Table 3.1). -/
def Ctx.active (c : Ctx) (pm : Bool) (pg : PReg) (i : Nat) : Bool := (!pm && decide (pg = 0)) || (c.pr pg).getLsbD i

/-- A(i) of R143 for i < VL. -/
def Ctx.governed (c : Ctx) (pg : PReg) (i : Nat) : Bool := decide (pg = 0) || (c.pr pg).getLsbD i

/-- A whole-register instruction does not start inside its vector (R124). -/
def wholeStart : M Unit := do
  let c ← getCtx
  require (c.vstart = 0 ∨ c.vl ≤ c.vstart) .vectorConfiguration

/-- The first element of the 128-bit group in which element `i` of width `w` starts (R374). -/
def groupFirst (w i : Nat) : Nat := (w * i / 128 * 128 + w - 1) / w

/-- CHKMODE.CORR rises by 1, saturating (R374). -/
def Core.correct (c : Core) : Core := { c with corr := if c.corr = 0xFFFFFFFF then c.corr else c.corr + 1 }

/-- Where a vector instruction ends before its last element: at a stop, or at an uncorrectable mismatch. -/
structure Cut where
  elem : Nat
  mismatch : Bool
  deriving DecidableEq, Repr

/-- What has met the instruction is over. -/
def dropUpset : M Unit := modCore (fun c => { c with upset := none })

/-- Checked issue (R127, R374) and a stop inside the instruction (R16, R257): where an instruction over the elements below
`n` ends early, if it does. A corrected mismatch raises CORR; one that no executed element meets, or that is not checked,
is over. An element's group is told by the width `w` at which the instruction reads its sources: R374 does not say which
width counts where the result has another one. DESIGN CHOICE (log 85). -/
def checkedBelow (w n : Nat) : M (Option Cut) := do
  let s ← getState
  let c := s.ctx
  let reaches (i : Nat) : Bool := decide (c.vstart.toNat ≤ i) && decide (i < n)
  match s.me.upset with
  | some (.vector i corrected) =>
    if !s.me.chk || !reaches i || corrected then
      dropUpset
      if s.me.chk && reaches i then modCore Core.correct
      return none
    else return some ⟨Nat.max c.vstart.toNat (groupFirst w i), true⟩
  | some (.stop i) =>
    if reaches i then return some ⟨i, false⟩
    else
      dropUpset
      return none
  | _ => return none

/-- Checked issue of an instruction over the elements below VL. -/
def checkedIssue (w : Nat) : M (Option Cut) := do checkedBelow w (← getCtx).vl.toNat

/-- The instruction ends early at a cut, with the elements below it done: VSTART is the cut, and a mismatch raises its cause
(R16, R124, R127). -/
def endCut (x : Cut) : M Unit := do
  dropUpset
  modCtx (fun c => { c with vstart := BitVec.ofNat 11 x.elem })
  if x.mismatch then raiseElem .uncorrectableCheck (← getCtx).pc else stall

/-- An uncorrectable mismatch at a whole-register instruction raises its cause with nothing written (R127); a stop lets the
instruction complete (R124). -/
def wholeCut (cut : Option Cut) : M Unit := do
  match cut with
  | none => pure ()
  | some x =>
    dropUpset
    if x.mismatch then raiseElem .uncorrectableCheck (← getCtx).pc

/-- Checked issue of a whole-register instruction. -/
def checkedWhole (w : Nat) : M Unit := do wholeCut (← checkedIssue w)

/-! ## The common skeleton (R123, R124) -/

/-- Elements computed so far with their flags and the generator's state. -/
structure ElemRun where
  codes : List Nat
  flags : Flags
  seed : BitVec 32
  deriving DecidableEq, Repr

/-- Runs an element-wise instruction over the old destination elements from element `i`: elements below `start` keep
their values, active ones take `f i carry u`, and inactive ones keep theirs or receive zero. `carry` is the last result
written. -/
def runElems (act : Nat → Bool) (pm : Bool) (start : Nat) (f : Nat → Nat → BitVec 32 → FRes) :
    Nat → Nat → BitVec 32 → List Nat → ElemRun
  | _, _, seed, [] => ⟨[], 0, seed⟩
  | i, carry, seed, o :: t =>
    if i < start then
      let r := runElems act pm start f (i + 1) carry seed t
      { r with codes := o :: r.codes }
    else if act i then
      let e := f i carry (lfsrNext seed)
      let r := runElems act pm start f (i + 1) e.code (if e.rand then lfsrNext seed else seed) t
      ⟨e.code :: r.codes, e.flags ||| r.flags, r.seed⟩
    else
      let r := runElems act pm start f (i + 1) carry seed t
      { r with codes := (if pm then 0 else o) :: r.codes }

/-- The first `n` elements of a destination at width `w`: one register, or an even pair (R14). -/
def Ctx.dest (c : Ctx) (pair : Bool) (vd : VReg) (w n : Nat) : List Nat :=
  let m := vlmax w
  if pair then elems w (Nat.min n m) (c.vr vd).toNat ++ elems w (n - m) (c.vr (vd + 1)).toNat
  else elems w n (c.vr vd).toNat

/-- A destination receives its first elements: complete, or stopped after them (R15, R16, R124). At width 6 bits [4095:4080]
become 0 even where no element is written (R12, log 66). -/
def Ctx.setDest (c : Ctx) (pair : Bool) (vd : VReg) (w : Nat) (l : List Nat) (complete : Bool) : Ctx :=
  let put (c : Ctx) (v : VReg) (l : List Nat) : Ctx :=
    let x := packOver w l (c.vr v)
    if complete then c.setV v x else c.setVPartial v x l.length
  if pair then put (put c vd (l.take (vlmax w))) (vd + 1) (l.drop (vlmax w)) else put c vd l

/-- An element-wise instruction: sources at width `ew`, destination at width `w`, elements below `start` left alone. -/
def elementwise (pm : Bool) (pg : PReg) (pair : Bool) (vd : VReg) (ew w : Nat) (start : Nat) (carry : Ctx → Nat)
    (f : Ctx → Nat → Nat → BitVec 32 → FRes) : M Unit := do
  let cut ← checkedIssue ew
  let c ← getCtx
  let n := (cut.map (·.elem)).getD c.vl.toNat
  let r := runElems (c.active pm pg) pm (Nat.max start c.vstart.toNat) (f c) 0 (carry c) c.seed (c.dest pair vd w n)
  let c' := { (c.setDest pair vd w r.codes cut.isNone).raiseFlags r.flags with seed := r.seed }
  match cut with
  | none =>
    modCtx (fun _ => { c' with vstart := 0 })
    retire 4
  | some x =>
    modCtx (fun _ => c')
    endCut x

/-- A result without flags. -/
def plainRes (x : Nat) : FRes := ⟨x, 0, false⟩

/-- An element-wise instruction of one width whose results depend on its own elements only. -/
def simple (allowed : List Nat) (pm : Bool) (pg : PReg) (vd : VReg) (bad : List VReg) (f : Ctx → Nat → Nat → FRes) :
    M Unit := do
  let w ← vconfig allowed
  require (!bad.contains vd) .vectorOverlap
  elementwise pm pg false vd w w 0 (fun _ => 0) (fun c i _ _ => f c w i)

/-- The scalar operand e (R125). -/
def Ctx.e (c : Ctx) (rs : SReg) (w : Nat) : Nat := (c.x rs).toNat % 2 ^ w

/-- The rounding of an operation that is not a narrowing conversion (R131). -/
def Ctx.md (c : Ctx) : Rnd := (rndOf c.rndm).plain

/-! ## setvl, setvli (R129) -/

/-- A vector length of `q` elements of width code `ew` is granted. -/
def grant (ew : BitVec 3) (rd : SReg) (q : Ctx → Nat) (s : State) : Host.Outcome State Fault Refusal :=
  s.plain 4 (fun c =>
    let g := granted (q c) (widthOf ew)
    { c with ew := ew, vill := false, vl := BitVec.ofNat 11 g, vstart := 0 }.setX rd (BitVec.ofNat 64 g))

/-- setvl (R129). -/
def execSetvl (ew : BitVec 3) (rd rs1 : SReg) (s : State) : Host.Outcome State Fault Refusal :=
  grant ew rd (fun c => (c.x rs1).toNat) s

/-- setvli (R129). -/
def execSetvli (ew : BitVec 3) (rd : SReg) (uimm : BitVec 12) (s : State) : Host.Outcome State Fault Refusal :=
  grant ew rd (fun _ => uimm.toNat) s

/-! ## Integer arithmetic (R130, Table 7.5) -/

/-- A saturating result in lo … hi, with SAT when it was clamped (R28). -/
def clampTo (w : Nat) (lo hi v : Int) : FRes :=
  if v < lo then ⟨ofInt w lo, flagSAT, false⟩ else if hi < v then ⟨ofInt w hi, flagSAT, false⟩ else ⟨ofInt w v, 0, false⟩

/-- The signed range of a width. -/
def signedLo (w : Nat) : Int := -(2 ^ (w - 1))
def signedHi (w : Nat) : Int := 2 ^ (w - 1) - 1

/-- An integer instruction f(w, a, b) of two registers. -/
def intVV (pm : Bool) (pg : PReg) (vd vs1 vs2 : VReg) (f : Nat → Nat → Nat → FRes) (s : State) :
    Host.Outcome State Fault Refusal :=
  finish (simple intWidths pm pg vd [] (fun c w i => f w (elem w (c.vr vs1) i) (elem w (c.vr vs2) i))) s

/-- An integer instruction f(w, a, e) of a register and a scalar. -/
def intVX (pm : Bool) (pg : PReg) (vd vs1 : VReg) (rs : SReg) (f : Nat → Nat → Nat → FRes) (s : State) :
    Host.Outcome State Fault Refusal :=
  finish (simple intWidths pm pg vd [] (fun c w i => f w (elem w (c.vr vs1) i) (c.e rs w))) s

/-- A wrapping result (R28). -/
def wrapped (w n : Nat) : FRes := plainRes (n % 2 ^ w)

def opAdd (w a b : Nat) : FRes := wrapped w (a + b)
def opSub (w a b : Nat) : FRes := wrapped w (a + 2 ^ w - b)
def opMul (w a b : Nat) : FRes := wrapped w (a * b)
def opMulh (w a b : Nat) : FRes := plainRes (ofInt w ((toInt w a * toInt w b).fdiv (2 ^ w)))
def opAnd (_ a b : Nat) : FRes := plainRes (a &&& b)
def opOr (_ a b : Nat) : FRes := plainRes (a ||| b)
def opXor (_ a b : Nat) : FRes := plainRes (a ^^^ b)
def opSll (w a b : Nat) : FRes := wrapped w (a * 2 ^ (b % w))
def opSrl (w a b : Nat) : FRes := plainRes (a / 2 ^ (b % w))
def opSra (w a b : Nat) : FRes := plainRes (ofInt w ((toInt w a).fdiv (2 ^ (b % w))))
def opMin (w a b : Nat) : FRes := plainRes (if toInt w a ≤ toInt w b then a else b)
def opMax (w a b : Nat) : FRes := plainRes (if toInt w a ≤ toInt w b then b else a)
def opMinu (_ a b : Nat) : FRes := plainRes (Nat.min a b)
def opMaxu (_ a b : Nat) : FRes := plainRes (Nat.max a b)
def opSadd (w a b : Nat) : FRes := clampTo w (signedLo w) (signedHi w) (toInt w a + toInt w b)
def opSsub (w a b : Nat) : FRes := clampTo w (signedLo w) (signedHi w) (toInt w a - toInt w b)

/-- vadd (Table 7.5). -/
def execVadd (pm : Bool) (pg : PReg) (vd vs1 vs2 : VReg) (s : State) : Host.Outcome State Fault Refusal :=
  intVV pm pg vd vs1 vs2 opAdd s

/-- vsub (Table 7.5). -/
def execVsub (pm : Bool) (pg : PReg) (vd vs1 vs2 : VReg) (s : State) : Host.Outcome State Fault Refusal :=
  intVV pm pg vd vs1 vs2 opSub s

/-- vmul (Table 7.5). -/
def execVmul (pm : Bool) (pg : PReg) (vd vs1 vs2 : VReg) (s : State) : Host.Outcome State Fault Refusal :=
  intVV pm pg vd vs1 vs2 opMul s

/-- vmulh (Table 7.5). -/
def execVmulh (pm : Bool) (pg : PReg) (vd vs1 vs2 : VReg) (s : State) : Host.Outcome State Fault Refusal :=
  intVV pm pg vd vs1 vs2 opMulh s

/-- vand (Table 7.5). -/
def execVand (pm : Bool) (pg : PReg) (vd vs1 vs2 : VReg) (s : State) : Host.Outcome State Fault Refusal :=
  intVV pm pg vd vs1 vs2 opAnd s

/-- vor (Table 7.5). -/
def execVor (pm : Bool) (pg : PReg) (vd vs1 vs2 : VReg) (s : State) : Host.Outcome State Fault Refusal :=
  intVV pm pg vd vs1 vs2 opOr s

/-- vxor (Table 7.5). -/
def execVxor (pm : Bool) (pg : PReg) (vd vs1 vs2 : VReg) (s : State) : Host.Outcome State Fault Refusal :=
  intVV pm pg vd vs1 vs2 opXor s

/-- vsll (Table 7.5). -/
def execVsll (pm : Bool) (pg : PReg) (vd vs1 vs2 : VReg) (s : State) : Host.Outcome State Fault Refusal :=
  intVV pm pg vd vs1 vs2 opSll s

/-- vsrl (Table 7.5). -/
def execVsrl (pm : Bool) (pg : PReg) (vd vs1 vs2 : VReg) (s : State) : Host.Outcome State Fault Refusal :=
  intVV pm pg vd vs1 vs2 opSrl s

/-- vsra (Table 7.5). -/
def execVsra (pm : Bool) (pg : PReg) (vd vs1 vs2 : VReg) (s : State) : Host.Outcome State Fault Refusal :=
  intVV pm pg vd vs1 vs2 opSra s

/-- vmin (Table 7.5). -/
def execVmin (pm : Bool) (pg : PReg) (vd vs1 vs2 : VReg) (s : State) : Host.Outcome State Fault Refusal :=
  intVV pm pg vd vs1 vs2 opMin s

/-- vmax (Table 7.5). -/
def execVmax (pm : Bool) (pg : PReg) (vd vs1 vs2 : VReg) (s : State) : Host.Outcome State Fault Refusal :=
  intVV pm pg vd vs1 vs2 opMax s

/-- vminu (Table 7.5). -/
def execVminu (pm : Bool) (pg : PReg) (vd vs1 vs2 : VReg) (s : State) : Host.Outcome State Fault Refusal :=
  intVV pm pg vd vs1 vs2 opMinu s

/-- vmaxu (Table 7.5). -/
def execVmaxu (pm : Bool) (pg : PReg) (vd vs1 vs2 : VReg) (s : State) : Host.Outcome State Fault Refusal :=
  intVV pm pg vd vs1 vs2 opMaxu s

/-- vsadd (Table 7.5). -/
def execVsadd (pm : Bool) (pg : PReg) (vd vs1 vs2 : VReg) (s : State) : Host.Outcome State Fault Refusal :=
  intVV pm pg vd vs1 vs2 opSadd s

/-- vssub (Table 7.5). -/
def execVssub (pm : Bool) (pg : PReg) (vd vs1 vs2 : VReg) (s : State) : Host.Outcome State Fault Refusal :=
  intVV pm pg vd vs1 vs2 opSsub s

/-- vadd.vx (Table 7.5). -/
def execVaddVx (pm : Bool) (pg : PReg) (vd vs1 : VReg) (rs : SReg) (s : State) : Host.Outcome State Fault Refusal :=
  intVX pm pg vd vs1 rs opAdd s

/-- vsub.vx (Table 7.5). -/
def execVsubVx (pm : Bool) (pg : PReg) (vd vs1 : VReg) (rs : SReg) (s : State) : Host.Outcome State Fault Refusal :=
  intVX pm pg vd vs1 rs opSub s

/-- vmul.vx (Table 7.5). -/
def execVmulVx (pm : Bool) (pg : PReg) (vd vs1 : VReg) (rs : SReg) (s : State) : Host.Outcome State Fault Refusal :=
  intVX pm pg vd vs1 rs opMul s

/-- vand.vx (Table 7.5). -/
def execVandVx (pm : Bool) (pg : PReg) (vd vs1 : VReg) (rs : SReg) (s : State) : Host.Outcome State Fault Refusal :=
  intVX pm pg vd vs1 rs opAnd s

/-- vsll.vx (Table 7.5). -/
def execVsllVx (pm : Bool) (pg : PReg) (vd vs1 : VReg) (rs : SReg) (s : State) : Host.Outcome State Fault Refusal :=
  intVX pm pg vd vs1 rs opSll s

/-- vsrl.vx (Table 7.5). -/
def execVsrlVx (pm : Bool) (pg : PReg) (vd vs1 : VReg) (rs : SReg) (s : State) : Host.Outcome State Fault Refusal :=
  intVX pm pg vd vs1 rs opSrl s

/-- vsra.vx (Table 7.5). -/
def execVsraVx (pm : Bool) (pg : PReg) (vd vs1 : VReg) (rs : SReg) (s : State) : Host.Outcome State Fault Refusal :=
  intVX pm pg vd vs1 rs opSra s

/-- Every active element := e, at every width (Tables 7.5, R131). -/
def splat (pm : Bool) (pg : PReg) (vd : VReg) (rs : SReg) : M Unit :=
  simple allWidths pm pg vd [] (fun c w _ => plainRes (c.e rs w))

/-- vmv.vx (Table 7.5). -/
def execVmvVx (pm : Bool) (pg : PReg) (vd : VReg) (rs : SReg) (s : State) : Host.Outcome State Fault Refusal :=
  finish (splat pm pg vd rs) s

/-! ## Floating-point arithmetic (R131) -/

/-- A floating-point instruction f(format, mode, d, a, b) of two registers. -/
def floatVV (pm : Bool) (pg : PReg) (vd vs1 vs2 : VReg) (f : Fmt → Rnd → Nat → Nat → Nat → FRes) (s : State) :
    Host.Outcome State Fault Refusal :=
  finish (simple floatWidths pm pg vd [] (fun c w i =>
    f (nativeFmt w) c.md (elem w (c.vr vd) i) (elem w (c.vr vs1) i) (elem w (c.vr vs2) i))) s

/-- A floating-point instruction f(format, mode, d, a, e) of a register and a scalar. -/
def floatVX (pm : Bool) (pg : PReg) (vd vs1 : VReg) (rs : SReg) (f : Fmt → Rnd → Nat → Nat → Nat → FRes) (s : State) :
    Host.Outcome State Fault Refusal :=
  finish (simple floatWidths pm pg vd [] (fun c w i =>
    f (nativeFmt w) c.md (elem w (c.vr vd) i) (elem w (c.vr vs1) i) (c.e rs w))) s

/-- vfadd (R131). -/
def execVfadd (pm : Bool) (pg : PReg) (vd vs1 vs2 : VReg) (s : State) : Host.Outcome State Fault Refusal :=
  floatVV pm pg vd vs1 vs2 (fun f m _ a b => f.add m a b) s

/-- vfsub (R131). -/
def execVfsub (pm : Bool) (pg : PReg) (vd vs1 vs2 : VReg) (s : State) : Host.Outcome State Fault Refusal :=
  floatVV pm pg vd vs1 vs2 (fun f m _ a b => f.sub m a b) s

/-- vfmul (R131). -/
def execVfmul (pm : Bool) (pg : PReg) (vd vs1 vs2 : VReg) (s : State) : Host.Outcome State Fault Refusal :=
  floatVV pm pg vd vs1 vs2 (fun f m _ a b => f.mul m a b) s

/-- vfdiv (R131). -/
def execVfdiv (pm : Bool) (pg : PReg) (vd vs1 vs2 : VReg) (s : State) : Host.Outcome State Fault Refusal :=
  floatVV pm pg vd vs1 vs2 (fun f m _ a b => f.div m a b) s

/-- vfmin (R131). -/
def execVfmin (pm : Bool) (pg : PReg) (vd vs1 vs2 : VReg) (s : State) : Host.Outcome State Fault Refusal :=
  floatVV pm pg vd vs1 vs2 (fun f _ _ a b => f.minmax false a b) s

/-- vfmax (R131). -/
def execVfmax (pm : Bool) (pg : PReg) (vd vs1 vs2 : VReg) (s : State) : Host.Outcome State Fault Refusal :=
  floatVV pm pg vd vs1 vs2 (fun f _ _ a b => f.minmax true a b) s

/-- vfmacc (R131). -/
def execVfmacc (pm : Bool) (pg : PReg) (vd vs1 vs2 : VReg) (s : State) : Host.Outcome State Fault Refusal :=
  floatVV pm pg vd vs1 vs2 (fun f m d a b => f.macc m d a b) s

/-- vfmsac (R131). -/
def execVfmsac (pm : Bool) (pg : PReg) (vd vs1 vs2 : VReg) (s : State) : Host.Outcome State Fault Refusal :=
  floatVV pm pg vd vs1 vs2 (fun f m d a b => f.msac m d a b) s

/-- vfsqrt (R131). -/
def execVfsqrt (pm : Bool) (pg : PReg) (vd vs1 : VReg) (s : State) : Host.Outcome State Fault Refusal :=
  floatVV pm pg vd vs1 0 (fun f m _ a _ => f.sqrt m a) s

/-- vfneg (R131). -/
def execVfneg (pm : Bool) (pg : PReg) (vd vs1 : VReg) (s : State) : Host.Outcome State Fault Refusal :=
  floatVV pm pg vd vs1 0 (fun f _ _ a _ => plainRes (f.negCode a)) s

/-- vfabs (R131). -/
def execVfabs (pm : Bool) (pg : PReg) (vd vs1 : VReg) (s : State) : Host.Outcome State Fault Refusal :=
  floatVV pm pg vd vs1 0 (fun f _ _ a _ => plainRes (f.absCode a)) s

/-- vfadd.vx (R131). -/
def execVfaddVx (pm : Bool) (pg : PReg) (vd vs1 : VReg) (rs : SReg) (s : State) : Host.Outcome State Fault Refusal :=
  floatVX pm pg vd vs1 rs (fun f m _ a b => f.add m a b) s

/-- vfmul.vx (R131). -/
def execVfmulVx (pm : Bool) (pg : PReg) (vd vs1 : VReg) (rs : SReg) (s : State) : Host.Outcome State Fault Refusal :=
  floatVX pm pg vd vs1 rs (fun f m _ a b => f.mul m a b) s

/-- vfmacc.vx (R131). -/
def execVfmaccVx (pm : Bool) (pg : PReg) (vd vs1 : VReg) (rs : SReg) (s : State) : Host.Outcome State Fault Refusal :=
  floatVX pm pg vd vs1 rs (fun f m d a b => f.macc m d a b) s

/-- vfmv.vx (R131): the bits of e, at every width. -/
def execVfmvVx (pm : Bool) (pg : PReg) (vd : VReg) (rs : SReg) (s : State) : Host.Outcome State Fault Refusal :=
  finish (splat pm pg vd rs) s

/-! ## Widening (R14, R132, R133) -/

/-- An even pair (R14). -/
def pairOf (vdp : BitVec 4) : VReg := vdp.setWidth 5 <<< 1

/-- The checks of a pair destination of width `w`: its length, then its overlap with sources (R14). -/
def pairChecks (w : Nat) (vd : VReg) (sources : List VReg) : M Unit := do
  let c ← getCtx
  require (c.vl.toNat ≤ 2 * vlmax w) .vectorConfiguration
  require (!sources.contains vd && !sources.contains (vd + 1)) .pairOverlap

/-- A widening instruction f(source width, W, mode, d, a, b). -/
def widening (allowed : List Nat) (wide : Nat → Nat) (pm : Bool) (pg : PReg) (vdp : BitVec 4) (vs1 vs2 : VReg)
    (f : Nat → Nat → Rnd → Nat → Nat → Nat → FRes) (s : State) : Host.Outcome State Fault Refusal :=
  finish (do
    let ew ← vconfig allowed
    let w := wide ew
    let vd := pairOf vdp
    pairChecks w vd [vs1, vs2]
    elementwise pm pg true vd ew w 0 (fun _ => 0) (fun c i _ _ =>
      let d := if i < vlmax w then elem w (c.vr vd) i else elem w (c.vr (vd + 1)) (i - vlmax w)
      f ew w c.md d (elem ew (c.vr vs1) i) (elem ew (c.vr vs2) i))) s

/-- W of Table 7.6. -/
def wideOf (ew : Nat) : Nat := if ew ≤ 8 then 16 else 2 * ew

/-- An integer widening product, added to `d` (R133). -/
def widenInt (w : Nat) (d : Nat) (a b : Int) : FRes := plainRes (ofInt w (d + a * b))

/-- vwmacc (R133). -/
def execVwmacc (pm : Bool) (pg : PReg) (vdp : BitVec 4) (vs1 vs2 : VReg) (s : State) :
    Host.Outcome State Fault Refusal :=
  widening [4, 8, 16, 32] wideOf pm pg vdp vs1 vs2 (fun ew w _ d a b => widenInt w d (toInt ew a) (toInt ew b)) s

/-- vwmaccu (R133). -/
def execVwmaccu (pm : Bool) (pg : PReg) (vdp : BitVec 4) (vs1 vs2 : VReg) (s : State) :
    Host.Outcome State Fault Refusal :=
  widening [4, 8, 16, 32] wideOf pm pg vdp vs1 vs2 (fun _ w _ d a b => widenInt w d a b) s

/-- vwmaccsu (R133). -/
def execVwmaccsu (pm : Bool) (pg : PReg) (vdp : BitVec 4) (vs1 vs2 : VReg) (s : State) :
    Host.Outcome State Fault Refusal :=
  widening [4, 8, 16, 32] wideOf pm pg vdp vs1 vs2 (fun ew w _ d a b => widenInt w d (toInt ew a) b) s

/-- vwmul (R133). -/
def execVwmul (pm : Bool) (pg : PReg) (vdp : BitVec 4) (vs1 vs2 : VReg) (s : State) :
    Host.Outcome State Fault Refusal :=
  widening [4, 8, 16, 32] wideOf pm pg vdp vs1 vs2 (fun ew w _ _ a b => widenInt w 0 (toInt ew a) (toInt ew b)) s

/-- vwmulu (R133). -/
def execVwmulu (pm : Bool) (pg : PReg) (vdp : BitVec 4) (vs1 vs2 : VReg) (s : State) :
    Host.Outcome State Fault Refusal :=
  widening [4, 8, 16, 32] wideOf pm pg vdp vs1 vs2 (fun _ w _ _ a b => widenInt w 0 a b) s

/-- vfwmacc (R133). -/
def execVfwmacc (pm : Bool) (pg : PReg) (vdp : BitVec 4) (vs1 vs2 : VReg) (s : State) :
    Host.Outcome State Fault Refusal :=
  widening [4, 6, 8, 16, 32] wideOf pm pg vdp vs1 vs2 (fun ew w md d a b =>
    let f := nativeFmt w
    f.fmaV md (f.decode d) ((nativeFmt ew).decode a) ((nativeFmt ew).decode b)) s

/-- vbfwmacc (R133). -/
def execVbfwmacc (pm : Bool) (pg : PReg) (vdp : BitVec 4) (vs1 vs2 : VReg) (s : State) :
    Host.Outcome State Fault Refusal :=
  widening [16] wideOf pm pg vdp vs1 vs2 (fun _ _ md d a b => fp32.fmaV md (fp32.decode d) (bf16.decode a) (bf16.decode b)) s

/-- vfwmul (R133). -/
def execVfwmul (pm : Bool) (pg : PReg) (vdp : BitVec 4) (vs1 vs2 : VReg) (s : State) :
    Host.Outcome State Fault Refusal :=
  widening [4, 6, 8, 16, 32] wideOf pm pg vdp vs1 vs2 (fun ew w md _ a b =>
    (nativeFmt w).mulV md ((nativeFmt ew).decode a) ((nativeFmt ew).decode b)) s

/-! ## Narrowing and conversion (R134, R135) -/

/-- A narrowing instruction f(EW, EW / 2, a). -/
def narrowing (pm : Bool) (pg : PReg) (vd vs1 : VReg) (f : Nat → Nat → Nat → FRes) (s : State) :
    Host.Outcome State Fault Refusal :=
  finish (do
    let ew ← vconfig [8, 16, 32, 64]
    require (vd ≠ vs1) .vectorOverlap
    elementwise pm pg false vd ew (ew / 2) 0 (fun _ => 0) (fun c i _ _ => f ew (ew / 2) (elem ew (c.vr vs1) i))) s

/-- vncvt (R134). -/
def execVncvt (pm : Bool) (pg : PReg) (vd vs1 : VReg) (s : State) : Host.Outcome State Fault Refusal :=
  narrowing pm pg vd vs1 (fun _ w a => wrapped w a) s

/-- vnclip (R134). -/
def execVnclip (pm : Bool) (pg : PReg) (vd vs1 : VReg) (s : State) : Host.Outcome State Fault Refusal :=
  narrowing pm pg vd vs1 (fun ew w a => clampTo w (signedLo w) (signedHi w) (toInt ew a)) s

/-- vnclipu (R134). -/
def execVnclipu (pm : Bool) (pg : PReg) (vd vs1 : VReg) (s : State) : Host.Outcome State Fault Refusal :=
  narrowing pm pg vd vs1 (fun _ w a => clampTo w 0 (2 ^ w - 1) a) s

/-- The format of a code (Table 3.12). -/
def fmtOf (code : Nat) : Option Fmt :=
  match code with
  | 0 => some fp64 | 1 => some fp32 | 2 => some fp16 | 3 => some bf16 | 4 => some fp8e4m3 | 5 => some fp8e5m2
  | 6 => some fp6e3m2 | 7 => some fp6e2m3 | 8 => some fp4e2m1 | _ => none

/-- A conversion to the format of a code, with the checks of R135 in their order. -/
def converting (allowed : List Nat) (pm : Bool) (pg : PReg) (vd vs1 : VReg) (fmt : BitVec 5)
    (f : Ctx → Nat → Fmt → Nat → BitVec 32 → FRes) (s : State) : Host.Outcome State Fault Refusal :=
  finish (do
    match fmtOf fmt.toNat with
    | none => raiseHere .illegalInstruction
    | some dst =>
      let ew ← vconfig allowed
      let wt := dst.width
      let pair := decide (ew < wt)
      if pair then
        require (vd.toNat % 2 = 0) .illegalInstruction
        pairChecks wt vd [vs1]
      else require (wt = ew ∨ vd ≠ vs1) .vectorOverlap
      elementwise pm pg pair vd ew wt 0 (fun _ => 0) (fun c i _ u => f c ew dst (elem ew (c.vr vs1) i) u)) s

/-- vfcvt (R135): exact, or a narrowing conversion under R33. -/
def execVfcvt (pm : Bool) (pg : PReg) (vd vs1 : VReg) (fmt : BitVec 5) (s : State) : Host.Outcome State Fault Refusal :=
  converting allWidths pm pg vd vs1 fmt (fun c ew dst a u => convert (nativeFmt ew) dst (rndOf c.rndm) u a) s

/-- vfcvt.f (R135, R39). -/
def execVfcvtF (pm : Bool) (pg : PReg) (vd vs1 : VReg) (fmt : BitVec 5) (s : State) : Host.Outcome State Fault Refusal :=
  converting intWidths pm pg vd vs1 fmt (fun c ew dst a _ => dst.ofInteger c.md (toInt ew a)) s

/-- vfcvt.x (R135, R39). -/
def execVfcvtX (pm : Bool) (pg : PReg) (vd vs1 : VReg) (s : State) : Host.Outcome State Fault Refusal :=
  finish (simple intWidths pm pg vd [] (fun c w i =>
    let r := toInteger c.md (signedLo w) (signedHi w) ((nativeFmt w).decode (elem w (c.vr vs1) i))
    ⟨ofInt w r.1, r.2, false⟩)) s

/-! ## Dequantise and quantise (R30–R32, R136) -/

/-- Scale and zero point of a descriptor (R30). -/
def aqScale (d : Nat) : Nat := d % 65536
def aqZero (aq8 : Bool) (d : Nat) : Nat := bits d 16 (if aq8 then 8 else 4)

/-- The value of an AQ element (R30, R31); `none` is a NaN. A zero takes the sign of the product, q − z = 0 counting as
positive. -/
def aqValue (aq8 : Bool) (q d : Nat) : Option FVal :=
  let t : Int := (q : Int) - aqZero aq8 d
  match fp16.decode (aqScale d) with
  | .nan _ => none
  | .inf n => if t = 0 then none else some (.inf (n ^^ decide (t < 0)))
  | .fin n m e => some (.fin (n ^^ decide (t < 0)) (m * t.natAbs) e)

/-- Decoding of an AQ element to a format (R31). -/
def aqDecode (f : Fmt) (md : Rnd) (u : BitVec 32) (aq8 : Bool) (q d : Nat) : FRes := f.deliver md u
  (match aqValue aq8 q d with
   | none => some (.nan false)
   | some v => some v)

/-- Quantisation of an element (R32). -/
def aqQuantise (f : Fmt) (md : Rnd) (u : BitVec 32) (aq8 : Bool) (x d : Nat) : FRes :=
  let z := aqZero aq8 d
  let qmax : Int := if aq8 then 255 else 15
  let clamp (q : Int) (fl : Flags) (rand : Bool) : FRes :=
    if q < 0 then ⟨0, fl ||| flagSAT, rand⟩ else if qmax < q then ⟨qmax.toNat, fl ||| flagSAT, rand⟩ else ⟨q.toNat, fl, rand⟩
  match f.decode x, fp16.decode (aqScale d) with
  | .nan _, _ => ⟨z, flagNV, false⟩
  | _, .nan _ => ⟨z, flagNV, false⟩
  | _, .inf _ => ⟨z, flagNV, false⟩
  | .inf n, .fin o k _ => if k = 0 then ⟨z, flagNV, false⟩ else clamp (if n ^^ o then -1 else qmax + 1) 0 false
  | .fin n m e, .fin o k g =>
    if k = 0 then ⟨z, flagNV, false⟩
    else
      let (t, exact, rand) := roundInt md u (n ^^ o) m k (e - g)
      clamp (z + t) (flagIf (!exact) flagNX) rand

/-- Elements of a quantisation group (Table 3.11). -/
def groupSize (grp : BitVec 2) : Nat := 32 * 2 ^ grp.toNat

/-- Bits of an AQ code. -/
def aqBits (aq8 : Bool) : Nat := if aq8 then 8 else 4

/-- vdeq (R136). -/
def execVdeq (aq8 : Bool) (grp : BitVec 2) (pm : Bool) (pg : PReg) (vd vs1 vs2 : VReg) (s : State) :
    Host.Outcome State Fault Refusal :=
  finish (do
    let ew ← vconfig [16, 32]
    require (vd ≠ vs1 ∧ vd ≠ vs2) .vectorOverlap
    elementwise pm pg false vd ew ew 0 (fun _ => 0) (fun c i _ u =>
      aqDecode (nativeFmt ew) (rndOf c.rndm) u aq8 (elem (aqBits aq8) (c.vr vs1) i) (elem 32 (c.vr vs2) (i / groupSize grp)))) s

/-- vquant (R136). -/
def execVquant (aq8 : Bool) (grp : BitVec 2) (pm : Bool) (pg : PReg) (vd vs1 vs2 : VReg) (s : State) :
    Host.Outcome State Fault Refusal :=
  finish (do
    let ew ← vconfig [16, 32]
    require (vd ≠ vs1 ∧ vd ≠ vs2) .vectorOverlap
    elementwise pm pg false vd ew (aqBits aq8) 0 (fun _ => 0) (fun c i _ u =>
      aqQuantise (nativeFmt ew) (rndOf c.rndm) u aq8 (elem ew (c.vr vs1) i) (elem 32 (c.vr vs2) (i / groupSize grp)))) s

/-! ## Reductions and scans (R41, R137) -/

/-- The active elements below VL, ascending. -/
def Ctx.activeElems (c : Ctx) (pm : Bool) (pg : PReg) (w : Nat) (v : VReg) : List Nat :=
  ((elems w c.vl.toNat (c.vr v).toNat).zipIdx.filter (fun p => c.active pm pg p.2)).map (·.1)

/-- A whole-register instruction that writes vd: with VSTART ≥ VL it writes nothing of it (R16, R124, R140). -/
def wholeWrite (vd : VReg) (w : Nat) (f : Ctx → List Nat × Flags) : M Unit := do
  modCtx (fun c => c.namesV vd)
  checkedWhole w
  modCtx (fun c =>
    if c.vl ≤ c.vstart then { c.setV vd (packOver w [] (c.vr vd)) with vstart := 0 }
    else
      let r := f c
      { (c.setV vd (packOver w r.1 (c.vr vd))).raiseFlags r.2 with vstart := 0 })
  retire 4

/-- A reduction of init and the active elements. -/
def reduction (allowed : List Nat) (pm : Bool) (pg : PReg) (vd vs1 vs2 : VReg)
    (f : Ctx → Nat → Nat → List (Option Nat) → Nat × Flags) (s : State) : Host.Outcome State Fault Refusal :=
  finish (do
    let w ← vconfig allowed
    wholeStart
    wholeWrite vd w (fun c =>
      let xs := (elems w c.vl.toNat (c.vr vs1).toNat).zipIdx.map (fun p => if c.active pm pg p.2 then some p.1 else none)
      let r := f c w (elem w (c.vr vs2) 0) xs
      ([r.1], r.2))) s

/-- A fold of an operation over init and the active elements. -/
def foldElems (f : Nat → Nat → FRes) (init : Nat) (xs : List (Option Nat)) : Nat × Flags :=
  (xs.filterMap id).foldl (fun a x => let r := f a.1 x; (r.code, a.2 ||| r.flags)) (init, 0)

/-- An integer reduction. -/
def intReduction (pm : Bool) (pg : PReg) (vd vs1 vs2 : VReg) (f : Nat → Nat → Nat → FRes) (s : State) :
    Host.Outcome State Fault Refusal :=
  reduction intWidths pm pg vd vs1 vs2 (fun _ w init xs => foldElems (f w) init xs) s

/-- vredsum (R137). -/
def execVredsum (pm : Bool) (pg : PReg) (vd vs1 vs2 : VReg) (s : State) : Host.Outcome State Fault Refusal :=
  intReduction pm pg vd vs1 vs2 opAdd s

/-- vredmax (R137). -/
def execVredmax (pm : Bool) (pg : PReg) (vd vs1 vs2 : VReg) (s : State) : Host.Outcome State Fault Refusal :=
  intReduction pm pg vd vs1 vs2 opMax s

/-- vredmin (R137). -/
def execVredmin (pm : Bool) (pg : PReg) (vd vs1 vs2 : VReg) (s : State) : Host.Outcome State Fault Refusal :=
  intReduction pm pg vd vs1 vs2 opMin s

/-- vredmaxu (R137). -/
def execVredmaxu (pm : Bool) (pg : PReg) (vd vs1 vs2 : VReg) (s : State) : Host.Outcome State Fault Refusal :=
  intReduction pm pg vd vs1 vs2 opMaxu s

/-- vredminu (R137). -/
def execVredminu (pm : Bool) (pg : PReg) (vd vs1 vs2 : VReg) (s : State) : Host.Outcome State Fault Refusal :=
  intReduction pm pg vd vs1 vs2 opMinu s

/-- vfredsum.o (R41, R137): ascending order. -/
def execVfredsumO (pm : Bool) (pg : PReg) (vd vs1 vs2 : VReg) (s : State) : Host.Outcome State Fault Refusal :=
  reduction floatWidths pm pg vd vs1 vs2 (fun c w init xs => foldElems (fun a x => (nativeFmt w).add c.md a x) init xs) s

/-- combine of R41. -/
def combine (f : Fmt) (md : Rnd) (u v : Option Nat) : Option Nat × Flags :=
  match u, v with
  | none, v => (v, 0)
  | u, none => (u, 0)
  | some a, some b => let r := f.add md a b; (some r.code, r.flags)

/-- One level of the tree: neighbours combined. -/
def treeLevel (f : Fmt) (md : Rnd) : List (Option Nat) → List (Option Nat) × Flags
  | a :: b :: t =>
    let r := combine f md a b
    let rest := treeLevel f md t
    (r.1 :: rest.1, r.2 ||| rest.2)
  | l => (l, 0)

/-- Levels until one entry remains; a missing right neighbour stands for ABSENT entries. -/
def treeSum (f : Fmt) (md : Rnd) : Nat → List (Option Nat) → Option Nat × Flags
  | 0, l => ((l.head?).getD none, 0)
  | n + 1, l =>
    let r := treeLevel f md l
    let t := treeSum f md n r.1
    (t.1, r.2 ||| t.2)

/-- vfredsum.t (R41, R137): the fixed tree. -/
def execVfredsumT (pm : Bool) (pg : PReg) (vd vs1 vs2 : VReg) (s : State) : Host.Outcome State Fault Refusal :=
  reduction floatWidths pm pg vd vs1 vs2 (fun c w init xs =>
    let r := treeSum (nativeFmt w) c.md 10 xs
    match r.1 with
    | none => (init, r.2)
    | some a => let t := (nativeFmt w).add c.md init a; (t.code, r.2 ||| t.flags)) s

/-- fmin or fmax over init and the active elements; a NaN among them gives the canonical NaN. -/
def minmaxReduction (isMax : Bool) (pm : Bool) (pg : PReg) (vd vs1 vs2 : VReg) (s : State) :
    Host.Outcome State Fault Refusal :=
  reduction floatWidths pm pg vd vs1 vs2 (fun c w init xs =>
    let f := nativeFmt w
    let _ := c
    let i := f.minmax isMax init init
    let r := foldElems (fun a x => f.minmax isMax a x) i.code xs
    (r.1, i.flags ||| r.2)) s

/-- vfredmax (R137). -/
def execVfredmax (pm : Bool) (pg : PReg) (vd vs1 vs2 : VReg) (s : State) : Host.Outcome State Fault Refusal :=
  minmaxReduction true pm pg vd vs1 vs2 s

/-- vfredmin (R137). -/
def execVfredmin (pm : Bool) (pg : PReg) (vd vs1 vs2 : VReg) (s : State) : Host.Outcome State Fault Refusal :=
  minmaxReduction false pm pg vd vs1 vs2 s

/-- The value a scan continues from: its own last result below VSTART, or vs2[0] (R137). -/
def Ctx.scanStart (c : Ctx) (pm : Bool) (pg : PReg) (w : Nat) (vd vs2 : VReg) : Nat :=
  match ((List.range (Nat.min c.vstart.toNat c.vl.toNat)).reverse.find? (fun j => c.active pm pg j)) with
  | some j => elem w (c.vr vd) j
  | none => elem w (c.vr vs2) 0

/-- A scan with addition f(mode, w, carry, x). -/
def scan (allowed : List Nat) (pm : Bool) (pg : PReg) (vd vs1 vs2 : VReg) (f : Rnd → Nat → Nat → Nat → FRes) (s : State) :
    Host.Outcome State Fault Refusal :=
  finish (do
    let w ← vconfig allowed
    require (vd ≠ vs2) .vectorOverlap
    elementwise pm pg false vd w w 0 (fun c => c.scanStart pm pg w vd vs2) (fun c i k _ => f c.md w k (elem w (c.vr vs1) i))) s

/-- vscan (R137). -/
def execVscan (pm : Bool) (pg : PReg) (vd vs1 vs2 : VReg) (s : State) : Host.Outcome State Fault Refusal :=
  scan intWidths pm pg vd vs1 vs2 (fun _ w k x => opAdd w k x) s

/-- vfscan (R41, R137). -/
def execVfscan (pm : Bool) (pg : PReg) (vd vs1 vs2 : VReg) (s : State) : Host.Outcome State Fault Refusal :=
  scan floatWidths pm pg vd vs1 vs2 (fun md w k x => (nativeFmt w).add md k x) s

/-! ## Permutes, slides and moves (R138–R140) -/

/-- vrgather (R138). -/
def execVrgather (pm : Bool) (pg : PReg) (vd vs1 vs2 : VReg) (s : State) : Host.Outcome State Fault Refusal :=
  finish (simple allWidths pm pg vd [vs1, vs2] (fun c w i =>
    let j := elem w (c.vr vs2) i
    plainRes (if j < vlmax w then elem w (c.vr vs1) j else 0))) s

/-- vcompress (R139). -/
def execVcompress (pm : Bool) (pg : PReg) (vd vs1 : VReg) (s : State) : Host.Outcome State Fault Refusal :=
  finish (do
    let w ← vconfig allWidths
    wholeStart
    require (vd ≠ vs1) .vectorOverlap
    wholeWrite vd w (fun c =>
      let l := c.activeElems pm pg w vs1
      (if pm then l ++ List.replicate (c.vl.toNat - l.length) 0 else l, 0))) s

/-- viota (R138). -/
def execViota (pm : Bool) (pg : PReg) (vd : VReg) (s : State) : Host.Outcome State Fault Refusal :=
  finish (simple intWidths pm pg vd [] (fun c w i =>
    wrapped w ((List.range i).countP (fun j => c.active pm pg j)))) s

/-- vid (R138). -/
def execVid (pm : Bool) (pg : PReg) (vd : VReg) (s : State) : Host.Outcome State Fault Refusal :=
  finish (simple intWidths pm pg vd [] (fun _ w i => wrapped w i)) s

/-- vslideup (R138): elements below the amount are not written in either mode. -/
def execVslideup (pm : Bool) (pg : PReg) (vd vs1 : VReg) (rs : SReg) (s : State) : Host.Outcome State Fault Refusal :=
  finish (do
    let w ← vconfig allWidths
    require (vd ≠ vs1) .vectorOverlap
    let n ← readX rs
    elementwise pm pg false vd w w n.toNat (fun _ => 0) (fun c i _ _ => plainRes (elem w (c.vr vs1) (i - n.toNat)))) s

/-- vslidedn (R138). -/
def execVslidedn (pm : Bool) (pg : PReg) (vd vs1 : VReg) (rs : SReg) (s : State) : Host.Outcome State Fault Refusal :=
  finish (simple allWidths pm pg vd [vs1] (fun c w i =>
    let j := i + (c.x rs).toNat
    plainRes (if j < vlmax w then elem w (c.vr vs1) j else 0))) s

/-- vslide1up (R138). -/
def execVslide1up (pm : Bool) (pg : PReg) (vd vs1 : VReg) (rs : SReg) (s : State) : Host.Outcome State Fault Refusal :=
  finish (simple allWidths pm pg vd [vs1] (fun c w i =>
    plainRes (if i = 0 then c.e rs w else elem w (c.vr vs1) (i - 1)))) s

/-- vslide1dn (R138). -/
def execVslide1dn (pm : Bool) (pg : PReg) (vd vs1 : VReg) (rs : SReg) (s : State) : Host.Outcome State Fault Refusal :=
  finish (simple allWidths pm pg vd [vs1] (fun c w i =>
    plainRes (if i + 1 = c.vl.toNat then c.e rs w else elem w (c.vr vs1) (i + 1)))) s

/-- vmv.xs (R140). -/
def execVmvXs (rs : SReg) (vs1 : VReg) (s : State) : Host.Outcome State Fault Refusal :=
  finish (do
    let w ← vconfig allWidths
    wholeStart
    checkedWhole w
    modCtx (fun c =>
      let x := elem w (c.vr vs1) 0
      { c.setX rs (if w = 6 then BitVec.ofNat 64 x else BitVec.ofInt 64 (toInt w x)) with vstart := 0 })
    retire 4) s

/-- vmv.sx (R140). -/
def execVmvSx (vd : VReg) (rs : SReg) (s : State) : Host.Outcome State Fault Refusal :=
  finish (do
    let w ← vconfig allWidths
    wholeStart
    wholeWrite vd w (fun c => ([c.e rs w], 0))) s

/-! ## Special functions (R141) -/

/-- A special function over FP16 or FP32. -/
def specialV (g : Special) (pm : Bool) (pg : PReg) (vd vs1 : VReg) (s : State) : Host.Outcome State Fault Refusal :=
  finish (simple [16, 32] pm pg vd [] (fun c w i => (nativeFmt w).special c.md g (elem w (c.vr vs1) i))) s

/-- vexp2 (Table 7.7). -/
def execVexp2 (pm : Bool) (pg : PReg) (vd vs1 : VReg) (s : State) : Host.Outcome State Fault Refusal :=
  specialV .exp2 pm pg vd vs1 s

/-- vlog2 (Table 7.7). -/
def execVlog2 (pm : Bool) (pg : PReg) (vd vs1 : VReg) (s : State) : Host.Outcome State Fault Refusal :=
  specialV .log2 pm pg vd vs1 s

/-- vrcp (Table 7.7). -/
def execVrcp (pm : Bool) (pg : PReg) (vd vs1 : VReg) (s : State) : Host.Outcome State Fault Refusal :=
  specialV .rcp pm pg vd vs1 s

/-- vrsqrt (Table 7.7). -/
def execVrsqrt (pm : Bool) (pg : PReg) (vd vs1 : VReg) (s : State) : Host.Outcome State Fault Refusal :=
  specialV .rsqrt pm pg vd vs1 s

/-- vsin (Table 7.7). -/
def execVsin (pm : Bool) (pg : PReg) (vd vs1 : VReg) (s : State) : Host.Outcome State Fault Refusal :=
  specialV .sin pm pg vd vs1 s

/-- vcos (Table 7.7). -/
def execVcos (pm : Bool) (pg : PReg) (vd vs1 : VReg) (s : State) : Host.Outcome State Fault Refusal :=
  specialV .cos pm pg vd vs1 s

/-- vtanh (Table 7.7). -/
def execVtanh (pm : Bool) (pg : PReg) (vd vs1 : VReg) (s : State) : Host.Outcome State Fault Refusal :=
  specialV .tanh pm pg vd vs1 s

/-- verf (Table 7.7). -/
def execVerf (pm : Bool) (pg : PReg) (vd vs1 : VReg) (s : State) : Host.Outcome State Fault Refusal :=
  specialV .erf pm pg vd vs1 s

/-! ## Compares (R142) -/

/-- A predicate after an instruction that gives the bits below VL, with VSTART ≥ VL writing none (R16). -/
def predWrite (pd : PReg) (w : Nat) (f : Ctx → List Bool × Flags) : M Unit := do
  checkedWhole w
  modCtx (fun c =>
    let r := if c.vl ≤ c.vstart then ([], 0) else f c
    { (c.setP pd (packBits r.1 (c.pr pd))).raiseFlags r.2 with vstart := 0 })
  retire 4

/-- A compare c(w, a, b). -/
def compareV (allowed : List Nat) (pm : Bool) (pg pd : PReg) (vs1 vs2 : VReg) (f : Nat → Nat → Nat → Bool × Flags)
    (s : State) : Host.Outcome State Fault Refusal :=
  finish (do
    let w ← vconfig allowed
    wholeStart
    predWrite pd w (fun c =>
      let rs := (List.range c.vl.toNat).map (fun i =>
        if c.active pm pg i then f w (elem w (c.vr vs1) i) (elem w (c.vr vs2) i)
        else ((c.pr pd).getLsbD i && !pm, 0))
      (rs.map (·.1), rs.foldl (fun a r => a ||| r.2) 0))) s

/-- An integer compare. -/
def intCompareV (pm : Bool) (pg pd : PReg) (vs1 vs2 : VReg) (f : Nat → Nat → Nat → Bool) (s : State) :
    Host.Outcome State Fault Refusal :=
  compareV intWidths pm pg pd vs1 vs2 (fun w a b => (f w a b, 0)) s

/-- A floating-point compare (R87). -/
def floatCompareV (pm : Bool) (pg pd : PReg) (vs1 vs2 : VReg) (op : FCmp) (s : State) : Host.Outcome State Fault Refusal :=
  compareV floatWidths pm pg pd vs1 vs2 (fun w a b => (nativeFmt w).compare op a b) s

/-- vmseq (R142). -/
def execVmseq (pm : Bool) (pg pd : PReg) (vs1 vs2 : VReg) (s : State) : Host.Outcome State Fault Refusal :=
  intCompareV pm pg pd vs1 vs2 (fun _ a b => a == b) s

/-- vmsne (R142). -/
def execVmsne (pm : Bool) (pg pd : PReg) (vs1 vs2 : VReg) (s : State) : Host.Outcome State Fault Refusal :=
  intCompareV pm pg pd vs1 vs2 (fun _ a b => a != b) s

/-- vmslt (R142). -/
def execVmslt (pm : Bool) (pg pd : PReg) (vs1 vs2 : VReg) (s : State) : Host.Outcome State Fault Refusal :=
  intCompareV pm pg pd vs1 vs2 (fun w a b => decide (toInt w a < toInt w b)) s

/-- vmsle (R142). -/
def execVmsle (pm : Bool) (pg pd : PReg) (vs1 vs2 : VReg) (s : State) : Host.Outcome State Fault Refusal :=
  intCompareV pm pg pd vs1 vs2 (fun w a b => decide (toInt w a ≤ toInt w b)) s

/-- vmsltu (R142). -/
def execVmsltu (pm : Bool) (pg pd : PReg) (vs1 vs2 : VReg) (s : State) : Host.Outcome State Fault Refusal :=
  intCompareV pm pg pd vs1 vs2 (fun _ a b => decide (a < b)) s

/-- vmsleu (R142). -/
def execVmsleu (pm : Bool) (pg pd : PReg) (vs1 vs2 : VReg) (s : State) : Host.Outcome State Fault Refusal :=
  intCompareV pm pg pd vs1 vs2 (fun _ a b => decide (a ≤ b)) s

/-- vmfeq (R142). -/
def execVmfeq (pm : Bool) (pg pd : PReg) (vs1 vs2 : VReg) (s : State) : Host.Outcome State Fault Refusal :=
  floatCompareV pm pg pd vs1 vs2 .eq s

/-- vmflt (R142). -/
def execVmflt (pm : Bool) (pg pd : PReg) (vs1 vs2 : VReg) (s : State) : Host.Outcome State Fault Refusal :=
  floatCompareV pm pg pd vs1 vs2 .lt s

/-- vmfle (R142). -/
def execVmfle (pm : Bool) (pg pd : PReg) (vs1 vs2 : VReg) (s : State) : Host.Outcome State Fault Refusal :=
  floatCompareV pm pg pd vs1 vs2 .le s

/-- vmfun (R142). -/
def execVmfun (pm : Bool) (pg pd : PReg) (vs1 vs2 : VReg) (s : State) : Host.Outcome State Fault Refusal :=
  floatCompareV pm pg pd vs1 vs2 .un s

/-! ## Predicate operations (R143, R393) -/

/-- The checks of a predicate instruction. -/
def predConfig : M Nat := do
  let w ← vconfig allWidths
  wholeStart
  return w

/-- A predicate instruction whose bit i is f(c, i) where A(i) holds and 0 elsewhere below VL. -/
def predOp (pg pd : PReg) (f : Ctx → Nat → Bool) (s : State) : Host.Outcome State Fault Refusal :=
  finish (do
    let w ← predConfig
    predWrite pd w (fun c => ((List.range c.vl.toNat).map (fun i => c.governed pg i && f c i), 0))) s

/-- pand (R143). -/
def execPand (pg pd pa pb : PReg) (s : State) : Host.Outcome State Fault Refusal :=
  predOp pg pd (fun c i => (c.pr pa).getLsbD i && (c.pr pb).getLsbD i) s

/-- por (R143). -/
def execPor (pg pd pa pb : PReg) (s : State) : Host.Outcome State Fault Refusal :=
  predOp pg pd (fun c i => (c.pr pa).getLsbD i || (c.pr pb).getLsbD i) s

/-- pxor (R143). -/
def execPxor (pg pd pa pb : PReg) (s : State) : Host.Outcome State Fault Refusal :=
  predOp pg pd (fun c i => (c.pr pa).getLsbD i ^^ (c.pr pb).getLsbD i) s

/-- pandn (R143). -/
def execPandn (pg pd pa pb : PReg) (s : State) : Host.Outcome State Fault Refusal :=
  predOp pg pd (fun c i => (c.pr pa).getLsbD i && !(c.pr pb).getLsbD i) s

/-- pnot (R143). -/
def execPnot (pg pd pa : PReg) (s : State) : Host.Outcome State Fault Refusal :=
  predOp pg pd (fun c i => !(c.pr pa).getLsbD i) s

/-- The lowest i < VL with A(i) and pa[i] = 1. -/
def Ctx.firstSet (c : Ctx) (pg pa : PReg) : Option Nat :=
  (List.range c.vl.toNat).find? (fun i => c.governed pg i && (c.pr pa).getLsbD i)

/-- pcut (R143). -/
def execPcut (pg pd pa : PReg) (s : State) : Host.Outcome State Fault Refusal :=
  predOp pg pd (fun c i => decide (i ≤ (c.firstSet pg pa).getD c.vl.toNat)) s

/-- psetn (R143). -/
def execPsetn (pg pd : PReg) (rs : SReg) (s : State) : Host.Outcome State Fault Refusal :=
  predOp pg pd (fun c i => decide (i < (c.x rs).toNat)) s

/-- A predicate instruction with a scalar or condition result, computed over every i < VL (R393). -/
def predScalar (f : Ctx → Ctx) (s : State) : Host.Outcome State Fault Refusal :=
  finish (do
    let w ← predConfig
    checkedWhole w
    modCtx (fun c => { f c with vstart := 0 })
    retire 4) s

/-- pfind (R143, R393). -/
def execPfind (pg : PReg) (rd : SReg) (pa : PReg) (s : State) : Host.Outcome State Fault Refusal :=
  predScalar (fun c => c.setX rd (match c.firstSet pg pa with
    | some i => BitVec.ofNat 64 i
    | none => 0xFFFFFFFFFFFFFFFF)) s

/-- ppopc (R143, R393). -/
def execPpopc (pg : PReg) (rd : SReg) (pa : PReg) (s : State) : Host.Outcome State Fault Refusal :=
  predScalar (fun c => c.setX rd (BitVec.ofNat 64
    ((List.range c.vl.toNat).countP (fun i => c.governed pg i && (c.pr pa).getLsbD i)))) s

/-- pany (R143, R393). -/
def execPany (pg : PReg) (kd : KReg) (pa : PReg) (s : State) : Host.Outcome State Fault Refusal :=
  predScalar (fun c => c.setK kd (c.firstSet pg pa).isSome) s

end Sys2Proof.Machine
end

