-- ==== Sys2Proof/Machine/VectorMemory.lean ====
section
/-! DEFINITION. Vector memory instructions (R44–R47, R144–R150) and the sequence transfers `seqld` and `seqst` (R198).
An instruction first finds the place of every element up to the first that raises a cause, then performs them. -/

namespace Sys2Proof.Machine
open Sys2Proof

/-! ## The places of elements -/

/-- Bits of one line that belong to an element: `len` bits from bit `bit` of the line, from bit `shift` of the
element. -/
structure Part where
  line : LineId
  bit : Nat
  len : Nat
  shift : Nat
  deriving DecidableEq, Repr

/-- An element with its address and its parts; `desc` is the part of its group's descriptor or scale (R44). -/
structure Slot where
  i : Nat
  ea : Word
  parts : List Part
  desc : Option Part
  deriving DecidableEq, Repr

/-- How an instruction reaches memory: the access, the window of its base address, whether it is unit-stride or not, and
whether its bit offset is one that the element width does not allow. -/
structure VAccess where
  acc : Access
  window : Nat
  unit : Bool
  skew : Bool
  deriving DecidableEq, Repr

/-- The alias window that an address names, of any core; 0 elsewhere (R145). -/
def windowOf (n : Nat) (ea : Word) : Nat :=
  match untranslated n ea.toNat with
  | some (.ok (.own w _)) => w
  | some (.ok (.remote _ w _)) => w
  | _ => 0

/-- Element bits of an alias window (Table 2.5). -/
def windowBits (w : Nat) : Nat :=
  match w with
  | 4 => 8 | 6 => 6 | 7 => 8 | _ => 4

/-- Group bytes Bg and descriptor bytes Md of an alias window (Table 2.5). -/
def windowGroup (w : Nat) : Nat × Nat :=
  match w with
  | 1 => (16, 4) | 2 => (32, 4) | 3 => (64, 4) | 4 => (32, 4) | 5 => (16, 1) | 6 => (24, 1) | _ => (32, 1)

/-- The byte that an access of `n` bytes starts at, or its cause with the element's address (R44, R46, R145). The window of
the base address decodes every element: one that lies in another of the core's windows raises access-target (log 67). -/
def placeOf (v : VAccess) (ea : Word) (a : Word) (n : Nat) : M (Except Failed Target) := do
  match ← resolve v.acc a.toNat with
  | .error f => return .error (f.1, ea)
  | .ok (.hbm pa) => return .ok (.hbm pa)
  | .ok (.own w off) =>
    if v.acc = .store then
      return if w ≠ 0 then .error (.awWrite, ea) else .ok (.own w off)
    else if w ≠ v.window ∨ (w ≠ 0 ∧ !v.unit) then return .error (.accessTarget, ea)
    else if w ≠ 0 ∧ windowLim w < off + n then return .error (.awRange, ea)
    else return .ok (.own w off)
  | .ok (.remote _ w _) => return .error (if v.acc = .store ∧ w ≠ 0 then .awWrite else .accessTarget, ea)
  | .ok (.host _) => return .error (.accessTarget, ea)
  | .ok (.peer _ _) => return .error (.accessTarget, ea)

/-- A write of an assured chunk falls outside its rounded write ranges (R181, R229). -/
def State.outside (s : State) (t : Target) (ea : Word) (n : Nat) : Bool :=
  match t with
  | .hbm _ =>
    match s.chunk, s.region with
    | some c, some r => r.assured && !r.frec.mayWrite r.total c.q ea.toNat n
    | _, _ => false
  | _ => false

/-- The parts of an element of `w` bits at bit `b` of byte `ea` (R144, R146). -/
def placeElem (v : VAccess) (ea : Word) (b w : Nat) : M (Except Failed (List Part)) := do
  let n := (b + w + 7) / 8
  if v.skew || (!v.unit && ea.toNat % (w / 8) != 0) then return .error (.misalignedAccess, ea)
  match ← placeOf v ea ea n with
  | .error f => return .error f
  | .ok t =>
    let s ← getState
    let stray : Bool := v.acc = .store && s.outside t ea n
    let room := 128 - t.within
    if n ≤ room then return if stray then .error (.assuredRange, ea) else .ok [⟨t.line s.cur, 8 * t.within + b, w, 0⟩]
    else
      match ← placeOf v ea (ea + BitVec.ofNat 64 room) (n - room) with
      | .error f => return .error f
      | .ok t2 =>
        if stray then return .error (.assuredRange, ea)
        let first := 8 * room - b
        return .ok [⟨t.line s.cur, 8 * t.within + b, first, 0⟩, ⟨t2.line s.cur, 8 * t2.within, w - first, first⟩]

/-- Where the elements `is` lie, up to the first that raises a cause; `at_ i` is the byte address and bit of element i. -/
def placeAll (v : VAccess) (w : Nat) (at_ : Nat → Word × Nat) : List Nat → M (List Slot × Option (Nat × Failed))
  | [] => pure ([], none)
  | i :: t => do
    let (ea, b) := at_ i
    match ← placeElem v ea b w with
    | .error f => pure ([], some (i, f))
    | .ok parts =>
      let (l, f) ← placeAll v w at_ t
      pure (⟨i, ea, parts, none⟩ :: l, f)

/-- Element i of a unit-stride stream that starts at bit `b` of byte `ea` (R144). -/
def unitAt (ea : Word) (b w i : Nat) : Word × Nat :=
  let bp := b + w * i
  (ea + BitVec.ofNat 64 (bp / 8), bp % 8)

/-- The active elements from VSTART to below `n`. -/
def Ctx.activeList (c : Ctx) (pm : Bool) (pg : PReg) (n : Nat) : List Nat :=
  (List.range n).filter (fun i => decide (c.vstart.toNat ≤ i) && c.active pm pg i)

/-- A bit offset that the element width allows (R144). -/
def offsetOk (w b : Nat) : Bool :=
  if 8 ≤ w then b == 0 else if w = 6 then b % 2 == 0 else b == 0 || b == 4

/-! ## Loads -/

/-- The lines of elements that cross a line: they are read at their coherence points, both in one step, so that the element
is single-copy atomic (R145, R265). A chunk's reads take their place at its commit (R272). -/
def freshLines (slots : List Slot) : M Unit := do
  let s ← getState
  let crossing := (slots.filter (fun x => decide (1 < x.parts.length))).flatMap (fun x => x.parts.map (·.line))
  if !s.speculative && !crossing.isEmpty then
    modCore (fun c => { c with l1 := c.l1.filter (fun e => e.2.frozen || !crossing.contains (.hbm e.1)) })

/-- The lines of the slots, each read once. -/
def readLines : List LineId → M (List (LineId × BitVec 1024))
  | [] => pure []
  | l :: t => do
    let d ← readLine l
    let r ← readLines t
    pure ((l, d) :: r)

/-- The bits of a part. -/
def Part.value (p : Part) (lines : List (LineId × BitVec 1024)) : Nat :=
  match lines.find? (fun x => decide (x.1 = p.line)) with
  | some x => bits x.2.toNat p.bit p.len * 2 ^ p.shift
  | none => 0

/-- A granule that the part touches is poisoned (R380). -/
def Part.poisoned (p : Part) (s : State) : Bool := s.readPoisoned p.line (p.bit / 8) ((p.bit % 8 + p.len + 7) / 8)

/-- The scratchpad bytes of the descriptor of the group that holds data byte `o` of window `w` (R44). -/
def descPart (n w o : Nat) : Part :=
  let (bg, md) := windowGroup w
  let d := 0x70000 + o / bg * md
  ⟨.scratch n (d / 128), 8 * (d % 128), 8 * md, 0⟩

/-- Value of an element of a block-scaled window (R29, R45); `none` is a NaN. -/
def blockValue (w code scale : Nat) : Option FVal :=
  let f := match w with
    | 5 => fp4e2m1 | 6 => fp6e2m3 | _ => fp8e4m3
  if scale = 255 then none
  else match f.decode code with
    | .nan _ => none
    | .inf n => some (.inf n)
    | .fin n m e => some (.fin n m (e + scale - 127))

/-- An element of an alias window decoded to FP32 or FP16 (R45). -/
def windowDecode (w ew : Nat) (md : Rnd) (u : BitVec 32) (code desc : Nat) : FRes :=
  let f := nativeFmt ew
  if w ≤ 4 then aqDecode f md u (w == 4) code desc
  else match blockValue w code desc with
    | none => ⟨f.nanCode, 0, false⟩
    | some v => f.round (if ew = 32 then .rne else md) u v

/-- Causes for which `vldff` shortens VL (R147). -/
def softCause : Cause → Bool
  | .loadTranslation => true
  | .loadProtection => true
  | .accessTarget => true
  | .awRange => true
  | .poisonConsumed => true
  | _ => false

/-- The value of element i: from memory where it has a slot, else `other`. -/
def loadResult (w ew : Nat) (raw : Bool) (md : Rnd) (slots : List Slot) (lines : List (LineId × BitVec 1024))
    (other : Nat → Nat) (i : Nat) (u : BitVec 32) : FRes :=
  match slots.find? (fun x => x.i == i) with
  | none => plainRes (other i)
  | some x =>
    let code := x.parts.foldl (fun n p => n + p.value lines) 0
    match raw, x.desc with
    | false, some d => windowDecode w ew md u code (d.value lines)
    | _, _ => plainRes code

/-- The end of a load whose elements from memory are the slots: the elements below the first cause, or below a cut, are
written, and the cause is raised, or shortens VL in `vldff` (R127, R146, R147). -/
def finishLoad (ff : Bool) (pm : Bool) (pg : PReg) (vd : VReg) (v : VAccess) (ew : Nat) (raw : Bool) (mem : List Nat)
    (slots : List Slot) (fault : Option (Nat × Failed)) (cut : Option Cut) (other : Ctx → Nat → Nat) : M Unit := do
  let all := slots.flatMap (fun x => x.parts ++ x.desc.toList)
  freshLines slots
  let lines ← readLines (all.map (·.line)).eraseDups
  let s ← getState
  let fault := match slots.find? (fun x => (x.parts ++ x.desc.toList).any (fun p => p.poisoned s)) with
    | some x => some (x.i, (Cause.poisonConsumed, x.ea))
    | none => fault
  let c ← getCtx
  let n := match fault, cut with
    | some f, _ => f.1
    | none, some x => x.elem
    | none, none => c.vl.toNat
  let r := runElems (c.active pm pg) pm c.vstart.toNat
    (fun i _ u => loadResult v.window ew raw (rndOf c.rndm) slots lines (other c) i u) 0 0 c.seed (c.dest false vd ew n)
  let c' (complete : Bool) (c : Ctx) : Ctx :=
    { (c.setDest false vd ew r.codes complete).raiseFlags r.flags with seed := r.seed }
  if cut.isSome && fault.isSome then dropUpset
  match fault, cut with
  | none, none =>
    modCtx (fun c => { c' true c with vstart := 0 })
    retire 4
  | none, some x =>
    modCtx (c' false)
    endCut x
  | some (j, cause, tval), _ =>
    if ff && softCause cause && mem.any (fun i => decide (i < j)) then
      modCtx (fun c => { c' true { c with vl := BitVec.ofNat 11 j } with vstart := 0 })
      retire 4
    else
      modCtx (fun c => { c' false c with vstart := BitVec.ofNat 11 j })
      raiseElem cause tval

/-- A cut ends the elements at and above it (R124, R127, R374). The access of an element that meets a mismatch is still
checked before the mismatch counts (steps 10 and 11 of Table 22.3). -/
def checkedList (ew : Nat) (mem : List Nat) : M (List Nat × Option Cut) := do
  let cut ← checkedIssue ew
  return (match cut with
    | none => mem
    | some x => mem.filter (fun i => decide (i < x.elem) || (x.mismatch && i == x.elem)), cut)

/-- The slots that a cut leaves. -/
def beforeCut (cut : Option Cut) (slots : List Slot) : List Slot :=
  match cut with
  | none => slots
  | some x => slots.filter (fun y => decide (y.i < x.elem))

/-- Wm of an access at `ea` (R144): EW, or the element bits of an alias window. -/
def State.memWidth (s : State) (ew : Nat) (ea : Word) : Nat :=
  if windowOf s.cur ea = 0 then ew else windowBits (windowOf s.cur ea)

/-- The memory element width of a unit-stride load at `ea`, and whether it delivers raw codes (R45, R144). -/
def windowConfig (ew : Nat) (ea : Word) : M (Nat × Nat × Bool) := do
  let s ← getState
  let w := windowOf s.cur ea
  if w = 0 then return (0, ew, true)
  let wb := windowBits w
  require (ew = wb ∨ ew = 16 ∨ ew = 32) .vectorConfiguration
  return (w, wb, decide (ew = wb))

/-- A load of elements `mem` of `wm` bits, element i at `at_ i`. An element takes the descriptor or scale of the group that
holds its first byte (R44, log 68). -/
def loadElems (ff : Bool) (pm : Bool) (pg : PReg) (vd : VReg) (v : VAccess) (ew wm : Nat) (raw : Bool) (mem : List Nat)
    (at_ : Nat → Word × Nat) (other : Ctx → Nat → Nat) : M Unit := do
  modCtx (fun c => c.namesV vd)
  let (mem, cut) ← checkedList ew mem
  let (slots, fault) ← placeAll v wm at_ mem
  let slots := beforeCut cut slots
  let s ← getState
  let slots := if raw then slots else slots.map (fun x => match untranslated s.cur x.ea.toNat with
    | some (.ok (.own w off)) => { x with desc := some (descPart s.cur w off) }
    | _ => x)
  finishLoad ff pm pg vd v ew raw mem slots fault cut other

/-- A unit-stride load (R144–R147). -/
def unitLoad (ff : Bool) (pm : Bool) (pg : PReg) (vd : VReg) (base : SReg) (b : BitVec 3) : M Unit := do
  let ew ← vconfig allWidths
  let ea ← readX base
  let (w, wm, raw) ← windowConfig ew ea
  let c ← getCtx
  loadElems ff pm pg vd ⟨.load, w, true, !offsetOk wm b.toNat⟩ ew wm raw (c.activeList pm pg c.vl.toNat) (unitAt ea b.toNat wm) (fun _ _ => 0)

/-- vld (R144–R146). -/
def execVld (pm : Bool) (pg : PReg) (v : VReg) (base : SReg) (b : BitVec 3) (s : State) :
    Host.Outcome State Fault Refusal := finish (unitLoad false pm pg v base b) s

/-- vldff (R147). -/
def execVldff (pm : Bool) (pg : PReg) (v : VReg) (base : SReg) (b : BitVec 3) (s : State) :
    Host.Outcome State Fault Refusal := finish (unitLoad true pm pg v base b) s

/-- EW and Wm of a strided or indexed form at `ea` (R144); a load through an alias window has one of the widths of R45. -/
def wideConfig (acc : Access) (ea : Word) : M (Nat × Nat) := do
  let ew ← vconfig allWidths
  let wm := (← getState).memWidth ew ea
  require (8 ≤ wm) .vectorConfiguration
  if acc = .load then
    let _ ← windowConfig ew ea
  return (ew, wm)

/-- Element i of a strided form (R144). -/
def stridedAt (ea stride : Word) (i : Nat) : Word × Nat := (ea + BitVec.ofNat 64 i * stride, 0)

/-- Element i of an indexed form (R144). -/
def indexedAt (ea : Word) (idx : BitVec 4096) (i : Nat) : Word × Nat := (ea + BitVec.ofNat 64 (elem 32 idx i), 0)

/-- The checks of an indexed form (R126, R144). -/
def indexedConfig (acc : Access) (v vi : VReg) (ea : Word) : M (Nat × Nat) := do
  let ws ← wideConfig acc ea
  let c ← getCtx
  require (c.vl.toNat ≤ 128) .vectorConfiguration
  require (v ≠ vi) .vectorOverlap
  return ws

/-- vlds (R144). -/
def execVlds (pm : Bool) (pg : PReg) (v : VReg) (base rs : SReg) (s : State) : Host.Outcome State Fault Refusal :=
  finish (do
    let (ew, wm) ← wideConfig .load (← readX base)
    let c ← getCtx
    let w := windowOf (← getState).cur (c.x base)
    loadElems false pm pg v ⟨.load, w, false, false⟩ ew wm true (c.activeList pm pg c.vl.toNat) (stridedAt (c.x base) (c.x rs))
      (fun _ _ => 0)) s

/-- vldx (R144). -/
def execVldx (pm : Bool) (pg : PReg) (v : VReg) (base : SReg) (vi : VReg) (s : State) :
    Host.Outcome State Fault Refusal :=
  finish (do
    let (ew, wm) ← indexedConfig .load v vi (← readX base)
    let c ← getCtx
    let w := windowOf (← getState).cur (c.x base)
    loadElems false pm pg v ⟨.load, w, false, false⟩ ew wm true (c.activeList pm pg c.vl.toNat) (indexedAt (c.x base) (c.vr vi))
      (fun _ _ => 0)) s

/-- vldbc (R148): one element for every active one, read once. -/
def execVldbc (pm : Bool) (pg : PReg) (v : VReg) (base : SReg) (s : State) : Host.Outcome State Fault Refusal :=
  finish (do
    let ew ← vconfig allWidths
    let ea ← readX base
    let (w, wm, raw) ← windowConfig ew ea
    let c ← getCtx
    loadElems false pm pg v ⟨.load, w, true, false⟩ ew wm raw (c.activeList pm pg c.vl.toNat) (fun _ => (ea, 0)) (fun _ _ => 0)) s

/-- vldsr (R148): a sliding window, whose vacated tail comes from memory. -/
def execVldsr (v : VReg) (base rs : SReg) (s : State) : Host.Outcome State Fault Refusal :=
  finish (do
    let ew ← vconfig allWidths
    let ea ← readX base
    let (w, wm, raw) ← windowConfig ew ea
    let c ← getCtx
    let k := Nat.min (c.x rs).toNat c.vl.toNat
    let keep := c.vl.toNat - k
    loadElems false false 0 v ⟨.load, w, true, false⟩ ew wm raw
      ((c.activeList false 0 c.vl.toNat).filter (fun i => decide (keep ≤ i))) (fun i => unitAt ea 0 wm (i - keep))
      (fun c i => elem ew (c.vr v) (i + k))) s

/-! ## Stores -/

/-- Consecutive elements stored together: the first of them with its address, and bits of one line, or of two for an
element that crosses a line. -/
structure Run where
  first : Nat
  ea : Word
  parts : List (LineId × BitVec 1024 × BitVec 1024)
  deriving DecidableEq, Repr

/-- The bits that element value `x` writes in a line, and their mask. -/
def Part.bitsOf (p : Part) (x : Nat) : LineId × BitVec 1024 × BitVec 1024 :=
  (p.line, BitVec.ofNat 1024 (bits x p.shift p.len * 2 ^ p.bit), BitVec.ofNat 1024 (maskBits p.bit p.len))

/-- Slots gathered into runs; a later element of a line overwrites an earlier one (R146). -/
def gatherRuns (value : Nat → Nat) : List Slot → List Run
  | [] => []
  | x :: t =>
    let ps := x.parts.map (fun p => p.bitsOf (value x.i))
    let rest := gatherRuns value t
    match ps, rest with
    | [(l, d, m)], ⟨_, _, [(l', d', m')]⟩ :: r =>
      if l = l' then ⟨x.i, x.ea, [(l, (d &&& ~~~m') ||| d', m ||| m')]⟩ :: r else ⟨x.i, x.ea, ps⟩ :: rest
    | _, _ => ⟨x.i, x.ea, ps⟩ :: rest

/-- The bytes that a bit mask touches. -/
def touchedBytes (m : BitVec 1024) : BitVec 128 :=
  BitVec.ofNat 128 (pack 1 ((elems 8 128 m.toNat).map (fun b => bit (decide (b ≠ 0)))))

/-- The bytes that a bit mask covers whole. -/
def wholeBytes (m : BitVec 1024) : BitVec 128 :=
  BitVec.ofNat 128 (pack 1 ((elems 8 128 m.toNat).map (fun b => bit (decide (b = 255)))))

/-- A store to the line raises WRITE_FROZEN: its frame is FROZEN and the chunk holds no version of it (R146, R213). -/
def State.frozenLine (s : State) (l : LineId) : Bool :=
  match l with
  | .hbm line => decide (s.frame (line * 128) = .frozen) &&
      !(s.speculative && (match s.chunk with | some c => c.versions.any (fun v => decide (v.line = l)) | none => false))
  | .scratch _ _ => false

/-- `f` for every line. -/
def eachLine (f : LineId → M Unit) : List LineId → M Unit
  | [] => pure ()
  | l :: t => do
    f l
    eachLine f t

/-- Both lines of an element that crosses a line are written at one logical time (R145, R265, R270). -/
def State.raiseFor (s : State) (ls : List LineId) : State :=
  let rts (l : LineId) : Nat := match l with
    | .scratch _ line => Bank.get 0 s.me.scratchRts line
    | .hbm line => s.lineRts (dieOf s.cur) line
  s.mapCore s.cur (fun c => { c with lts := ls.foldl (fun m l => Nat.max m (rts l + 1)) c.lts })

/-- The right to write each line is at hand, or the instruction waits: a version of a speculative chunk, which may lose its
speculation over it (R214), or the line at its coherence point. -/
def prepareLines (ea : Word) (ls : List LineId) : M Unit := do
  if (← getState).speculative then
    eachLine (fun l => do
      versionable l ea
      let _ ← versionFor l) ls
  if !(← getState).speculative then
    eachLine (fun l => ownLine l ea) ls
    if 1 < ls.length then modState (fun s => s.raiseFor ls)

/-- Bits of a line stored by the current context, the rest of their bytes left as they are (R145). -/
def writeLineBits (ea : Word) (p : LineId × BitVec 1024 × BitVec 1024) : M Unit := do
  let (l, data, mask) := p
  let s ← getState
  let old ← if s.speculative then (do let v ← versionFor l; pure v.data) else pure (s.ownedData l)
  writeLine l (mergeBits old data mask) (touchedBytes mask) ea

/-- One run is stored (R101, R146, R214). -/
def storeRun (r : Run) : M Unit := do
  modCtx (fun c => { c with vstart := BitVec.ofNat 11 r.first })
  let s ← getState
  if s.speculative && r.parts.any (fun p => s.framesFull s.cur p.1) then
    awaitEnsign
    stall
  if r.parts.any (fun p => s.frozenLine p.1) then
    dropUpset
    raiseElem .writeFrozen r.ea
  prepareLines r.ea (r.parts.map (·.1))
  match r.parts with
  | [p] => writeLineBits r.ea p
  | [p, q] =>
    writeLineBits r.ea p
    writeLineBits r.ea q
  | _ => pure ()

def storeRuns : List Run → M Unit
  | [] => pure ()
  | r :: t => do
    storeRun r
    storeRuns t

/-- The bytes of a set of granules of a line. -/
def granuleBytes (g : BitVec 8) : BitVec 128 :=
  BitVec.ofNat 128 (pack 16 ((List.range 8).map (fun i => if g.getLsbD i then 0xFFFF else 0)))

/-- Granules that the runs write whole lose their poison, at the line's coherence point and at its home: the instruction is one
store (R380). -/
def State.clearWhole (s : State) (l : LineId) (mask : BitVec 1024) : State :=
  let full := fullGranules (wholeBytes mask).toNat 8
  match l with
  | .hbm line =>
    let die := dieOf s.cur
    let g := s.pointPoison die line &&& BitVec.ofNat 8 full
    if g = 0 then s
    else
      let s := s.writeLine die line (s.lineData die line) (granuleBytes g) (s.lineWts die line) 0
      s.mapCore s.cur (fun c => { c with l1 := match Bank.find c.l1 line with
        | some e => Bank.put c.l1 line { e with poison := s.pointPoison die line }
        | none => c.l1 })
  | .scratch n line => s.mapCore n (fun c => { c with scratchPoison := setPoison c.scratchPoison line 0 full 8 })

/-- The same for a version of the current chunk. -/
def State.clearVersion (s : State) (l : LineId) (mask : BitVec 1024) : State :=
  let full := BitVec.ofNat 8 (fullGranules (wholeBytes mask).toNat 8)
  s.mapMyChunk (fun c => { c with versions := c.versions.map (fun v => if v.line = l then { v with poison := v.poison &&& ~~~full } else v) })

/-- The frozen line that the element at a mismatch meets: it comes first (steps 10 and 11 of Table 22.3). -/
def State.frozenAt (s : State) (cut : Option Cut) (slots : List Slot) : Option (Nat × Failed) :=
  cut.bind (fun x => (slots.find? (fun y => y.i == x.elem && y.parts.any (fun p => s.frozenLine p.line))).map
    (fun y => (y.i, (Cause.writeFrozen, y.ea))))

/-- The end of a store whose elements below the first cause, or below a cut, have been performed (R124, R127, R146). -/
def endStore (fault : Option (Nat × Failed)) (cut : Option Cut) : M Unit := do
  match fault, cut with
  | none, none =>
    modCtx (fun c => { c with vstart := 0 })
    retire 4
  | none, some x => endCut x
  | some (j, cause, tval), _ =>
    if cut.isSome then dropUpset
    modCtx (fun c => { c with vstart := BitVec.ofNat 11 j })
    raiseElem cause tval

/-- A store of elements `mem` of `ew` bits, element i of `wm` bits at `at_ i` (R145, R146). -/
def storeElems (v : VReg) (va : VAccess) (ew wm : Nat) (mem : List Nat) (at_ : Nat → Word × Nat) : M Unit := do
  let (mem, cut) ← checkedList ew mem
  let (slots, fault) ← placeAll va wm at_ mem
  let s ← getState
  let fault := fault <|> s.frozenAt cut slots
  let c ← getCtx
  let runs := gatherRuns (elem ew (c.vr v)) (beforeCut cut slots)
  storeRuns runs
  let ps := runs.flatMap (·.parts)
  let whole (l : LineId) : BitVec 1024 := ps.foldl (fun m p => if p.1 = l then m ||| p.2.2 else m) 0
  modState (fun s => ((ps.map (·.1)).eraseDups).foldl (fun s l =>
    if s.speculative then s.clearVersion l (whole l) else s.clearWhole l (whole l)) s)
  endStore fault cut

/-- vst (R144–R146). -/
def execVst (pm : Bool) (pg : PReg) (v : VReg) (base : SReg) (b : BitVec 3) (s : State) :
    Host.Outcome State Fault Refusal :=
  finish (do
    let ew ← vconfig allWidths
    let ea ← readX base
    let wm := (← getState).memWidth ew ea
    let c ← getCtx
    storeElems v ⟨.store, 0, true, !offsetOk wm b.toNat⟩ ew wm (c.activeList pm pg c.vl.toNat) (unitAt ea b.toNat wm)) s

/-- vsts (R144). -/
def execVsts (pm : Bool) (pg : PReg) (v : VReg) (base rs : SReg) (s : State) : Host.Outcome State Fault Refusal :=
  finish (do
    let (ew, wm) ← wideConfig .store (← readX base)
    let c ← getCtx
    storeElems v ⟨.store, 0, false, false⟩ ew wm (c.activeList pm pg c.vl.toNat) (stridedAt (c.x base) (c.x rs))) s

/-- vstx (R144, R146). -/
def execVstx (pm : Bool) (pg : PReg) (v : VReg) (base : SReg) (vi : VReg) (s : State) :
    Host.Outcome State Fault Refusal :=
  finish (do
    let (ew, wm) ← indexedConfig .store v vi (← readX base)
    let c ← getCtx
    storeElems v ⟨.store, 0, false, false⟩ ew wm (c.activeList pm pg c.vl.toNat) (indexedAt (c.x base) (c.vr vi))) s

/-! ## vstr (R149) -/

/-- Where a remote store's byte lies: a line of another core's scratchpad. -/
def remoteByte (ea a : Word) : M (Except Failed (Nat × Nat)) := do
  match ← resolve .store a.toNat with
  | .error f => return .error (f.1, ea)
  | .ok (.remote core w off) => return if w ≠ 0 then .error (.awWrite, ea) else .ok (core, off)
  | .ok (.own w _) => return .error (if w ≠ 0 then .awWrite else .accessTarget, ea)
  | .ok _ => return .error (.accessTarget, ea)

/-- The parts of an element of `w` bits at bit `b` of byte `ea` of another core's scratchpad. -/
def remoteElem (skew : Bool) (ea : Word) (b w : Nat) : M (Except Failed (List Part)) := do
  let n := (b + w + 7) / 8
  if skew then return .error (.misalignedAccess, ea)
  match ← remoteByte ea ea with
  | .error f => return .error f
  | .ok (core, off) =>
    let room := 128 - off % 128
    if n ≤ room then return .ok [⟨.scratch core (off / 128), 8 * (off % 128) + b, w, 0⟩]
    else
      match ← remoteByte ea (ea + BitVec.ofNat 64 room) with
      | .error f => return .error f
      | .ok (core2, off2) =>
        let first := 8 * room - b
        return .ok [⟨.scratch core (off / 128), 8 * (off % 128) + b, first, 0⟩,
          ⟨.scratch core2 (off2 / 128), 8 * (off2 % 128), w - first, first⟩]

/-- The places of the elements `is`, up to the first that raises a cause. -/
def remoteAll (skew : Bool) (w : Nat) (at_ : Nat → Word × Nat) : List Nat → M (List Slot × Option (Nat × Failed))
  | [] => pure ([], none)
  | i :: t => do
    let (ea, b) := at_ i
    match ← remoteElem skew ea b w with
    | .error f => pure ([], some (i, f))
    | .ok parts =>
      let (l, f) ← remoteAll skew w at_ t
      pure (⟨i, ea, parts, none⟩ :: l, f)

/-- Bits for one line joined into one packet where they follow each other. -/
def joinPackets : List (LineId × BitVec 1024 × BitVec 1024) → List (LineId × BitVec 1024 × BitVec 1024)
  | [] => []
  | (l, d, m) :: t =>
    match joinPackets t with
    | (l', d', m') :: r => if l = l' then (l, (d &&& ~~~m') ||| d', m ||| m') :: r else (l, d, m) :: (l', d', m') :: r
    | [] => [(l, d, m)]

/-- A packet of a remote store leaves (R149, R266). -/
def State.sendPacket (s : State) (p : LineId × BitVec 1024 × BitVec 1024) : State :=
  match p.1 with
  | .scratch core line => s.post (.remoteStorePacket
      { src := s.cur, dst := core, asid := s.me.asid.toNat, line := line, data := p.2.1, mask := p.2.2, sync := none,
        bytes := 128, poison := 0 })
  | .hbm _ => s

/-- vstr (R149, R150). -/
def execVstr (pm : Bool) (pg : PReg) (v : VReg) (base : SReg) (b : BitVec 3) (s : State) :
    Host.Outcome State Fault Refusal :=
  finish (do
    let ew ← vconfig allWidths
    let ea ← readX base
    let wm := (← getState).memWidth ew ea
    awaitEnsign
    let c ← getCtx
    let (mem, cut) ← checkedList ew (c.activeList pm pg c.vl.toNat)
    let (slots, fault) ← remoteAll (!offsetOk wm b.toNat) wm (unitAt ea b.toNat wm) mem
    let ps := (beforeCut cut slots).flatMap (fun x => x.parts.map (fun p => p.bitsOf (elem ew (c.vr v) x.i)))
    modState (fun s => (joinPackets ps).foldl State.sendPacket s)
    endStore fault cut) s

/-! ## seqld, seqst (R198) -/

/-- A sequence transfer does not start inside its register (R198). -/
def seqStart : M Unit := do
  let c ← getCtx
  require (c.vstart = 0) .vectorConfiguration

/-- The four lines that the 512 bytes at X(rs1) cover. An address in aw1–aw7 raises access-target, which R198 gives for every
target but the two that it names, where R46 gives alias-window-write for a store there and R44 alias-window-range for a
load at or above Lim; R366 does not order them. DESIGN CHOICE (log 84). -/
def seqLines (acc : Access) (rs1 : SReg) : M (List LineId) := do
  let ea ← readX rs1
  if ea.toNat % 512 ≠ 0 then raise .misalignedAccess ea
  let t ← target acc ea
  match t with
  | .hbm _ => pure ()
  | .own w _ => if w ≠ 0 then raise .accessTarget ea
  | .remote _ _ _ => raise .accessTarget ea
  | .host _ => raise .accessTarget ea
  | .peer _ _ => raise .accessTarget ea
  let s ← getState
  if acc = .store && s.outside t ea 512 then raise .assuredRange ea
  return (List.range 4).map (fun k => match t.line s.cur with
    | .hbm l => .hbm (l + k)
    | .scratch n l => .scratch n (l + k))

/-- Checked issue of a sequence transfer, whatever VL is: 64 elements of 64 bits (R198, R374). -/
def seqChecked : M Unit := do wholeCut (← checkedBelow 64 64)

/-- The first poisoned byte of the lines `ls`, which follow each other from `ea` (R372, log 45). -/
def State.firstBad (s : State) (ea : Word) (ls : List LineId) : Option Word :=
  (ls.zipIdx.find? (fun x => s.readPoisoned x.1 0 128)).map (fun x => ea + BitVec.ofNat 64 (128 * x.2 + firstPoison (s.readPoison x.1) 0 128))

/-- seqld (R198). -/
def execSeqld (v : VReg) (rs1 : SReg) (s : State) : Host.Outcome State Fault Refusal :=
  finish (do
    seqStart
    modCtx (fun c => c.namesV v)
    let ls ← seqLines .load rs1
    let ea ← readX rs1
    seqChecked
    let lines ← readLines ls
    match (← getState).firstBad ea ls with
    | some a => raise .poisonConsumed a
    | none => pure ()
    modCtx (fun c => c.setV v (BitVec.ofNat 4096 (pack 1024 (lines.map (fun x => x.2.toNat)))))
    retire 4) s

/-- seqst (R198). -/
def execSeqst (v : VReg) (rs1 : SReg) (s : State) : Host.Outcome State Fault Refusal :=
  finish (do
    seqStart
    let ls ← seqLines .store rs1
    let ea ← readX rs1
    if ls.any (← getState).frozenLine then raise .writeFrozen ea
    seqChecked
    let c ← getCtx
    let s ← getState
    if s.speculative && ls.any (s.framesFull s.cur) then
      awaitEnsign
      stall
    prepareLines ea ls
    let data := elems 1024 4 (c.vr v).toNat
    match ls, data with
    | [a, b, c, d], [w, x, y, z] =>
      writeLine a (BitVec.ofNat 1024 w) (BitVec.allOnes 128) ea
      writeLine b (BitVec.ofNat 1024 x) (BitVec.allOnes 128) ea
      writeLine c (BitVec.ofNat 1024 y) (BitVec.allOnes 128) ea
      writeLine d (BitVec.ofNat 1024 z) (BitVec.allOnes 128) ea
    | _, _ => pure ()
    retire 4) s

end Sys2Proof.Machine
end

