-- ==== Sys2Proof/Machine/Matrix.lean ====
section
/-! DEFINITION. The matrix array: planes, the row-streaming products and the torus sends (R42, R152–R165). -/

namespace Sys2Proof.Machine
open Sys2Proof

/-! ## Formats and shapes -/

/-- A matrix format (Table 8.2). -/
inductive MFmt where
  | float (f : Fmt)
  | int (w : Nat) (signed : Bool)
  deriving DecidableEq, Repr

/-- The format of a code (Table 8.2). -/
def mfmtOf (code : Nat) : Option MFmt :=
  match code with
  | 0 => some (.float fp16) | 1 => some (.float bf16) | 2 => some (.float fp8e4m3) | 3 => some (.float fp8e5m2)
  | 4 => some (.float fp6e3m2) | 5 => some (.float fp6e2m3) | 6 => some (.float fp4e2m1)
  | 8 => some (.int 8 true) | 9 => some (.int 8 false) | 10 => some (.int 4 true) | 11 => some (.int 4 false)
  | _ => none

def MFmt.width : MFmt → Nat
  | .float f => f.width
  | .int w _ => w

def MFmt.isInt : MFmt → Bool
  | .float _ => false
  | .int _ _ => true

/-- The value of a code. -/
def MFmt.value : MFmt → Nat → FVal
  | .float f, x => f.decode x
  | .int w s, x => let i : Int := if s then toInt w x else x; .fin (decide (i < 0)) i.natAbs 0

/-- The format that an alias window gives its codes: blocks of aw5–aw7, quantised codes of aw1–aw4 (Table 8.4). -/
def windowFmt (w : Nat) : Nat :=
  match w with
  | 4 => 9 | 5 => 6 | 6 => 5 | 7 => 2 | _ => 11

/-- Fields of MCFG (Table 8.1). -/
def mcfgA (m : Nat) : Nat := m % 16
def mcfgB (m : Nat) : Nat := m / 16 % 16
def mcfgAcc (m : Nat) : Nat := m / 256 % 2
def mcfgSp (m : Nat) : Nat := m / 512 % 4

/-- A shape word (Table 8.3). -/
structure Shape where
  m : Nat
  as_ : Nat
  cs : Nat
  deriving DecidableEq, Repr

def shapeOf (v : Word) : Shape := ⟨bits v.toNat 0 9, bits v.toNat 16 16, bits v.toNat 32 16⟩

/-- Its fields are well formed; `mzero` ignores AS (R154, R164). -/
def shapeOk (v : Word) (useA : Bool) : Bool :=
  let s := shapeOf v
  bits v.toNat 48 16 == 0 && bits v.toNat 9 7 == 0 && decide (s.m ≤ 256) && s.cs % 16 == 0 && decide (16 ≤ s.cs)
    && (!useA || s.as_ % 16 == 0)

/-! ## Results of an array command -/

/-- How a command ends: the core it leaves, its flags, and a stop at a row block (or, for `none`, before any). -/
structure MtxRes where
  core : Core
  flags : Flags := 0
  stop : Option (Option Nat × Cause × Word) := none
  /-- A pre-emption or a halt stops it before this row block (R157). -/
  cut : Option Nat := none
  deriving DecidableEq, Repr

/-- A command refused with a cause. -/
def mtxFail (c : Core) (cause : Cause) (tval : Word) : MtxRes := { core := c, stop := some (none, cause, tval) }

/-! ## Operand checks (R156) -/

/-- An operand: its address and the bytes it covers. -/
structure Operand where
  ea : Word
  len : Nat
  write : Bool := false
  /-- It must be reached through aw0 (the rotation record). -/
  plain : Bool := false
  /-- It is given as an offset in the own scratchpad, not as an address (META, BSRC). -/
  own : Option Nat := none
  aligned : Bool := false
  deriving DecidableEq, Repr

/-- Window and offset of an address in core `n`'s own scratchpad (R260). -/
def ownPlace (n : Nat) (ea : Word) : Option (Nat × Nat) :=
  match untranslated n ea.toNat with
  | some (.ok (.own w off)) => some (w, off)
  | _ => none

/-- Step 1: the operand lies in the own scratchpad. -/
def Operand.inside (n : Nat) (o : Operand) : Bool :=
  match o.own, ownPlace n o.ea with
  | some off, _ => decide (off + Nat.max o.len 1 ≤ Config.scratchBytes)
  | none, some (w, off) => decide (off + Nat.max o.len 1 ≤ Config.scratchBytes) && !(o.plain && w != 0)
  | none, none => false

/-- Step 2: reads stay below the window's Lim. -/
def Operand.below (n : Nat) (o : Operand) : Bool :=
  match ownPlace n o.ea with
  | some (w, off) => o.write || decide (off + Nat.max o.len 1 ≤ windowLim w)
  | none => false

/-- Step 3: writes go through aw0. -/
def Operand.plainWrite (n : Nat) (o : Operand) : Bool :=
  match ownPlace n o.ea with
  | some (w, _) => !o.write || w == 0
  | none => false

/-- The first of steps 1–4 that fails, over every operand before the next step. TVAL is the operand's base address, also
where only a later row of it fails. DESIGN CHOICE (log 82). -/
def operandFault (n : Nat) (os : List Operand) : Option (Cause × Word) :=
  match os.find? (fun o => !o.inside n) with
  | some o => some (.accessTarget, o.ea)
  | none =>
    match os.find? (fun o => !o.below n) with
    | some o => some (.awRange, o.ea)
    | none =>
      match os.find? (fun o => !o.plainWrite n) with
      | some o => some (.awWrite, o.ea)
      | none => (os.find? (fun o => o.aligned && o.ea.toNat % 16 != 0)).map (fun o => (.misalignedAccess, o.ea))

/-- The scratchpad offset of an operand that has passed the checks. -/
def offsetOf (n : Nat) (ea : Word) : Nat := ((ownPlace n ea).getD (0, 0)).2
def windowAt (n : Nat) (ea : Word) : Nat := ((ownPlace n ea).getD (0, 0)).1

/-- The aw0 address of an offset of the own scratchpad. -/
def ownAddr (off : Nat) : Word := BitVec.ofNat 64 (Config.ownScratch + off)

/-! ## Scratchpad bytes -/

/-- `n` bytes of a scratchpad written from offset `off`, line by line, at the core's logical time (R392). -/
def Core.storeBytes (c : Core) (off n v : Nat) : Core :=
  if n = 0 then c else
  (List.range ((off + n + 127) / 128 - off / 128)).foldl (fun c k =>
    let line := off / 128 + k
    let lo := Nat.max off (line * 128)
    let hi := Nat.min (off + n) (line * 128 + 128)
    c.writeScratch line (BitVec.ofNat 1024 (v / 2 ^ (8 * (lo - off)) * 2 ^ (8 * (lo - line * 128))))
      (BitVec.ofNat 128 (maskBits (lo - line * 128) (hi - lo))) c.lts 0) c

/-- The first poisoned byte of a range. -/
def Core.poisonIn (c : Core) (off n : Nat) : Option Nat :=
  if n = 0 then none else
  match (List.range ((off + n + 15) / 16 - off / 16)).find? (fun i => Bank.get false c.scratchPoison (off / 16 + i)) with
  | some i => some (Nat.max off ((off / 16 + i) * 16))
  | none => none

/-- The address of an offset through the window of an operand. -/
def sameWindow (n : Nat) (ea : Word) (off : Nat) : Word := ea + BitVec.ofInt 64 ((off : Int) - offsetOf n ea)

/-! ## mcfg, mswp -/

/-- mcfg (R160). -/
def mtxCfg (c : Core) (v pc : Word) : MtxRes :=
  let m := v.toNat
  if m < 2 ^ 11 ∧ mcfgSp m ≠ 3 ∧ (mfmtOf (mcfgA m)).isSome ∧ (mfmtOf (mcfgB m)).isSome then
    { core := { c with mcfg := BitVec.ofNat 11 m } }
  else mtxFail c .matrixConfiguration pc

/-- mswp (R162). -/
def mtxSwap (c : Core) : MtxRes := { core := { c with active := c.shadowPlane, shadowPlane := c.active } }

/-! ## mld (R161) -/

/-- Fields of a load shape. -/
def ldK (v : Word) : Nat := bits v.toNat 0 7
def ldN (v : Word) : Nat := bits v.toNat 8 7
def ldStride (v : Word) : Nat := bits v.toNat 16 16
def ldMeta (v : Word) : Nat := bits v.toNat 44 20

/-- Stored values of a group under a sparse pattern (R161). -/
def sparseGroup (sp : Nat) : Nat := if sp = 1 then 2 else 4

/-- The nibble of stored row r of column j. -/
def nibble (c : Core) (meta_ r j : Nat) : Nat :=
  bits (readBytes c.scratch (meta_ + 32 * r + j / 2) 1) (if j % 2 = 0 then 0 else 4) 4

/-- Positions of a column strictly increase within each group, and bit 3 of every nibble is zero. -/
def positionsOk (c : Core) (meta_ k n j : Nat) : Bool :=
  (List.range k).all (fun r => decide (nibble c meta_ r j < 8)
    && (r % n == 0 || decide (nibble c meta_ (r - 1) j < nibble c meta_ r j)))

/-- A bank from keys and values, given in rising order of key. -/
def bankOf (l : List (Nat × Nat)) : Bank Nat := l.filter (fun e => e.2 != 0)

/-- The table r × 64 + j ↦ f r j for r < k and j < n. -/
def tableOf (k n : Nat) (f : Nat → Nat → Nat) : Bank Nat :=
  bankOf ((List.range k).flatMap (fun r => (List.range n).map (fun j => (r * 64 + j, f r j))))

/-- The value of stored row r of column j, with its scale or descriptor applied (R163). -/
def Plane.stored (p : Plane) (r j : Nat) : FVal :=
  let q := Bank.get 0 p.vals (r * 64 + j)
  match p.kind with
  | .block =>
    let w := match p.fmt with
      | 6 => 5 | 5 => 6 | _ => 7
    (blockValue w q (Bank.get 0 p.desc (r / 32 * 64 + j))).getD (.nan false)
  | .aq => (aqValue (p.fmt == 9) q (Bank.get 0 p.desc (r / p.group * 64 + j))).getD (.nan false)
  | _ =>
    match mfmtOf p.fmt with
    | some f => f.value q
    | none => .fin false 0 0

/-- The exact sum of finite values, as m × 2 ^ e; `none` with a NaN or an infinity among them. -/
def exactSum (l : List FVal) : Option (Int × Int) :=
  l.foldl (fun acc v => match acc, v with
    | some (m, e), .fin neg k g =>
      let x := if e ≤ g then e else g
      some (m * 2 ^ (e - x).toNat + signed neg k * 2 ^ (g - x).toNat, x)
    | _, _ => none) (some (0, 0))

/-- The checksum column of a plane (R376). -/
def Plane.checks (p : Plane) : Bank (Int × Int) :=
  (List.range p.pk).filterMap (fun r =>
    match exactSum ((List.range p.pn).map (fun j => p.stored r j)) with
    | some v => some (r, v)
    | none => none)

/-- What `mld` reads of the scratchpad: the memory rows, their descriptors, the metadata. -/
def loadReads (n : Nat) (src shape : Word) (mcfg : Nat) : List (Nat × Nat) :=
  let w := windowAt n src
  let off := offsetOf n src
  let f := (mfmtOf (if w = 0 then mcfgB mcfg else windowFmt w)).getD (.int 8 true)
  let rowBytes := (ldK shape * f.width + 7) / 8
  let (bg, md) := windowGroup w
  (List.range (ldN shape)).flatMap (fun j =>
    let a := off + j * ldStride shape
    [(a, rowBytes)] ++ if w = 0 then [] else [(0x70000 + a / bg * md, (rowBytes + bg - 1) / bg * md)])
  ++ if w = 0 ∧ mcfgSp mcfg ≠ 0 then (List.range (ldK shape)).map (fun r => (ldMeta shape + 32 * r, (ldN shape + 1) / 2)) else []

/-- mld (R161): the shadow plane of core `n` is filled, or left EMPTY by poison, a misaligned start or a failed check. -/
def mtxLoad (n : Nat) (c : Core) (src shape : Word) (mcfg : Nat) (pc : Word) : MtxRes :=
  let k := ldK shape
  let cols := ldN shape
  let stride := ldStride shape
  let w := windowAt n src
  let sp := mcfgSp mcfg
  let code := if w = 0 then mcfgB mcfg else windowFmt w
  let f := (mfmtOf code).getD (.int 8 true)
  let rowBytes := (k * f.width + 7) / 8
  let sparse := decide (w = 0) && decide (sp ≠ 0)
  let meta_ := ldMeta shape
  let o : Operand := { ea := src, len := (cols - 1) * stride + rowBytes }
  let metaBytes := (cols + 1) / 2
  let mo : Operand := { ea := ownAddr meta_, len := 32 * (k - 1) + metaBytes, aligned := true, own := some meta_ }
  let empty : Core := { c with shadowPlane := {} }
  match operandFault n (if sparse then [o, mo] else [o]) with
  | some (cause, tval) => mtxFail (if cause = .misalignedAccess then empty else c) cause tval
  | none =>
    let off := offsetOf n src
    let (bg, md) := windowGroup w
    let g := match w with
      | 2 => 64 | 3 => 128 | _ => 32
    let bad := bits shape.toNat 7 1 ≠ 0 ∨ bits shape.toNat 15 1 ≠ 0 ∨ bits shape.toNat 32 12 ≠ 0 ∨ k = 0 ∨ 64 < k ∨ cols = 0
      ∨ 64 < cols ∨ stride % 16 ≠ 0 ∨ stride < rowBytes ∨ (w ≠ 0 ∧ sp ≠ 0) ∨ (1 ≤ w ∧ w ≤ 4 ∧ k % g ≠ 0)
      ∨ (sparse ∧ sp = 1 ∧ 32 < k)
    if bad then mtxFail c .matrixConfiguration pc
    else if w ≠ 0 ∧ (off % bg ≠ 0 ∨ stride % bg ≠ 0) then mtxFail empty .matrixConfiguration pc
    else
      let groups := if w = 0 then 0 else (rowBytes + bg - 1) / bg
      let descOff (j r : Nat) : Nat := 0x70000 + ((off + j * stride) / bg + r) * md
      let poison := (List.range cols).findSome? (fun j =>
        match c.poisonIn (off + j * stride) rowBytes with
        | some x => some (sameWindow n src x)
        | none => if w = 0 then none else (c.poisonIn (descOff j 0) (groups * md)).map ownAddr)
      let poison := match poison with
        | some x => some x
        | none =>
          if sparse then (List.range k).findSome? (fun r => (c.poisonIn (meta_ + 32 * r) metaBytes).map ownAddr) else none
      match poison with
      | some x => mtxFail empty .poisonConsumed x
      | none =>
        if sparse ∧ !(List.range cols).all (fun j => positionsOk c meta_ k (sparseGroup sp) j) then
          mtxFail c .matrixConfiguration pc
        else
          let rows := (List.range cols).map (fun j => readBytes c.scratch (off + j * stride) rowBytes)
          let p : Plane :=
            { kind := if sparse then (if sp = 1 then .sparse2 else .sparse4) else if w = 0 then .plain else if w ≤ 4 then .aq else .block
              fmt := code, pk := k, pn := cols, group := if 1 ≤ w ∧ w ≤ 4 then g else 0
              vals := tableOf k cols (fun r j => bits (rows[j]?.getD 0) (f.width * r) f.width)
              pos := if sparse then tableOf k cols (fun r j => nibble c meta_ r j) else []
              desc := tableOf groups cols (fun r j => readBytes c.scratch (descOff j r) md) }
          let p := { p with check := p.checks }
          match c.upset with
          -- TVAL is where the first element of the row that disagrees lies (R376, log 50)
          | some (.matrix r false) =>
            if r < k then mtxFail { empty with upset := none } .poisonConsumed (src + BitVec.ofNat 64 (r * f.width / 8))
            else { core := { c with shadowPlane := p } }
          | _ => { core := { c with shadowPlane := p } }

/-! ## Row streaming (R42, R163) -/

/-- Dense rows KD of a plane (R161). -/
def Plane.kd (p : Plane) : Nat :=
  match p.kind with
  | .sparse2 => 8 * ((p.pk + 1) / 2)
  | .sparse4 => 8 * ((p.pk + 3) / 4)
  | _ => p.pk

/-- weight(k, j): the plane value at dense row k; `none` where a sparse pattern leaves it out. -/
def Plane.weight (p : Plane) (k j : Nat) : Option FVal :=
  let find (n : Nat) : Option FVal :=
    ((List.range n).map (fun i => k / 8 * n + i)).findSome? (fun r =>
      if r < p.pk ∧ Bank.get 0 p.pos (r * 64 + j) = k % 8 then some (p.stored r j) else none)
  match p.kind with
  | .sparse2 => find 2
  | .sparse4 => find 4
  | _ => some (p.stored k j)

/-- The group sum of products, with NV for an invalid one or a signalling operand (R42, R163). A sum of zero is +0, so C
keeps −0 under no group. DESIGN CHOICE (log 80). -/
def groupSum (ps : List (FVal × FVal)) : FVal × Flags :=
  let snan := ps.any (fun p => decide (p.1 = .nan true) || decide (p.2 = .nan true))
  if ps.any (fun p => p.1.isNan || p.2.isNan) then (.nan false, flagIf snan flagNV)
  else
    let qs := ps.map (fun p => FVal.mul p.1 p.2)
    let pos := qs.any (fun q => decide (q = some (.inf false)))
    let neg := qs.any (fun q => decide (q = some (.inf true)))
    if qs.any (fun q => q.isNone) || (pos && neg) then (.nan false, flagNV)
    else if pos then (.inf false, 0)
    else if neg then (.inf true, 0)
    else match exactSum (qs.filterMap id) with
      | some (m, e) => (.fin (decide (m < 0)) m.natAbs e, 0)
      | none => (.fin false 0 0, 0)

/-- acc_add (R42, R163). -/
def accAdd (int : Bool) (acc : Nat) (s : FVal) : FRes :=
  if int then
    match exactSum [s] with
    | some (m, e) => clampTo 32 (-(2 ^ 31)) (2 ^ 31 - 1) (toInt 32 acc + m * 2 ^ e.toNat)
    | none => plainRes acc
  else fp32.addV .rne (fp32.decode acc) s

/-- C[i][j] after the groups of a row. A position that a sparse pattern leaves out contributes zero (R42) whatever its
activation is, an infinity and a NaN included. DEDUCED (log 81). -/
def accElem (int : Bool) (p : Plane) (a : List FVal) (j acc : Nat) : Nat × Flags :=
  (List.range ((p.kd + 7) / 8)).foldl (fun r g =>
    let ps := (List.range (Nat.min 8 (p.kd - 8 * g))).filterMap (fun i =>
      match p.weight (8 * g + i) j with
      | some w => some (a[8 * g + i]?.getD (.fin false 0 0), w)
      | none => none)
    let s := groupSum ps
    let x := accAdd int r.1 s.1
    (x.code, r.2 ||| s.2 ||| x.flags)) (acc, 0)

/-- A row of A: the window's offset of its first byte, its bytes, and its scales. -/
structure ARow where
  off : Nat
  len : Nat
  scaleOff : Nat
  scales : Nat
  deriving DecidableEq, Repr

/-- What a row-streaming instruction works on. -/
structure Stream where
  plane : Plane
  int : Bool
  fmt : MFmt
  window : Nat
  aOff : Nat
  aStride : Nat
  cOff : Nat
  cStride : Nat
  m : Nat
  deriving DecidableEq, Repr

def Stream.row (x : Stream) (i : Nat) : ARow :=
  let off := x.aOff + i * x.aStride
  let (bg, _) := windowGroup x.window
  ⟨off, (x.plane.kd * x.fmt.width + 7) / 8, 0x70000 + off / bg, if x.window = 0 then 0 else (x.plane.kd + 31) / 32⟩

/-- The values of a row of A (R45, R163). -/
def Stream.values (x : Stream) (c : Core) (i : Nat) : List FVal :=
  let r := x.row i
  let raw := elems x.fmt.width x.plane.kd (readBytes c.scratch r.off r.len)
  if x.window = 0 then raw.map x.fmt.value
  else raw.zipIdx.map (fun e =>
    (blockValue x.window e.1 (readBytes c.scratch (r.scaleOff + e.2 / 32) 1)).getD (.nan false))

/-- What blocks `b` upward read of the scratchpad. -/
def Stream.reads (x : Stream) (b : Nat) : List (Nat × Nat) :=
  ((List.range x.m).drop (8 * b)).flatMap (fun i =>
    let r := x.row i
    [(r.off, r.len), (r.scaleOff, r.scales), (x.cOff + i * x.cStride, 4 * x.plane.pn)])

/-- One row of C accumulated from the values of a row of A. Poisoned bytes of C that are read to be added to raise nothing,
nor does a poisoned rotation record: R159 names A bytes, scales and descriptors. DESIGN CHOICE (log 86). -/
def Stream.accRow (x : Stream) (c : Core) (i : Nat) (a : List FVal) : Core × Flags :=
  let off := x.cOff + i * x.cStride
  let old := elems 32 x.plane.pn (readBytes c.scratch off (4 * x.plane.pn))
  let new := old.zipIdx.map (fun e => accElem x.int x.plane a e.2 e.1)
  (c.storeBytes off (4 * x.plane.pn) (pack 32 (new.map (·.1))), new.foldl (fun f e => f ||| e.2) 0)

/-- Rows of block b. -/
def Stream.blockRows (x : Stream) (b : Nat) : List Nat := (List.range 8).map (8 * b + ·) |>.filter (fun i => decide (i < x.m))

/-- The first poisoned byte that block b reads, by its place: a data byte, or a scale byte. -/
def Stream.poisonAt (x : Stream) (n : Nat) (c : Core) (ea : Word) (b : Nat) : Option Word :=
  (x.blockRows b).findSome? (fun i =>
    let r := x.row i
    match c.poisonIn r.off r.len with
    | some o => some (sameWindow n ea o)
    | none => (c.poisonIn r.scaleOff r.scales).map ownAddr)

/-- Blocks b upward, `k` of them: every row of A of a block is read before any element of C is written. -/
def Stream.run (x : Stream) (n : Nat) (ea pc : Word) : Nat → Nat → Core → Flags → MtxRes
  | 0, _, c, fl => { core := c, flags := fl }
  | k + 1, b, c, fl =>
    match x.poisonAt n c ea b with
    | some tval => { core := c, flags := fl, stop := some (some b, .poisonConsumed, tval) }
    | none =>
      let go (c : Core) : MtxRes :=
        let vs := (x.blockRows b).map (fun i => (i, x.values c i))
        let r := vs.foldl (fun r v => let y := x.accRow r.1 v.1 v.2; (y.1, r.2 ||| y.2)) (c, fl)
        x.run n ea pc k (b + 1) r.1 r.2
      match c.upset with
      | some (.matrix u corrected) =>
        if u = b then
          if corrected then go { c with upset := none }.correct
          else { core := { c with upset := none }, flags := fl, stop := some (some b, .uncorrectableCheck, pc) }
        else go c
      | some (.stop u) => if u = b then { core := { c with upset := none }, flags := fl, cut := some b } else go c
      | _ => go c

/-- Byte ranges [a, a + n) and [b, b + m) meet. -/
def meets (a n b m : Nat) : Bool := decide (0 < n) && decide (0 < m) && decide (a < b + m) && decide (b < a + n)

/-- The C range overlaps the bytes read for A (step 5 of R156). A row of C is the 4 × PN bytes that are written, not the
stride. DESIGN CHOICE (log 79). -/
def Stream.overlap (x : Stream) : Bool :=
  let n := 4 * x.plane.pn
  (List.range x.m).any (fun i =>
    let co := x.cOff + i * x.cStride
    (List.range x.m).any (fun j =>
      let r := x.row j
      meets co n r.off r.len || meets co n r.scaleOff r.scales))

/-- The plane kinds of `mma`, `mmas` and `mqma` (Table 8.5). -/
inductive Streaming where
  | mma | mmas | mqma
  deriving DecidableEq, Repr

/-- The plane, formats and accumulator that an instruction accepts (Table 8.5). -/
def formatsOk (op : Streaming) (p : Plane) (a : MFmt) (acc : Nat) : Bool :=
  let plain := match mfmtOf p.fmt with
    | some b => a.isInt == b.isInt && acc == bit a.isInt
    | none => false
  match op, p.kind with
  | .mma, .plain => plain
  | .mma, .block => plain
  | .mmas, .sparse2 => plain
  | .mmas, .sparse4 => plain
  | .mqma, .aq => acc == 0
  | _, _ => false

/-- What a row-streaming product of core `n` works on. -/
def streamOf (op : Streaming) (n : Nat) (c : Core) (cAddr aAddr shape : Word) (mcfg : Nat) : Stream :=
  let s := shapeOf shape
  let w := windowAt n aAddr
  let f := (mfmtOf (if w = 0 then mcfgA mcfg else windowFmt w)).getD (.int 8 true)
  ⟨c.active, f.isInt && op != .mqma, f, w, offsetOf n aAddr, s.as_, offsetOf n cAddr, s.cs, s.m⟩

/-- A row-streaming product of core `n` from block `vstart`, with further operands and checks for `mmrot`. -/
def mtxStream (op : Streaming) (n : Nat) (c : Core) (cAddr aAddr shape : Word) (mcfg vstart : Nat) (pc : Word)
    (more : List Operand) (moreOk : Bool) : MtxRes :=
  let s := shapeOf shape
  let x := streamOf op n c cAddr aAddr shape mcfg
  let p := x.plane
  let w := x.window
  let f := x.fmt
  let rowBytes := (p.kd * f.width + 7) / 8
  let ao : Operand := { ea := aAddr, len := if s.m = 0 then 1 else (s.m - 1) * s.as_ + rowBytes }
  let co : Operand := { ea := cAddr, len := if s.m = 0 then 1 else (s.m - 1) * s.cs + 4 * p.pn, write := true, aligned := true }
  match operandFault n ([ao] ++ more ++ [co]) with
  | some (cause, tval) => mtxFail c cause tval
  | none =>
    let (bg, _) := windowGroup w
    let aligned := w == 0 || (x.aOff % bg == 0 && (decide (s.m ≤ 1) || s.as_ % bg == 0))
    if !shapeOk shape true || !moreOk || decide (1 ≤ w ∧ w ≤ 4) || !aligned || !formatsOk op p f (mcfgAcc mcfg) || x.overlap then
      mtxFail c .matrixConfiguration pc
    else
      let blocks := (s.m + 7) / 8
      x.run n aAddr pc (blocks - vstart) vstart c 0

/-- mzero (R164). -/
def mtxZero (n : Nat) (c : Core) (cAddr shape pc : Word) : MtxRes :=
  let s := shapeOf shape
  match operandFault n [{ ea := cAddr, len := s.m * s.cs, write := true, aligned := true }] with
  | some (cause, tval) => mtxFail c cause tval
  | none =>
    if !shapeOk shape false then mtxFail c .matrixConfiguration pc
    else { core := c.storeBytes (offsetOf n cAddr) (s.m * s.cs) 0 }

/-! ## mmrot (R165, R255) -/

/-- A rotation record (Table 8.7). -/
structure Rotation where
  shape : Word
  bsrc : Nat
  blen : Nat
  adst : Nat
  bdst : Nat
  async : Nat
  bsync : Nat
  deriving DecidableEq, Repr

def rotationAt (c : Core) (off : Nat) : Rotation :=
  let f (o n : Nat) := readBytes c.scratch (off + o) n
  ⟨BitVec.ofNat 64 (f 0 8), f 8 4, f 12 4, f 16 4, f 20 4, f 24 4, f 28 4⟩

/-- A sync-word offset is none, or lies 16-aligned in the scratchpad. -/
def syncFieldOk (y : Nat) : Bool := y / 2 ^ 31 == 1 || (y % 16 == 0 && decide (y + 16 ≤ Config.scratchBytes))

/-- The neighbours of a core on its die (R165). -/
def westOf (n : Nat) : Nat := n / 8 * 8 + (n % 8 + 7) % 8
def northOf (n : Nat) : Nat := n / 64 * 64 + (n / 8 % 8 + 7) % 8 * 8 + n % 8

/-- Poison bits of the destination granules that `len` bytes from source offset `src` bring to offset `dst`. -/
def carried (c : Core) (src dst len : Nat) : Nat :=
  (List.range 8).foldl (fun m g =>
    if (List.range len).any (fun i => (dst + i) % 128 / 16 == g && Bank.get false c.scratchPoison ((src + i) / 16)) then m + 2 ^ g
    else m) 0

/-- The packets of a send of `len` bytes, each within one line of the destination. -/
def rotatePackets (n asid : Nat) (c : Core) (dst src len at_ sync : Nat) : List Packet :=
  (List.range ((at_ + len + 127) / 128 - at_ / 128)).map (fun k =>
    let line := at_ / 128 + k
    let lo := Nat.max at_ (line * 128)
    let hi := Nat.min (at_ + len) (line * 128 + 128)
    let sh := 8 * (lo - line * 128)
    { src := n, dst := dst, asid := asid, line := line,
      data := BitVec.ofNat 1024 (readBytes c.scratch (src + (lo - at_)) (hi - lo) * 2 ^ sh),
      mask := BitVec.ofNat 1024 (maskBits sh (8 * (hi - lo))),
      sync := if sync / 2 ^ 31 = 1 then none else some (dst, sync), bytes := hi - lo,
      poison := BitVec.ofNat 8 (carried c (src + (lo - at_)) lo (hi - lo)) })

/-- The product phase of `mmrot`, and its packets when it completes. -/
def mtxRotate (n : Nat) (c : Core) (cAddr aAddr rec_ : Word) (mcfg vstart : Nat) (pc : Word) : MtxRes × List Packet :=
  let ro : Operand := { ea := rec_, len := 32, plain := true, aligned := true }
  if !ro.inside n then (mtxFail c .accessTarget rec_, [])
  else
    let r := rotationAt c (offsetOf n rec_)
    let s := shapeOf r.shape
    let alen := s.m * s.as_
    let bo : Operand := { ea := ownAddr r.bsrc, len := r.blen, own := some r.bsrc }
    let ok := decide (1 ≤ r.blen) && decide (r.blen ≤ Config.scratchBytes) && decide (r.adst + alen ≤ Config.scratchBytes)
      && decide (r.bdst + r.blen ≤ Config.scratchBytes) && syncFieldOk r.async && syncFieldOk r.bsync
    let x := mtxStream .mma n c cAddr aAddr r.shape mcfg vstart pc [bo, { ea := aAddr, len := alen }, ro] ok
    match x.stop, x.cut with
    | some _, _ => (x, [])
    | none, some _ => (x, [])
    | none, none =>
      (x, rotatePackets n c.asid.toNat x.core (westOf n) (offsetOf n aAddr) alen r.adst r.async
        ++ rotatePackets n c.asid.toNat x.core (northOf n) r.bsrc r.blen r.bdst r.bsync)

/-! ## The instructions -/

/-- A stop, and no mismatch. -/
def Upset.isStop : Upset → Bool
  | .stop _ => true
  | _ => false

/-- What every matrix instruction does before the array runs it (R155, R158). -/
def mtxIssue : M Core := do
  notHandler
  awaitEnsign
  return (← getState).me

/-- The array's result enters the core and the context: a fault raises its cause, at its row block where it has one; a stop
leaves the context at the instruction; completion clears VSTART (R157). -/
def mtxEnd (r : MtxRes) : M Unit := do
  modCore (fun c => { r.core with main := c.main })
  modCtx (fun c => c.raiseFlags r.flags)
  match r.stop, r.cut with
  | some (some b, cause, tval), _ =>
    modCtx (fun c => { c with vstart := BitVec.ofNat 11 b })
    raiseElem cause tval
  | some (none, cause, tval), _ => raise cause tval
  | none, some b =>
    modCtx (fun c => { c with vstart := BitVec.ofNat 11 b })
    stall
  | none, none =>
    modCore (fun c => { c with upset := c.upset.filter (fun u => !u.isStop) })
    modCtx (fun c => { c with vstart := 0 })
    retire 4

/-- The array reads its operands in the scratchpad, which meets the errors there (R377). -/
def mtxReads (f : Nat → Core → List (Nat × Nat)) : M Core := do
  let _ ← mtxIssue
  modState (fun s => s.meetScratch s.cur (f s.cur s.me))
  return (← getState).me

/-- mcfg (R160). -/
def execMcfg (rsa : SReg) (s : State) : Host.Outcome State Fault Refusal :=
  finish (do let c ← mtxIssue; mtxEnd (mtxCfg c (← readX rsa) c.main.pc)) s

/-- mld (R161). -/
def execMld (rsa rsb : SReg) (s : State) : Host.Outcome State Fault Refusal :=
  finish (do
    let src ← readX rsa
    let shape ← readX rsb
    let c ← mtxReads (fun n c => loadReads n src shape c.mcfg.toNat)
    let n := (← getState).cur
    mtxEnd (mtxLoad n c src shape c.mcfg.toNat c.main.pc)) s

/-- mswp (R162). -/
def execMswp (s : State) : Host.Outcome State Fault Refusal :=
  finish (do let c ← mtxIssue; mtxEnd (mtxSwap c)) s

/-- A row-streaming instruction. -/
def doStream (op : Streaming) (rsc rsa rsb : SReg) : M Unit := do
  let cAddr ← readX rsc
  let aAddr ← readX rsa
  let shape ← readX rsb
  let c ← mtxReads (fun n c => (streamOf op n c cAddr aAddr shape c.mcfg.toNat).reads c.main.vstart.toNat)
  let n := (← getState).cur
  mtxEnd (mtxStream op n c cAddr aAddr shape c.mcfg.toNat c.main.vstart.toNat c.main.pc [] true)

/-- mma (R163). -/
def execMma (rsc rsa rsb : SReg) (s : State) : Host.Outcome State Fault Refusal := finish (doStream .mma rsc rsa rsb) s
/-- mmas (R163). -/
def execMmas (rsc rsa rsb : SReg) (s : State) : Host.Outcome State Fault Refusal := finish (doStream .mmas rsc rsa rsb) s
/-- mqma (R163). -/
def execMqma (rsc rsa rsb : SReg) (s : State) : Host.Outcome State Fault Refusal := finish (doStream .mqma rsc rsa rsb) s

/-- mzero (R164). -/
def execMzero (rsc rsb : SReg) (s : State) : Host.Outcome State Fault Refusal :=
  finish (do
    let c ← mtxIssue
    let n := (← getState).cur
    mtxEnd (mtxZero n c (← readX rsc) (← readX rsb) c.main.pc)) s

/-- What `mmrot` reads of the scratchpad: its record, the operands of its product, and the blocks that it sends. -/
def rotateReads (n : Nat) (c : Core) (cAddr aAddr rec_ : Word) : List (Nat × Nat) :=
  let r := rotationAt c (offsetOf n rec_)
  let s := shapeOf r.shape
  [(offsetOf n rec_, 32), (r.bsrc, r.blen), (offsetOf n aAddr, s.m * s.as_)]
    ++ (streamOf .mma n c cAddr aAddr r.shape c.mcfg.toNat).reads c.main.vstart.toNat

/-- mmrot (R165). -/
def execMmrot (rsc rsa rsb : SReg) (s : State) : Host.Outcome State Fault Refusal :=
  finish (do
    let cAddr ← readX rsc
    let aAddr ← readX rsa
    let rec_ ← readX rsb
    let c ← mtxReads (fun n c => rotateReads n c cAddr aAddr rec_)
    let n := (← getState).cur
    let r := mtxRotate n c cAddr aAddr rec_ c.mcfg.toNat c.main.vstart.toNat c.main.pc
    modState (fun s => r.2.foldl (fun s p => s.post (.mmrotPacket p)) s)
    mtxEnd r.1) s

end Sys2Proof.Machine
end

