-- ==== Sys2Proof/Machine/System.lean ====
section
/-! DEFINITION. The system registers and the system instructions other than the context-save engine (R19, R20,
R199–R202, R311–R313, R361–R364). -/

namespace Sys2Proof.Machine
open Sys2Proof

/-! ## System registers -/

/-- The named registers of Table 1.3. -/
inductive SysReg where
  | vl | vtype | vstart | vdirty | pix | rndm | fflags | seed | chkmode | chunk | forkst | sqcnt | lease
  | cpydone (c : Nat) | thawtkt | caps | cause | epc | tval | tvec | status | asid | ptbase
  deriving DecidableEq, Repr

/-- The register of a number (Table 1.3). -/
def sysReg (num : Nat) : Option SysReg :=
  match num with
  | 0x000 => some .vl | 0x001 => some .vtype | 0x002 => some .vstart | 0x003 => some .vdirty | 0x004 => some .pix
  | 0x010 => some .rndm | 0x011 => some .fflags | 0x012 => some .seed | 0x018 => some .chkmode
  | 0x020 => some .chunk | 0x021 => some .forkst | 0x022 => some .sqcnt | 0x028 => some .lease
  | 0x030 => some (.cpydone 0) | 0x031 => some (.cpydone 1) | 0x032 => some (.cpydone 2) | 0x033 => some (.cpydone 3)
  | 0x038 => some .thawtkt | 0x03F => some .caps
  | 0x800 => some .cause | 0x801 => some .epc | 0x802 => some .tval | 0x803 => some .tvec | 0x804 => some .status
  | 0x810 => some .asid | 0x811 => some .ptbase
  | _ => none

/-- A register marked RO at U (R19). -/
def SysReg.readOnly : SysReg → Bool
  | .vl => true
  | .chunk => true
  | .forkst => true
  | .cpydone _ => true
  | .thawtkt => true
  | .caps => true
  | _ => false

/-- A register of scope context or main: `syswr` does not wait for the Ensign (R202). -/
def SysReg.ofContext : SysReg → Bool
  | .vl => true
  | .vtype => true
  | .vstart => true
  | .vdirty => true
  | .pix => true
  | .rndm => true
  | .fflags => true
  | .seed => true
  | .chunk => true
  | _ => false

/-- The VTYPE word (Table 1.4). -/
def Ctx.vtype (c : Ctx) : Word := BitVec.ofNat 64 (bit c.vill * 2 ^ 63 + c.ew.toNat)

/-- The PIX word: DONE reads 1 and PROG 0 for a register the handler context does not have (Table 1.4). -/
def Ctx.pix (c : Ctx) (h : Bool) : Word :=
  let n := c.pixSel.toNat
  let absent := h && decide (3 < n)
  let d := absent || c.done.getLsbD n
  let p := if absent then 0 else Bank.get 0 c.prog n
  BitVec.ofNat 64 (n * 2 ^ 32 + bit d * 2 ^ 16 + p % 2 ^ 11)

/-- CHUNK of core `n` (Table 1.4). While a chunk runs a sequential region, SEQ stays the q of the chunk; and all of CHUNK
reads 0 where no chunk of the ring's region is on the core, POS on positions 1–7 included. DESIGN CHOICE (log 76). -/
def State.chunkWord (s : State) (n : Nat) : Word :=
  match s.chunkOn n, (s.ring (ringOf n)).region with
  | some c, some r =>
    BitVec.ofNat 64 (bit (r.ensignQ == c.q) * 2 ^ 22 + 2 ^ 21 + bit c.spec * 2 ^ 20 + bit r.assured * 2 ^ 19
      + n % 8 * 2 ^ 16 + c.q % 2 ^ 16)
  | _, _ => 0

/-- FORKST of a ring (R391). -/
def Region.forkst (r : Region) : Word :=
  let c := r.count
  let st := if r.next < c then 1 else if r.chunks.isEmpty then 3 else 2
  BitVec.ofNat 64 (r.ensignQ % 2 ^ 16 * 2 ^ 32 + r.next % 2 ^ 16 * 2 ^ 16 + bit r.assured * 2 ^ 7
    + r.chunks.length % 16 * 2 ^ 3 + st)

/-- THAWTKT of an address space (R193). -/
def State.thawtkt (s : State) (asid : Nat) : Nat := (Bank.get {} s.tickets asid).done

/-- STATUS (Table 18.1). -/
def Core.status (c : Core) : Word := BitVec.ofNat 64 (bit c.stopReq * 2 ^ 8 + bit c.pprv * 2 + bit c.prv)

/-- CAUSE (Table 22.1). -/
def Core.causeWord (c : Core) : Word :=
  BitVec.ofNat 64 (bit c.causeHeld * 2 ^ 15 + bit c.causeElem * 2 ^ 14 + c.causeCode.toNat)

/-- CHKMODE (Table 1.4). -/
def Core.chkmode (c : Core) : Word := BitVec.ofNat 64 (c.corr.toNat * 2 ^ 32 + bit c.chkLock * 2 + bit c.chk)

/-- A channel of a core (R166). -/
def Core.chan (c : Core) (n : Nat) : Channel := Bank.get {} c.chans n

/-- The value that `sysrd` delivers to the current context (Tables 1.2 and 1.4). -/
def State.sysRead (s : State) (r : SysReg) : Word :=
  let c := s.me
  let x := s.ctx
  match r with
  | .vl => x.vl.setWidth 64
  | .vtype => x.vtype
  | .vstart => x.vstart.setWidth 64
  | .vdirty => if s.curH then 0 else x.vdirty.setWidth 64
  | .pix => x.pix s.curH
  | .rndm => x.rndm.setWidth 64
  | .fflags => x.fflags.setWidth 64
  | .seed => x.seed.setWidth 64
  | .chkmode => c.chkmode
  | .chunk => s.chunkWord s.cur
  | .forkst => (s.region.map Region.forkst).getD 0
  | .sqcnt => (s.ring (ringOf s.cur)).sqcnt.setWidth 64
  | .lease => c.lease.setWidth 64
  | .cpydone n => BitVec.ofNat 64 (c.chan n).doneId
  | .thawtkt => BitVec.ofNat 64 (s.thawtkt c.asid.toNat)
  | .caps => BitVec.ofNat 64 Config.caps
  | .cause => c.causeWord
  | .epc => c.epc
  | .tval => c.tval
  | .tvec => c.tvec
  | .status => c.status
  | .asid => c.asid.setWidth 64
  | .ptbase => c.ptbase.setWidth 64 <<< 12

/-- A `syswr` to VTYPE (Table 1.4). -/
def Ctx.writeVtype (c : Ctx) (v : Word) : Ctx :=
  let ew : BitVec 3 := v.setWidth 3
  if ew.toNat ≤ 5 then
    { c with ew := ew, vill := false, vl := BitVec.ofNat 11 (granted c.vl.toNat (widthOf ew)) }
  else { c with ew := ew, vill := true, vl := 0 }

/-- The state after a `syswr` of `v`; reserved and read-only bits are ignored (R20, Tables 1.4, 18.1, 18.2, 22.1). -/
def State.sysWrite (s : State) (r : SysReg) (v : Word) : State :=
  match r with
  | .vtype => s.mapCtx (fun c => c.writeVtype v)
  | .vstart => s.mapCtx (fun c => { c with vstart := v.setWidth 11 })
  | .vdirty => s.mapCtx (fun c => { c with vdirty := v.setWidth 32 })
  | .pix => s.mapCtx (fun c => { c with pixSel := (v >>> 32).setWidth 5 })
  | .rndm => s.mapCtx (fun c => { c with rndm := v.setWidth 3 })
  | .fflags => s.mapCtx (fun c => { c with fflags := v.setWidth 6 })
  | .seed => s.mapCtx (fun c => { c with seed := seedOf (v.setWidth 32) })
  | .chkmode => s.mapCore s.cur (fun c => if c.chkLock then c else { c with chk := v.getLsbD 0 })
  | .sqcnt => if isRingCore s.cur then s.mapRing (ringOf s.cur) (fun r => { r with sqcnt := v.setWidth 32 }) else s
  | .lease => s.mapCore s.cur (fun c => { c with lease := if v.setWidth 16 = (0 : BitVec 16) then 1 else v.setWidth 16 })
  | .cause => s.mapCore s.cur (fun c =>
      { c with causeHeld := v.getLsbD 15, causeElem := v.getLsbD 14, causeCode := v.setWidth 7 })
  | .epc => s.mapCore s.cur (fun c => { c with epc := v &&& ~~~1 })
  | .tval => s.mapCore s.cur (fun c => { c with tval := v })
  | .tvec => s.mapCore s.cur (fun c => { c with tvec := v &&& ~~~3 })
  | .status => s.mapCore s.cur (fun c => { c with pprv := v.getLsbD 1 })
  | .asid => s.mapCore s.cur (fun c => { c with asid := v.setWidth 16 })
  | .ptbase => s.mapCore s.cur (fun c => { c with ptbase := (v >>> 12).setWidth 40 })
  | _ => s

/-- Finds the register of a number and checks the privilege (R19): a number with bit 11 set needs S, whatever it
names. -/
def sysSelect (num : Nat) : M SysReg := do
  if num / 2 ^ 11 % 2 = 1 then needS
  match sysReg num with
  | some r => pure r
  | none => raiseHere .illegalInstruction

/-- `syswr` of `v` to register number `num` (R19, R20, R202). -/
def doSyswr (num : Nat) (v : Word) : M Unit := do
  let r ← sysSelect num
  if r.readOnly then raiseHere .illegalInstruction
  if r = .rndm ∧ 6 ≤ v.toNat % 8 then raiseHere .illegalInstruction
  if r = .vdirty then notHandler
  if !r.ofContext then awaitEnsign
  modState (fun s => s.sysWrite r v)
  retire 4

/-- A read of the register acts as `thawq` or `cpywait` on the value that it returns (R201). -/
def SysReg.acquires : SysReg → Bool
  | .cpydone _ => true
  | .thawtkt => true
  | _ => false

/-- sysrd (R199, R201). -/
def execSysrd (num : BitVec 12) (reg : SReg) (s : State) : Host.Outcome State Fault Refusal :=
  finish (do
    let r ← sysSelect num.toNat
    let s ← getState
    writeX reg (s.sysRead r)
    if r.acquires then acquire
    retire 4) s

/-- syswr (R199). -/
def execSyswr (num : BitVec 12) (reg : SReg) (s : State) : Host.Outcome State Fault Refusal :=
  finish (doSyswr num.toNat (s.ctx.x reg)) s

/-- VTYPE_WRITE: `syswr VTYPE` (R20). -/
def execVtypeWrite (rs : SReg) (s : State) : Host.Outcome State Fault Refusal := finish (doSyswr 0x001 (s.ctx.x rs)) s
/-- SEED_WRITE: `syswr SEED` (R20). -/
def execSeedWrite (rs : SReg) (s : State) : Host.Outcome State Fault Refusal := finish (doSyswr 0x012 (s.ctx.x rs)) s
/-- LEASE_WRITE: `syswr LEASE` (R20). -/
def execLeaseWrite (rs : SReg) (s : State) : Host.Outcome State Fault Refusal := finish (doSyswr 0x028 (s.ctx.x rs)) s
/-- RNDM_WRITE: `syswr RNDM` (R20). -/
def execRndmWrite (rs : SReg) (s : State) : Host.Outcome State Fault Refusal := finish (doSyswr 0x010 (s.ctx.x rs)) s
/-- CHKMODE_WRITE: `syswr CHKMODE` (R20). -/
def execChkmodeWrite (rs : SReg) (s : State) : Host.Outcome State Fault Refusal := finish (doSyswr 0x018 (s.ctx.x rs)) s

/-! ## The capability chain (R8, R9, R359) -/

/-- Words of an entry: its header, with the distance to the next, and its body. -/
def capEntry (id next : Nat) (body : List Nat) : List Nat := (next * 2 ^ 32 + (body.length + 1) * 2 ^ 24 + 2 ^ 16 + id) :: body

/-- log₂ of a link width. -/
def widthLog (w : Nat) : Nat := if w = 4 then 2 else if w = 8 then 3 else 4

/-- The words of the chain (Tables 0.7 and 21.6). -/
def State.capWords (s : State) : List Nat :=
  (List.range 6).flatMap (fun i => capEntry (i + 1) 8 [])
    ++ capEntry 7 24 [64 * 2 ^ 16 + 64 * 2 ^ 8 + widthLog s.linkWidth * 2 ^ 4 + s.linkSpeed, 2 ^ s.bar2]
    ++ capEntry 8 0 [s.pkgNo % 1024 * 2 ^ 16 + 0x0A * 2 ^ 8 + s.stations.toNat, s.exLen]

/-- The chain is written into its frame (R8, R389). -/
def State.fillCaps (s : State) : State := s.deviceWrite s.capsFrame 96 (pack 64 s.capWords) (fun _ => false)

/-! ## What a Curator does at its events -/

/-- A Curator takes the undrained records of the dead-message area at `a` of core `n` into the log, which keeps the newest
1,024, and writes CONS (R239, R369). -/
def State.drainDeadArea (s : State) (n asid a t : Nat) : State :=
  let cons := s.deadCons a
  let k := Nat.min ((s.deadProd a + 2 ^ 32 - cons) % 2 ^ 32) Config.deadRecords
  if k = 0 then s
  else
    let log := s.logDead ++ (List.range k).map (fun i =>
      DeadEntry.mk n asid (deadRecordOf (s.homeBytes (deadSlot a ((cons + i) % 2 ^ 32)) 576)))
    { s with logDead := log.drop (log.length - 1024) }.agentStore (a + 4) 4 (s.deadProd a) t

/-- The Curator on core `cu` drains the dead-message areas of its die's cores (R239, R244, R369). It does so at each of its
events. DESIGN CHOICE (log 75). -/
def State.drainDead (s : State) (cu : Nat) : State :=
  (s.cores.filter (fun e => dieOf e.1 == dieOf cu)).foldl (fun s e =>
    e.2.dead.foldl (fun s a => s.drainDeadArea e.1 a.1 a.2 (s.core cu).lts) s) s

/-- The Curator takes over the peer window and the peer table that it is set up with, and the chain shows them (R356, R359,
log 77). -/
def State.takeSetup (s : State) : State :=
  let (b, l) := (s.exAssigned.1 * 0x20000000, s.exAssigned.2 * 0x20000000)
  if s.exBase = b ∧ s.exLen = l ∧ s.peers = s.peersAssigned then s
  else { s with exBase := b, exLen := l, peers := s.peersAssigned }.fillCaps

/-- A Curator's event (R200): with the package up, it looks after its areas and its setup. -/
def State.curatorEvent (s : State) (cu : Nat) : State :=
  let s := s.drainDead cu
  if s.up then s.takeSetup else s

/-! ## trap, brk, eret, halt -/

/-- trap (R199). -/
def execTrap (imm : BitVec 12) (s : State) : Host.Outcome State Fault Refusal :=
  finish (do loopHazard; raise .trapInstruction (imm.setWidth 64)) s

/-- brk (R199). -/
def execBrk (imm : BitVec 12) (s : State) : Host.Outcome State Fault Refusal :=
  finish (do loopHazard; raise .breakpoint (imm.setWidth 64)) s

/-- c.brk is `brk 0` (R199). -/
def execCBrk (s : State) : Host.Outcome State Fault Refusal := finish (do loopHazard; raise .breakpoint 0) s

/-- Core `n` returns from its trap (R363). A return to U lets the younger chunks of the region go on, or start again (R226,
R230). -/
def State.eretOn (s : State) (n : Nat) : State :=
  let s := s.mapCore n (fun c => { c.trapReturn with main := c.trapReturn.main.fresh })
  if (s.chunkOn n).isSome && !(s.core n).prv then s.mapRegion (ringOf n) (fun r => { r with youngerStopped := false }) else s

/-- eret (R199, R363). -/
def execEret (s : State) : Host.Outcome State Fault Refusal :=
  finish (do
    needS
    loopHazard
    awaitEnsign
    modState (fun s => s.eretOn s.cur)) s

/-- halt (R200). -/
def execHalt (s : State) : Host.Outcome State Fault Refusal :=
  finish (do
    needS
    loopHazard
    awaitEnsign
    if (← getCtx).event then
      modCtx (fun c => { c with event := false })
      retire 4
    else waitFor .halt) s

/-- HALT_EVENT (R200): an event directed to the main context of a core that runs at S. -/
def execHaltEvent (core : Nat) (s : State) : Host.Outcome State Fault Refusal :=
  let s := s.take (.haltEvent core)
  let s := if isRingCore core then s else s.curatorEvent core
  let c := s.core core
  if c.main.wait = some .halt then onContext core false (do endWait; retire 4) s
  else if c.prv then .next (s.mapCore core (fun c => { c with main := { c.main with event := true } }))
  else .next s

/-- LTS_TICK (R271): a stopped core's logical time stands still. -/
def execLtsTick (core : Nat) (s : State) : Host.Outcome State Fault Refusal :=
  let s := s.take (.ltsTick core)
  if (s.core core).stopped || (s.core core).halted then .next s else .next (s.mapCore core (fun c => { c with lts := c.lts + 1 }))

/-! ## Translations and cached copies -/

/-- What a `tlbinv` operand names in a mode (R311). -/
def shootOf (core : Nat) (mode : Nat) (x : Word) : Shoot :=
  let asid := x.toNat % 65536
  match mode with
  | 0 => ⟨core, some asid, some (x.toNat / 65536)⟩
  | 1 => ⟨core, some asid, none⟩
  | _ => ⟨core, none, none⟩

/-- A translation of `asid` that covers the addresses `va`·2^`bits` upward is named by a shootdown. -/
def Shoot.names (h : Shoot) (asid vpn bits : Nat) : Bool :=
  (match h.asid with | some a => a == asid | none => true)
    && (match h.page with | some p => p / 2 ^ (bits - 16) == vpn | none => true)

/-- The 64 KiB pages of an active Vitrine entry are touched by a shootdown (R313). An entry that is still being sealed does
not count: Table 19.8 calls it active for `frz` and `thaw` only. DESIGN CHOICE (log 95). -/
def Shoot.frozen (h : Shoot) (e : VitEntry) : Bool :=
  decide (e.st = .active) &&
    match h.asid with
    | none => true
    | some a => e.asid == a &&
        match h.page with
        | none => true
        | some p => decide (e.base ≤ p * 65536) && decide (p * 65536 < e.base + e.len)

/-- A running transfer still uses a translation that a shootdown names (R312). -/
def Shoot.holds (h : Shoot) (t : Transfer) : Bool :=
  (match t.srcPage with | some p => h.names t.asid p.vpn p.bits | none => false)
    || (match t.dstPage with | some p => h.names t.asid p.vpn p.bits | none => false)

/-- Cores that the package has, by number. -/
def State.anyCore (s : State) (f : Core → Bool) : Bool := s.cores.any (fun e => f e.2)

/-- Every core changed by `f`. -/
def State.mapCores (s : State) (f : Core → Core) : State := { s with cores := s.cores.map (fun e => (e.1, f e.2)) }

/-- The translations that a shootdown names are dropped from a core's TLB and copy channels. -/
def Core.shoot (h : Shoot) (c : Core) : Core :=
  let clear (t : Transfer) : Transfer :=
    { t with
      srcPage := match t.srcPage with | some p => if h.names t.asid p.vpn p.bits then none else some p | none => none
      dstPage := match t.dstPage with | some p => if h.names t.asid p.vpn p.bits then none else some p | none => none }
  { (c.mapChans (fun ch => { ch with transfers := ch.transfers.map clear })) with
    tlb := c.tlb.filter (fun e => !h.names e.asid e.vpn e.bits) }

/-- A chunk of a ring holds a version that it stored through a translation which a shootdown names (R311). -/
def State.storedNamed (s : State) (h : Shoot) (ring : Nat) (r : Region) (c : Chunk) : Bool :=
  c.versions.any (fun v => v.pages.any (fun p => h.names (s.core (r.coreOf ring c.q)).asid.toNat p 16))

/-- The first chunk of the current core's own region with such a version. -/
def State.ownNamed (s : State) (h : Shoot) : Option Nat :=
  s.region.bind (fun r => (r.chunks.find? (s.storedNamed h (ringOf s.cur) r)).map (·.q))

/-- An access that used a translation which a shootdown names is not yet performed at scope pkg (R311). The younger chunks
of the issuer's own region are not waited for, since none commits before it. -/
def State.usesNamed (s : State) (h : Shoot) : Bool :=
  let space (asid : Nat) : Bool := match h.asid with | some a => a == asid | none => true
  let far (r : FarReq) : Bool := r.peer.isNone && h.names r.asid (r.ea.toNat / 65536) 16
  !(List.range Config.dies).all s.mirrorsDone
    || s.flight.any (fun i => match i with
      | .farAtomicStep r => far r
      | .hostReadCompletion n (.context _) _ => space (s.core n).asid.toNat
      | _ => false)
    || s.waiting (fun x => match x with | .far r => far r | _ => false)
    || s.peerOut.any (fun e => match e.2.2.2 with
      | .context n _ => space (s.core n).asid.toNat
      | .far r => far r
      | .copy _ _ _ => false)
    || s.rings.any (fun e => e.1 != ringOf s.cur && (match e.2.region with
      | some r => r.chunks.any (s.storedNamed h e.1 r)
      | none => false))
    || s.anyCore (fun c => c.chans.any (fun e => e.2.transfers.any (fun t => space t.asid && (t.combining != 0 || !t.peers.isEmpty))))

/-- tlbinv (R311–R313). Trap code whose own region has younger chunks with versions stored through a translation that it
names has them squashed, since the access can be performed neither before nor after. DESIGN CHOICE (log 100). -/
def doTlbinv (mode : Nat) (rs : SReg) : M Unit := do
  needS
  awaitEnsign
  performed 3
  let x ← readX rs
  let s ← getState
  let h := shootOf s.cur mode x
  if s.vit.any (fun e => h.frozen e.2) then
    modState (fun s => { s with shoots := s.shoots.filter (fun g => g != h) })
    raise .remapFrozen x
  if s.usesNamed h || s.anyCore (fun c => c.chans.any (fun e => e.2.transfers.any h.holds)) then
    modState (fun s => if s.shoots.contains h then s else { s with shoots := s.shoots ++ [h] })
    stall
  modState (fun s => match s.ownNamed h with
    | some q => s.squashFrom (ringOf s.cur) q
    | none => s)
  modState (fun s => { s.mapCores (Core.shoot h) with shoots := s.shoots.filter (fun g => g != h) })
  retire 4

/-- tlbinv mode 0 (R311). -/
def execTlbinvPage (rs : SReg) (s : State) : Host.Outcome State Fault Refusal := finish (doTlbinv 0 rs) s
/-- tlbinv mode 1 (R311). -/
def execTlbinvAsid (rs : SReg) (s : State) : Host.Outcome State Fault Refusal := finish (doTlbinv 1 rs) s
/-- tlbinv mode 2 (R311). -/
def execTlbinvAll (rs : SReg) (s : State) : Host.Outcome State Fault Refusal := finish (doTlbinv 2 rs) s

/-- The device line at X(rs), for `cclean` and `cinv` (R201); a scratchpad line has no other copy. -/
def cleanLine (rs : SReg) : M (Option Nat) := do
  let ea ← readX rs
  match ← target .load ea with
  | .hbm pa => return some (lineOf pa)
  | .own _ _ => return none
  | .remote _ _ _ => return none
  | .host _ => raise .accessTarget ea
  | .peer _ _ => raise .accessTarget ea

/-- The newest committed value of a line is at its home once no mirror write of it is pending (R328). -/
def cleaned (line : Nat) : M Unit := fun s => if (s.mpDie line).isSome then stall s else .ok ((), s)

/-- cclean (R199, R201). -/
def execCclean (rs : SReg) (s : State) : Host.Outcome State Fault Refusal :=
  finish (do
    awaitEnsign
    match ← cleanLine rs with
    | none => pure ()
    | some line => cleaned line
    retire 4) s

/-- cinv (R199, R201): non-frozen copies in every Annex and L1 are given up. -/
def execCinv (rs : SReg) (s : State) : Host.Outcome State Fault Refusal :=
  finish (do
    needS
    awaitEnsign
    match ← cleanLine rs with
    | none => pure ()
    | some line =>
      cleaned line
      let s ← getState
      if s.frame (line * 128) ≠ .frozen then
        if !s.settled line then stall
        modState (fun s => (s.recallAll line).mapCores (fun c =>
          { c with l1 := Bank.erase c.l1 line, icache := Bank.erase c.icache line }))
    retire 4) s

/-- iinv (R199, R201). -/
def execIinv (s : State) : Host.Outcome State Fault Refusal :=
  finish (do
    awaitEnsign
    modCore (fun c => { c with icache := [] })
    retire 4) s

/-- RESERVED_ENCODING (R50, R51): the parcel or word at pc names no instruction. -/
def execReservedEncoding (_len : Nat) (s : State) : Host.Outcome State Fault Refusal :=
  finish (raiseHere .illegalInstruction) s

end Sys2Proof.Machine
end

