-- ==== Sys2Proof/Machine/Copy.lean ====
section
/-! DEFINITION. Copy channels: shadow fields, `cpygo` and `cpymm` with their checks, the steps of a transfer, follow-on
commands, and the combining buffers of reduce-adds (R166–R176, R215, R250–R253, R312, R345). -/

namespace Sys2Proof.Machine
open Sys2Proof

/-! ## Channels -/

/-- A transfer runs until it completes, faults or is cancelled (R166). -/
def Transfer.runs (t : Transfer) : Bool := t.fault.isNone

/-- Transfers that run on a channel. -/
def Channel.out (c : Channel) : Nat := (c.transfers.filter Transfer.runs).length

/-- The lowest faulted transfer, which FAULT, FID and CAUSE describe (R170, R172). -/
def Channel.faulted (c : Channel) : Option (Nat × Cause) :=
  c.transfers.findSome? (fun t => t.fault.map (fun f => (t.tid, f)))

/-- The channel status (Table 8.11). -/
def Channel.status (c : Channel) : Word :=
  let (fid, flag, code) := match c.faulted with
    | some (t, f) => (t, 1, f.code.toNat)
    | none => (0, 0, 0)
  BitVec.ofNat 64 (fid * 2 ^ 16 + c.out * 2 ^ 8 + flag * 2 ^ 7 + code)

/-- A transfer leaves its channel and its identifier is complete (R167, R172). -/
def Channel.close (c : Channel) (tid : Nat) : Channel :=
  { c with transfers := c.transfers.filter (fun t => t.tid != tid), completed := c.completed ++ [tid] }.settle

def Channel.mapTransfer (c : Channel) (tid : Nat) (f : Transfer → Transfer) : Channel :=
  { c with transfers := c.transfers.map (fun t => if t.tid = tid then f t else t) }

/-- Channel `ch` of a core changed by `f`. -/
def Core.mapChan (c : Core) (ch : Nat) (f : Channel → Channel) : Core :=
  { c with chans := Bank.set {} c.chans ch (f (c.chan ch)) }

/-- Transfer `tid` of a channel. -/
def State.transfer (s : State) (n ch tid : Nat) : Option Transfer :=
  ((s.core n).chan ch).transfers.find? (fun t => t.tid == tid)

def State.mapTransfer (s : State) (n ch tid : Nat) (f : Transfer → Transfer) : State :=
  s.mapCore n (fun c => c.mapChan ch (fun k => k.mapTransfer tid f))

/-! ## cpyset, cpyst, cpywait (R168, R172, R173) -/

/-- Shadow field `f` of channel `ch`. -/
def Ctx.shadowField (x : Ctx) (ch : Chan) (f : Nat) : Word := Bank.get 0 x.shadow (16 * ch.toNat + f)

/-- cpyset of fields 0–10 (R168, R175). -/
def execCpyset (c : Chan) (f : BitVec 6) (rs1 : SReg) (s : State) : Host.Outcome State Fault Refusal :=
  s.plain 4 (fun x => { x with shadow := Bank.set 0 x.shadow (16 * c.toNat + f.toNat) (x.x rs1) })

/-- cpyset of field 15: a fault is acknowledged (R172, R175). -/
def execAck (c : Chan) (rs1 : SReg) (s : State) : Host.Outcome State Fault Refusal :=
  finish (do
    awaitEnsign
    let t ← readX rs1
    modCore (fun k => k.mapChan c.toNat (fun ch =>
      if ch.transfers.any (fun u => u.tid == t.toNat && !u.runs) then ch.close t.toNat else ch))
    retire 4) s

/-- cpyst (R172). -/
def execCpyst (c : Chan) (rd : SReg) (s : State) : Host.Outcome State Fault Refusal :=
  s.plain 4 (fun x => x.setX rd (s.me.chan c.toNat).status)

/-- `cpywait` on `t` returns with this k0, or waits (R173). -/
def Channel.waitDone (c : Channel) (t : Nat) : Option Bool :=
  if t < c.doneId then some false
  else match c.faulted with
    | some (fid, _) => if fid ≤ t then some true else none
    | none => none

/-- cpywait (R173, R174). -/
def execCpywait (c : Chan) (rs1 : SReg) (s : State) : Host.Outcome State Fault Refusal :=
  finish (do
    notHandler
    let t ← readX rs1
    let ch := (← getState).me.chan c.toNat
    require (decide (t.toNat < ch.nextId)) .copyConfiguration
    match ch.waitDone t.toNat with
    | some k =>
      modCtx (fun x => x.setK 0 k)
      acquire
      retire 4
    | none => waitFor (.cpywait c t)) s

/-- CPYWAIT_RETURN (R173). -/
def execCpywaitReturn (core : Nat) (s : State) : Host.Outcome State Fault Refusal :=
  match (s.core core).main.wait with
  | some (.cpywait c t) =>
    match ((s.core core).chan c.toNat).waitDone t.toNat with
    | some k => onContext core false (do endWait; modCtx (fun x => x.setK 0 k); acquire; retire 4) s
    | none => .next s
  | _ => .next s

/-! ## The check of a snapshot (R168) -/

/-- SYNC names no word, a word by core and offset, or is refused (`none`). -/
def syncPlace (n : Nat) (v : Word) : Option (Option (Nat × Nat)) :=
  if v = 0 then some none
  else if v.toNat % 16 ≠ 0 then none
  else match untranslated n v.toNat with
    | some (.ok (.own 0 off)) => some (some (n, off))
    | some (.ok (.remote core 0 off)) => if core < Config.ringCores then some (some (core, off)) else none
    | _ => none

/-- The snapshot is well formed. -/
def snapshotOk (n : Nat) (x : Ctx) (ch : Chan) : Bool :=
  let f (i : Nat) := (x.shadowField ch i).toNat
  let op := f 7
  let mode := op % 4
  let etype : BitVec 3 := BitVec.ofNat 3 (op / 16)
  let size := (addFmt etype).2 / 8
  decide (1 ≤ f 2) && decide (f 2 < 2 ^ 32) && decide (1 ≤ f 3) && decide (f 3 < 2 ^ 16)
    && op / 2 ^ 7 == 0 && bits op 2 2 == 0 && decide (mode ≤ 1) && decide (etype.toNat ≤ 5)
    && (mode == 0 || [0, 1, 2, 4, 5].all (fun i => f i % size == 0))
    && (syncPlace n (x.shadowField ch 6)).isSome

/-- A follow-on command word (R171). -/
def followOk (v : Word) : Bool := [0, 1, 2, 3, 4, 6].contains v.toNat

/-- The transfer that a snapshot describes. -/
def transferOf (s : State) (ch : Chan) (follow : Option Word) : Transfer :=
  let x := s.ctx
  let f (i : Nat) := x.shadowField ch i
  let op := (f 7).toNat
  { tid := (s.me.chan ch.toNat).nextId, hnd := s.curH, asid := s.me.asid.toNat, ptbase := s.me.ptbase.toNat, atS := s.atS
    src := f 0, dst := f 1, len := (f 2).toNat, rows := (f 3).toNat, srcPitch := f 4, dstPitch := f 5
    sync := (syncPlace s.cur (f 6)).getD none
    add := if op % 4 = 1 then some (BitVec.ofNat 3 (op / 16)) else none
    follow := follow.map (fun v => (v.toNat, f 8, f 9, f 10, s.me.mcfg.toNat)) }

/-! ## Intervals -/

/-- The bounding interval of a side of a transfer, as exact integers (R175, R215). -/
def spanOf (base pitch : Word) (rows len : Nat) : Int × Int :=
  let far : Int := (rows - 1 : Nat) * pitch.toInt
  let b : Int := base.toNat
  (if far < 0 then b + far else b, (if far < 0 then b else b + far) + len)

def Transfer.srcSpan (t : Transfer) : Int × Int := spanOf t.src t.srcPitch t.rows t.len
def Transfer.dstSpan (t : Transfer) : Int × Int := spanOf t.dst t.dstPitch t.rows t.len

/-- An address with the own alias written as the package-global one (R260). -/
def normal (n : Nat) (a : Int) : Int :=
  if (Config.ownScratch : Int) ≤ a ∧ a < Config.ownScratchEnd then a - Config.ownScratch + Config.globalScratch + n * 0x800000
  else a

/-- An interval lies in the own scratchpad, through aw0. -/
def inOwnScratch (n : Nat) (i : Int × Int) : Bool :=
  decide (0 ≤ i.1) &&
    match untranslated n i.1.toNat with
    | some (.ok (.own 0 off)) => decide ((off : Int) + (i.2 - i.1) ≤ Config.scratchBytes)
    | _ => false

/-- The physical bytes from a place on: a part of an interval. -/
abbrev Span := Loc × Nat

/-- The span holds the byte at `l`. -/
def Span.holds (x : Span) (l : Loc) : Bool :=
  match x.1, l with
  | .hbm a, .hbm b => decide (a ≤ b) && decide (b < a + x.2)
  | .scratch c a, .scratch d b => c == d && decide (a ≤ b) && decide (b < a + x.2)
  | .host a, .host b => decide (a ≤ b) && decide (b < a + x.2)
  | .peer p a, .peer q b => p == q && decide (a ≤ b) && decide (b < a + x.2)
  | _, _ => false

/-- The lines of a span that chunks may have versions of. -/
def Span.lines (x : Span) : Option (LineId × LineId) :=
  match x.1 with
  | .hbm a => some (.hbm (a / 128), .hbm ((a + x.2 - 1) / 128))
  | .scratch c a => some (.scratch c (a / 128), .scratch c ((a + x.2 - 1) / 128))
  | _ => none

/-- Bytes that a leaf of `2^width` bytes at `va` translates of [lo, hi). -/
def leafSpan (s : State) (p width va lo hi : Nat) : List Span :=
  let a := Nat.max lo va
  let b := Nat.min hi (va + 2 ^ width)
  if b ≤ a then []
  else match leafTarget s ⟨0, va / 2 ^ width, width, p⟩ a with
    | .ok (.hbm pa) => [(.hbm pa, b - a)]
    | .ok (.host x) => [(.host x, b - a)]
    | .ok (.peer q off) => [(.peer q off, b - a)]
    | _ => []

/-- The place of a level's index in an address (Table 18.3). -/
def levelShift (level : Nat) : Nat :=
  match level with
  | 0 => 55
  | 1 => 42
  | 2 => 29
  | _ => 16

/-- What the table at `base`, whose first entry stands for `va`, translates of [lo, hi), as core `n` reads it (R306). -/
def tableSpans (s : State) (n lo hi : Nat) : Nat → Nat → Nat → Nat → List Span
  | 0, _, _, _ => []
  | fuel + 1, level, base, va =>
    let step := 2 ^ levelShift level
    let first := (Nat.max lo va - va) / step
    let last := Nat.min (if level = 0 then 512 else 8192) ((hi - va + step - 1) / step)
    (List.range (last - first)).flatMap (fun k =>
      let a := base + 8 * (first + k)
      let p := s.seenBytes (dieOf n) a 8
      let at' := va + (first + k) * step
      if s.hbmLimit ≤ a || !pteV p then []
      else if pteLeaf p then if leafOk level p then leafSpan s p (levelShift level) at' lo hi else []
      else if tableOk level p then tableSpans s n lo hi fuel (level + 1) (pteOA p) at'
      else [])

/-- Bytes of scratchpads that [lo, hi) reaches through aw0 (R260). -/
def scratchSpans (n lo hi : Nat) : List Span :=
  let slot (start core : Nat) : List Span :=
    let a := Nat.max lo start
    let b := Nat.min hi (start + Config.scratchBytes)
    if b ≤ a then [] else [(.scratch core (a - start), b - a)]
  let g := Config.globalScratch
  let first := (Nat.max lo g - g) / 0x800000
  let last := (Nat.min hi Config.globalScratchEnd - g + 0x7FFFFF) / 0x800000
  slot Config.ownScratch n ++ (List.range (last - first)).flatMap (fun k => slot (g + (first + k) * 0x800000) (first + k))

/-- The physical bytes that an interval of a transfer's addresses covers (R215, R261). An interval that passes an end of the
address space, where addresses wrap, is taken as the whole of it. -/
def spansOf (s : State) (n : Nat) (t : Transfer) (i : Int × Int) : List Span :=
  let whole := decide (i.1 < 0) || decide ((2 : Int) ^ 64 < i.2)
  let lo := if whole then 0 else i.1.toNat
  let hi := if whole then 2 ^ 64 else i.2.toNat
  let top := Nat.min hi Config.untranslated
  let caps : List Span :=
    if s.up then leafSpan s s.capsLeaf 16 (Config.caps / 65536 * 65536) lo top else []
  tableSpans s n lo top 4 0 (t.ptbase * 4096) 0 ++ caps ++ scratchSpans n lo hi

/-- The physical bytes that the bounding interval of a transfer's source covers. -/
def sourceSpans (s : State) (n : Nat) (t : Transfer) : List Span := spansOf s n t t.srcSpan

/-- A range register covers a line that the chunk or an older one in flight has a version of (R215). -/
def coversVersion (r : Region) (q : Nat) (g : List (LineId × LineId)) : Bool :=
  r.chunks.any (fun c => decide (c.q ≤ q) && c.versions.any (fun v =>
    g.any (fun x => decide (lineKey x.1 ≤ lineKey v.line) && decide (lineKey v.line ≤ lineKey x.2))))

/-- The range register that lets a speculative chunk's copy start at once (R175, R215). -/
def atOnce (s : State) (t : Transfer) : Option (List (LineId × LineId)) :=
  match s.chunk, s.region with
  | some c, some r =>
    if t.sync.isSome || t.follow.isSome || !inOwnScratch s.cur t.dstSpan || decide (4 ≤ c.ranges.length) then none
    else
      let g := (sourceSpans s s.cur t).filterMap Span.lines
      if coversVersion r c.q g then none else some g
  | _, _ => none

/-! ## The check of an assured chunk (R175, R181) -/

/-- Intervals in rising order of their start. -/
def insertSpan (a : Int × Int) : List (Int × Int) → List (Int × Int)
  | [] => [a]
  | b :: l => if a.1 ≤ b.1 then a :: b :: l else b :: insertSpan a l

/-- The parts of [lo, hi) that intervals in rising order leave out. -/
def gapsOf (lo hi : Int) : List (Int × Int) → List (Int × Int)
  | [] => if lo < hi then [(lo, hi)] else []
  | a :: l =>
    if hi ≤ lo then []
    else if lo < a.1 then (lo, if a.1 < hi then a.1 else hi) :: gapsOf (if lo < a.2 then a.2 else lo) hi l
    else gapsOf (if lo < a.2 then a.2 else lo) hi l

/-- A page outside the ranges that an assured chunk's copy may not reach: it maps device HBM, or nothing. -/
def pageBarred (s : State) (t : Transfer) (page : Int) : Bool :=
  let va := (page * 65536 % 2 ^ 64).toNat
  if Config.untranslated ≤ va then false
  else match findLeaf s s.cur [] t.asid t.ptbase .store va with
    | .error _ => true
    | .ok (e, _) => pteType e.pte == 0

/-- The first `k` pages from `page` hold one that is barred. -/
def anyBarred (s : State) (t : Transfer) : Nat → Int → Bool
  | 0, _ => false
  | k + 1, page => pageBarred s t page || anyBarred s t k (page + 1)

/-- The copy of an assured chunk writes where it may not: the lowest destination address outside the ranges. -/
def assuredStray (s : State) (t : Transfer) : Option Word :=
  match s.chunk, s.region with
  | some c, some r =>
    if !r.assured then none
    else
      let ivs := (r.frec.writes.map (r.frec.interval r.total c.q)).foldr insertSpan []
      let gs := gapsOf t.dstSpan.1 t.dstSpan.2 ivs
      if gs.any (fun g => anyBarred s t ((g.2 - 1) / 65536 - g.1 / 65536 + 1).toNat (g.1 / 65536)) then
        gs.head?.map (fun g => BitVec.ofInt 64 g.1)
      else none
  | _, _ => none

/-! ## cpygo, cpymm (R168, R171, R174, R175) -/

def doCopy (ch : Chan) (rd : SReg) (follow : Option Word) : M Unit := do
  let s ← getState
  let full (s : State) : Bool := decide (16 ≤ (s.me.chan ch.toNat).out)
  if full s && s.curH then notHandler
  match follow with
  | some v => require (followOk v) .copyConfiguration
  | none => pure ()
  require (snapshotOk s.cur s.ctx ch) .copyConfiguration
  match assuredStray s (transferOf s ch follow) with
  | some a => raise .assuredRange a
  | none => pure ()
  let range := if s.speculative then atOnce s (transferOf s ch follow) else none
  if range.isNone then awaitEnsign
  if full (← getState) then stall
  let s ← getState
  let t := { transferOf s ch follow with
             chunk := if range.isSome || s.assured then s.chunk.map (·.q) else none, versioned := range.isSome }
  match range with
  | some g => modState (fun s => s.mapMyChunk (fun c => { c with ranges := c.ranges ++ [g] }))
  | none => pure ()
  modCore (fun k => k.mapChan ch.toNat (fun c => { c with nextId := c.nextId + 1, transfers := c.transfers ++ [t] }))
  writeX rd (BitVec.ofNat 64 t.tid)
  retire 4

/-- cpygo. -/
def execCpygo (c : Chan) (rd : SReg) (s : State) : Host.Outcome State Fault Refusal := finish (doCopy c rd none) s
/-- cpymm. -/
def execCpymm (c : Chan) (rd rs1 : SReg) (s : State) : Host.Outcome State Fault Refusal :=
  finish (doCopy c rd (some (s.ctx.x rs1))) s

/-! ## The progress of a transfer -/

/-- Bytes of all rows. -/
def Transfer.total (t : Transfer) : Nat := t.len * t.rows

/-- Every byte is written. -/
def Transfer.written_ (t : Transfer) : Bool := decide (t.total ≤ t.written)

/-- Every byte is written and performed (R250, R253). -/
def Transfer.landed (t : Transfer) : Bool := t.written_ && t.peers.isEmpty && t.combining == 0

/-- A piece of the transfer is held in an overflow area: it has not landed (R260). -/
def State.holdsPiece (s : State) (n ch tid : Nat) : Bool :=
  s.cores.any (fun e => e.2.overflow.any (fun a => a.2.any (fun h => match h with
    | .packet p => p.src == n && p.copy == some (ch, tid)
    | _ => false)))

/-- Source and destination of the next piece, and its bytes: it ends with its row and with the line of either side. -/
def Transfer.piece (t : Transfer) : Word × Word × Nat :=
  let row := BitVec.ofNat 64 (t.written / t.len)
  let o := t.written % t.len
  let a := t.src + row * t.srcPitch + BitVec.ofNat 64 o
  let d := t.dst + row * t.dstPitch + BitVec.ofNat 64 o
  (a, d, Nat.min (t.len - o) (Nat.min (128 - a.toNat % 128) (128 - d.toNat % 128)))

/-- An address is translated and no translation of its page is held. -/
def lacksPage (a : Word) (page : Option TlbEntry) : Bool := decide (a.toNat < Config.untranslated) && page.isNone

/-- The transfer translates before its next piece (R312). -/
def Transfer.lacks (t : Transfer) : Bool :=
  let (a, d, _) := t.piece
  lacksPage a t.srcPage || lacksPage d t.dstPage

/-- A fault of the transfer is on its way to the channel. -/
def State.faulting (s : State) (n ch tid : Nat) : Bool :=
  s.flight.any (fun i => match i with | .copyFault a b c _ => a == n && b == ch && c == tid | _ => false)

/-- The transfer may take a step: it runs, has not met a fault, and its core is not stopped (R316). -/
def State.transferRuns (s : State) (n ch : Nat) (t : Transfer) : Bool :=
  t.runs && !s.faulting n ch t.tid && !(s.core n).stopped && !(s.core n).fenced

/-- The transfer stops at the faulting byte. -/
def State.stopCopy (s : State) (n ch tid : Nat) (c : Cause) : State :=
  if s.faulting n ch tid then s else s.post (.copyFault n ch tid c)

/-- A `tlbinv` in progress names the transfer's address space (R312). -/
def State.shooting (s : State) (asid : Nat) : Bool :=
  s.shoots.any (fun h => match h.asid with | some a => a == asid | none => true)

/-- The access that a transfer makes at its destination (R307). -/
def Transfer.access (t : Transfer) : Access := if t.add.isSome then .modify else .store

/-- Translates one side; an untranslated address needs nothing. -/
def translateSide (s : State) (n : Nat) (t : Transfer) (acc : Access) (a : Word) (page : Option TlbEntry) :
    Except Cause (Option TlbEntry) :=
  if !lacksPage a page then .ok page
  else match findLeaf s n [] t.asid t.ptbase acc a.toNat with
    | .error f => .error f.1
    | .ok (e, _) => if permitted acc t.atS e.pte then .ok (some e) else .error acc.protection

/-- COPY_RETRANSLATE (R312): at its start and at every 64 KiB boundary a transfer translates both sides, but not while a
`tlbinv` that names its address space is in progress. -/
def execCopyRetranslate (core chan tid : Nat) (s : State) : Host.Outcome State Fault Refusal :=
  match s.transfer core chan tid with
  | none => .next s
  | some t =>
    if !s.transferRuns core chan t || t.written_ || !t.lacks || s.shooting t.asid then .next s
    else
      let (a, d, _) := t.piece
      let tlb (page : Option TlbEntry) : List TlbEntry := page.toList
      let s := s.meetWalk core (tlb t.srcPage) t.asid t.ptbase a.toNat
      let s := s.meetWalk core (tlb t.dstPage) t.asid t.ptbase d.toNat
      if (s.core core).fenced then .next s else
      match translateSide s core t .load a t.srcPage, translateSide s core t t.access d t.dstPage with
      | .ok p, .ok q => .next (s.mapTransfer core chan tid (fun t => { t with srcPage := p, dstPage := q }))
      | .error c, _ => .next (s.stopCopy core chan tid c)
      | _, .error c => .next (s.stopCopy core chan tid c)

/-! ## One piece (R168–R170) -/

/-- What one side of a piece reaches. -/
def Transfer.place (t : Transfer) (s : State) (n : Nat) (acc : Access) (a : Word) (page : Option TlbEntry) :
    Except Cause Target :=
  match page with
  | some e => if a.toNat < Config.untranslated then (leafTarget s e a.toNat).mapError (·.1) else .error .accessTarget
  | none => ((resolveAt s n [] t.asid t.ptbase t.atS acc a.toNat).map (·.1)).mapError (·.1)

/-- The place of byte `i` of a target. -/
def Target.loc (n : Nat) (i : Nat) : Target → Loc
  | .hbm pa => .hbm (pa + i)
  | .own _ off => .scratch n (off + i)
  | .remote c _ off => .scratch c (off + i)
  | .host a => .host (a + i)
  | .peer p off => .peer p (off + i)

/-- Bytes read for a piece, with their poison, or a wait, or a fault. -/
inductive Taken where
  | bytes (l : List (BitVec 8 × Bool))
  | wait (s : State)
  | failed (c : Cause)

/-- Bytes of a number with poison by granule. -/
def withPoison (v k : Nat) (p : Nat → Bool) : Taken := .bytes ((bytesOf v k).zipIdx.map (fun e => (e.1, p e.2)))

/-- The `k` bytes from a target on, as places of device HBM or of a scratchpad. -/
def Target.bytes (n k : Nat) : Target → Loc → Bool
  | .hbm pa => inBytes pa k
  | .own _ off => inScratch n off k
  | .remote c _ off => inScratch c off k
  | _ => fun _ => false

/-- A copy of core `n` reads its source: the read meets the errors there (R377, R379). -/
def State.meetSource (s : State) (n k : Nat) (x : Target) : State :=
  let s := match x with
    | .hbm pa => if s.tagErrors = [] then s else s.meetTag (.annex (dieOf n) (lineOf pa))
    | _ => s
  s.meet (x.bytes n k)

/-- The source bytes of a piece of transfer `t` of core `n`: each with its poison, which a copy carries on (R170, R380). In
the scratchpad of a core whose ring does not run the transfer's address space, it reads the bytes that lie there: R260
speaks of writes and of remote loads only. DESIGN CHOICE (log 91). -/
def takeBytes (s : State) (n ch : Nat) (t : Transfer) (x : Target) (k : Nat) : Taken :=
  match x with
  | .hbm pa =>
    if s.lockedBy (.hbm (lineOf pa)) none || !s.readableFor (some (dieOf n)) (lineOf pa) then .wait s
    else if s.combines (dieOf n) (lineOf pa) then .wait (s.emptyBuffer (dieOf n) (lineOf pa))
    else withPoison (s.seenBytes (dieOf n) pa k) k (fun i => (s.seenPoison (dieOf n) (lineOf pa)).getLsbD ((pa + i) % 128 / 16))
  | .own w off =>
    if w ≠ 0 then .failed .accessTarget
    else if s.scratchLocked n (off / 128) then .wait s
    else withPoison (readBytes (s.core n).scratch off k) k (fun i => Bank.get false (s.core n).scratchPoison ((off + i) / 16))
  | .remote c w off =>
    if w ≠ 0 then .failed .accessTarget
    else if s.scratchLocked c (off / 128) then .wait s
    else withPoison (readBytes (s.core c).scratch off k) k (fun i => Bank.get false (s.core c).scratchPoison ((off + i) / 16))
  | .host a =>
    match t.fetch with
    | some (_, some d) => withPoison d.1.toNat k (fun i => d.2.getLsbD ((a % 128 + i) / 16))
    | some (_, none) => .wait s
    | none =>
      if !s.hostLink then .failed .accessTarget
      else .wait ((s.post (.hostReadCompletion n (.copy ch t.tid) false)).mapTransfer n ch t.tid (fun t => { t with fetch := some (a, none) }))
  | .peer p off =>
    match t.fetch with
    | some (_, some d) => withPoison d.1.toNat k (fun i => d.2.getLsbD ((off % 128 + i) / 16))
    | some (_, none) => .wait s
    | none =>
      .wait ((s.toPeer p (.load off k) (.copy n ch t.tid)).mapTransfer n ch t.tid (fun t => { t with fetch := some (s.peerNext, none) }))

/-- Source bytes that this transfer has overwritten: each is delivered as it was or as it is, which the manual leaves
open (R169, log 2). -/
def withOriginals (s : State) (n : Nat) (t : Transfer) (x : Target) (l : List (BitVec 8 × Bool)) :
    List (BitVec 8 × Bool) × State :=
  let saved (i : Nat) : Option Byte := (t.orig.find? (fun o => decide (o.1 = x.loc n i))).map (·.2)
  if (List.range l.length).all (fun i => (saved i).isNone) then (l, s)
  else
    let (m, s) := s.choose (2 ^ l.length)
    (l.zipIdx.map (fun e => match saved e.2 with
      | some b => if m / 2 ^ e.2 % 2 = 0 then (b, e.1.2) else e.1
      | none => e.1), s)

/-- The bytes that a write is about to replace and that lie in the transfer's own source (R169). What a peer package's byte
held is with that package, whose answer gives either value. -/
def newOriginals (s : State) (n : Nat) (t : Transfer) (x : Target) (k : Nat) : List (Loc × Byte) :=
  let spans := sourceSpans s n t
  (List.range k).filterMap (fun i =>
    let l := x.loc n i
    if !spans.any (fun p => Span.holds p l) || t.orig.any (fun o => decide (o.1 = l)) then none
    else match l with
      | .hbm pa => some (l, BitVec.ofNat 8 (s.currentBytes pa 1))
      | .scratch c off => some (l, Bank.get 0 (s.core c).scratch off)
      | .host a => some (l, Bank.get 0 s.hostMem a)
      | .peer _ _ => none)

/-- A piece as a part of its destination line: the bytes in place, the mask of bytes and the poisoned granules. -/
structure Piece where
  data : BitVec 1024
  mask : BitVec 128
  poison : BitVec 8
  bytes : Nat
  deriving DecidableEq, Repr

def pieceAt (off : Nat) (l : List (BitVec 8 × Bool)) : Piece :=
  { data := BitVec.ofNat 1024 (pack 8 (l.map (fun b => b.1.toNat)) * 2 ^ (8 * off)), mask := BitVec.ofNat 128 (maskBits off l.length)
    poison := l.zipIdx.foldl (fun p e => if e.1.2 then p ||| BitVec.twoPow 8 ((off + e.2) / 16) else p) 0
    bytes := l.length }

/-- How an attempt to write a piece ends. -/
inductive CopyTry where
  | wait (s : State)
  | failed (c : Cause)
  | done (s : State)

/-- Bytes of a transfer have been performed: they are counted (R250). -/
def State.countFor (s : State) (n : Nat) (t : Transfer) (k : Nat) : State :=
  match t.sync with
  | some (w, off) => s.post (.syncWordCount ⟨n, w, none⟩ t.asid off k)
  | none => s

/-- A line with a piece written or added into it. -/
def Piece.onto (p : Piece) (add : Option (BitVec 3)) (old : BitVec 1024) : BitVec 1024 :=
  match add with
  | none => mergeLine old p.data p.mask
  | some e => reduceAdd e old p.data p.mask

/-- A write of a chunk's copy to a line is broadcast to every younger chunk in flight, as a store's is (R217). -/
def State.copyBroadcast (s : State) (ring q : Nat) (l : LineId) (count : Nat) : State :=
  match (s.ring ring).region with
  | none => s
  | some r =>
    let younger := (r.chunks.filter (fun o => decide (q < o.q))).map (·.q)
    younger.foldl (fun s y => s.post (.storeBroadcast ring q y l count))
      (s.mapChunk ring q (fun c => { c with owed := c.owed ++ younger }))

/-- The version of a scratchpad line that a chunk's copy writes into, with the read record and the core that making it
leaves (R212, R213). -/
def copyVersion (s : State) (n : Nat) (r : Region) (c : Chunk) (line : Nat) : Version × List ReadRec × Core :=
  let l : LineId := .scratch n line
  match c.versions.find? (fun v => decide (v.line = l)) with
  | some v => (v, [], s.core n)
  | none =>
    let older := (r.chunks.filter (fun o => decide (o.q < c.q))).reverse.findSome? (fun o =>
      (o.versions.find? (fun v => decide (v.line = l))).map (fun v => (o.q, v)))
    match older with
    | some (o, v) => (⟨l, v.data, 0, 0, v.poison, []⟩, [⟨l, .chunk o v.count⟩], s.core n)
    | none =>
      let k := s.core n
      let w := Bank.get 0 k.scratchWts line
      let e := k.leaseEnd (Bank.get 0 k.scratchRts line)
      (⟨l, k.scratchLine line, 0, 0, BitVec.ofNat 8 (linePoison k.scratchPoison line 8), []⟩, [⟨l, .committed w e⟩],
        { k with scratchRts := Bank.set 0 k.scratchRts line e, lts := Nat.max k.lts w })

/-- A chunk's version or read record of a line finds no room (R214). -/
def noRoom (s : State) (n : Nat) (c : Chunk) (l : LineId) : Bool :=
  s.framesFull n l || (decide (1280 ≤ c.reads.length) && !c.reads.any (fun x => decide (x.line = l))
    && !c.versions.any (fun v => decide (v.line = l)))

/-- A piece of a copy that chunk `q` started at once: written into the chunk's version as a store's bytes are (R213,
R215). Where the version finds no room it waits for the Ensign and performs the step of R187 (R214, log 57); a chunk that has
performed it writes the scratchpad. -/
def versionWrite (s : State) (n q line : Nat) (t : Transfer) (p : Piece) : CopyTry :=
  let ring := ringOf n
  let l : LineId := .scratch n line
  match (s.ring ring).region with
  | none => .wait s
  | some r =>
    match r.find q with
    | none => .wait s
    | some c =>
      if !c.spec then
        if s.scratchLocked n line then .wait s
        else
          let s := s.applyPacket { src := n, dst := n, asid := t.asid, line := line, data := p.data,
                                   mask := BitVec.ofNat 1024 (byteMask 128 p.mask.toNat), add := t.add, sync := none,
                                   bytes := p.bytes, poison := p.poison }
          .done (s.copyBroadcast ring q l 1)
      else if noRoom s n c l then
        if r.ensignQ ≠ q then .wait s
        else match commitTry s ring q with
          | .wait s _ => .wait s
          | .failed s => .wait (s.failCommit ring q)
          | .done s ts => .wait (s.closeStep ring q ts)
      else
        let base := copyVersion s n r c line
        let v := base.1
        let keep : BitVec 8 := if t.add.isSome then v.poison else v.poison &&& ~~~BitVec.ofNat 8 (fullGranules p.mask.toNat 8)
        let v := { v with data := p.onto t.add v.data, mask := v.mask ||| p.mask, count := Nat.min (v.count + 1) 0xFFFF,
                          poison := keep ||| p.poison }
        let reads := base.2.1.filter (fun x => !c.reads.any (fun y => decide (y.line = x.line)))
        let s := ((s.freeFrame n l).mapCore n (fun k => { base.2.2 with l1 := k.l1 })).mapChunk ring q (fun c =>
          { c with versions := c.versions.filter (fun w => decide (w.line ≠ l)) ++ [v], reads := c.reads ++ reads })
        .done (s.copyBroadcast ring q l v.count)

/-- A piece written at its destination (R169, R170, R252). -/
def putPiece (s : State) (n ch : Nat) (t : Transfer) (x : Target) (l : List (BitVec 8 × Bool)) : CopyTry :=
  match x with
  | .hbm pa =>
    let line := lineOf pa
    let p := pieceAt (pa % 128) l
    match s.frame pa with
    | .frozen => .failed .writeFrozen
    | .sealing => .wait s
    | .collecting => .wait s
    | .plain =>
      if t.add.isSome ∧ s.homeLine line ≠ dieOf n then
        .done ((s.post (.combineContribution
          { die := dieOf n, line := line, etype := t.add.getD 0, data := p.data, mask := p.mask, poison := p.poison,
            core := n, chan := ch, tid := t.tid })).mapTransfer n ch t.tid (fun t => { t with combining := t.combining + 1 }))
      else if s.combines (dieOf n) line then .wait (s.emptyBuffer (dieOf n) line)
      else if !s.settled line then .wait s
      else
        let keep : BitVec 8 := if t.add.isSome then s.homePoison line else 0
        .done ((s.engineWrite line (p.onto t.add (s.homeData line)) p.mask (s.core n).lts (p.poison ||| keep)).countFor n t p.bytes)
  | .own w off =>
    if w ≠ 0 then .failed .awWrite
    else match (if t.versioned then t.chunk else none) with
      | some q => versionWrite s n q (off / 128) t (pieceAt (off % 128) l)
      | none =>
        if s.scratchLocked n (off / 128) then .wait s
        else
          let p := pieceAt (off % 128) l
          .done (s.applyPacket { src := n, dst := n, asid := t.asid, line := off / 128, data := p.data,
                                 mask := BitVec.ofNat 1024 (byteMask 128 p.mask.toNat), add := t.add, sync := t.sync,
                                 bytes := p.bytes, poison := p.poison })
  | .remote c w off =>
    if w ≠ 0 then .failed .awWrite
    else if s.scratchLocked c (off / 128) then .wait s
    else
      let p := pieceAt (off % 128) l
      .done (s.packetArrives { src := n, dst := c, asid := t.asid, line := off / 128, data := p.data,
                               mask := BitVec.ofNat 1024 (byteMask 128 p.mask.toNat), add := t.add, sync := t.sync,
                               bytes := p.bytes, poison := p.poison, copy := some (ch, t.tid) })
  | .host a =>
    if t.add.isSome ∨ !s.hostLink then .failed .accessTarget
    else .done ((s.putHost a l).countFor n t l.length)
  | .peer p off =>
    if t.add.isSome then .failed .accessTarget
    else .done ((s.toPeer p (.store s.peerNext off l) (.copy n ch t.tid)).mapTransfer n ch t.tid
      (fun t => { t with peers := t.peers ++ [(s.peerNext, l.length)] }))

/-- A write of transfer `u` may fall on one of `k` bytes from address `d` on, which lead to `y`: by its addresses, or by the
bytes that they reach (R261). -/
def mayMeet (s : State) (n : Nat) (u : Transfer) (d : Word) (y : Target) (k : Nat) : Bool :=
  let lo := normal n d.toNat
  overlaps (lo, lo + k) (normal n u.dstSpan.1, normal n u.dstSpan.1 + (u.dstSpan.2 - u.dstSpan.1))
    || (spansOf s n u u.dstSpan).any (fun p => (List.range k).any (fun i => Span.holds p (y.loc n i)))

/-- Lower-numbered transfers of the channel have performed every write that may fall on the piece (R169). -/
def orderOk (s : State) (n : Nat) (c : Channel) (t : Transfer) (d : Word) (y : Target) (k : Nat) : Bool :=
  c.transfers.all (fun u => decide (t.tid ≤ u.tid) || !u.runs || u.landed || !mayMeet s n u d y k)

/-- The transfer moves on by a piece; translations are dropped where either side crosses a 64 KiB boundary (R312). -/
def Transfer.advance (t : Transfer) (k : Nat) : Transfer :=
  let (a, d, _) := t.piece
  let t' := { t with written := t.written + k, fetch := none }
  let (a', d', _) := t'.piece
  if t'.written_ || a.toNat / 65536 != a'.toNat / 65536 || d.toNat / 65536 != d'.toNat / 65536 then
    { t' with srcPage := none, dstPage := none }
  else t'

/-- COPY_WRITE (R168–R170): the next line-sized piece of a transfer is read and written. -/
def execCopyWrite (core chan tid : Nat) (s : State) : Host.Outcome State Fault Refusal :=
  match s.transfer core chan tid with
  | none => .next s
  | some t =>
    let (a, d, k) := t.piece
    if !s.transferRuns core chan t || t.written_ || t.lacks then .next s
    else
      let s := s.checkUnit core Upset.ofCopy
      if (s.core core).fenced then .next s else
      match t.place s core .load a t.srcPage, t.place s core t.access d t.dstPage with
      | .error c, _ => .next (s.stopCopy core chan tid c)
      | _, .error c => .next (s.stopCopy core chan tid c)
      | .ok x, .ok y =>
        if !orderOk s core ((s.core core).chan chan) t d y k then .next s else
        let s := s.meetSource core k x
        match takeBytes s core chan t x k with
        | .failed c => .next (s.stopCopy core chan tid c)
        | .wait s => .next s
        | .bytes l =>
          let o := newOriginals s core t y k
          let (l, s1) := withOriginals s core t x l
          match putPiece s1 core chan t y l with
          | .failed c => .next (s.stopCopy core chan tid c)
          | .wait s2 => .next { s2 with choice := s.choice, choices := s.choices }
          | .done s2 => .next (s2.mapTransfer core chan tid (fun t => { t.advance k with orig := t.orig ++ o }))

/-! ## Completion, faults and follow-on commands (R167, R170, R171) -/

/-- COPY_TRANSFER_COMPLETE (R167): CPYDONE moves up, and the follow-on command's flags enter FFLAGS (R171). -/
def execCopyTransferComplete (core chan tid : Nat) (s : State) : Host.Outcome State Fault Refusal :=
  match s.transfer core chan tid with
  | none => .next s
  | some t =>
    if !s.transferRuns core chan t || !t.landed || s.holdsPiece core chan tid || t.follow.isSome then .next s
    else .next (s.mapCore core (fun c => { (c.mapChan chan (fun k => k.close tid)) with main := c.main.raiseFlags t.fflags }))

/-- What a follow-on command reads of the scratchpad. -/
def followReads (n : Nat) (c : Core) (f : Nat × Word × Word × Word × Nat) : List (Nat × Nat) :=
  let (fn, ma, mb, mc, cfg) := f
  match fn with
  | 0 => loadReads n ma mb cfg
  | 2 => (streamOf .mma n c mc ma mb cfg).reads 0
  | 3 => (streamOf .mmas n c mc ma mb cfg).reads 0
  | 4 => (streamOf .mqma n c mc ma mb cfg).reads 0
  | _ => []

/-- The array runs a command with a snapshotted MCFG and no VSTART; a stop of the main context lets it complete (R171,
Table 18.6). -/
def runFollow (n : Nat) (c : Core) (f : Nat × Word × Word × Word × Nat) : MtxRes :=
  let (fn, ma, mb, mc, cfg) := f
  let stop := c.upset.filter Upset.isStop
  let c := { c with upset := c.upset.filter (fun u => !u.isStop) }
  let r := match fn with
    | 0 => mtxLoad n c ma mb cfg 0
    | 1 => mtxSwap c
    | 2 => mtxStream .mma n c mc ma mb cfg 0 0 [] true
    | 3 => mtxStream .mmas n c mc ma mb cfg 0 0 [] true
    | 4 => mtxStream .mqma n c mc ma mb cfg 0 0 [] true
    | _ => mtxZero n c mc mb 0
  { r with core := { r.core with upset := stop.or r.core.upset } }

/-- FOLLOW_ON_COMMAND (R171): the array runs the command once the last byte has landed; it waits while a debugger halts its
core (R258). -/
def execFollowOnCommand (core chan tid : Nat) (s : State) : Host.Outcome State Fault Refusal :=
  match s.transfer core chan tid with
  | none => .next s
  | some t =>
    if !s.transferRuns core chan t || !t.landed || s.holdsPiece core chan tid || (s.core core).halted then .next s
    else match t.follow with
      | none => .next s
      | some f =>
        let s := s.meetScratch core (followReads core (s.core core) f)
        let r := runFollow core (s.core core) f
        let s := s.setCore core r.core
        match r.stop with
        | some (_, c, _) => .next ((s.mapTransfer core chan tid (fun t => { t with followFault := true })).stopCopy core chan tid c)
        | none => .next (s.mapTransfer core chan tid (fun t => { t with follow := none, fflags := r.flags }))

/-- The bytes 12–15 that mark a sync word poisoned by a channel (Table 6.7, R251). -/
def poisonWord (n ch : Nat) (t : Transfer) (w off : Nat) : Packet :=
  let sh := 8 * (off % 128 + 12)
  { src := n, dst := w, asid := t.asid, line := off / 128, data := BitVec.ofNat 1024 ((1 + ch * 2) * 2 ^ sh),
    mask := BitVec.ofNat 1024 (maskBits sh 32), sync := none, bytes := 4, poison := 0 }

/-- The sync word that a fault of the transfer poisons: a follow-on command's poisons none (R251). -/
def Transfer.poisons (t : Transfer) : Option (Nat × Nat) := if t.followFault then none else t.sync

/-- COPY_FAULT (R170, R251): the transfer is faulted and its sync word poisoned, after the counts it has sent. -/
def execCopyFault (core chan tid : Nat) (cause : Cause) (s : State) : Host.Outcome State Fault Refusal :=
  let i : Instr := .copyFault core chan tid cause
  match s.transfer core chan tid with
  | none => .next (s.take i)
  | some t =>
    if !t.runs then .next (s.take i)
    else match t.poisons with
      | none => .next ((s.take i).mapTransfer core chan tid (fun t => { t with fault := some cause, srcPage := none, dstPage := none }))
      | some (w, off) =>
        if s.flight.any (fun j => match j with | .syncWordCount y _ o _ => y.core == w && o == off | _ => false) || s.scratchLocked w (off / 128) then .next s
        else
          let s := (s.take i).mapTransfer core chan tid (fun t => { t with fault := some cause, srcPage := none, dstPage := none })
          .next (s.packetArrives (poisonWord core chan t w off))

/-! ## Combining buffers (R252, R253, R345) -/

/-- The bits of a byte mask. -/
def countBytes (m : BitVec 128) : Nat := (List.range 128).foldl (fun n i => n + bit (m.getLsbD i)) 0

/-- A contribution joins a buffer: elements already there are added to, others enter. -/
def CombBuf.join (b : CombBuf) (c : Contribution) : CombBuf :=
  { b with
    sum := mergeLine (reduceAdd b.etype b.sum c.data (b.mask &&& c.mask)) c.data (c.mask &&& ~~~b.mask)
    mask := b.mask ||| c.mask
    parts := b.parts ++ [(c.core, c.chan, c.tid, countBytes c.mask)]
    poisoned := b.poisoned ||| c.poison }

/-- COMBINE_CONTRIBUTION (R252): an Annex accepts a contribution; one of another ETYPE first empties the buffer, and none
joins a buffer that has been emptied (R253). -/
def execCombineContribution (c : Contribution) (s : State) : Host.Outcome State Fault Refusal :=
  match s.combine.find? (fun b => b.die == c.die && b.line == c.line) with
  | some b =>
    if b.sent then .next s
    else if b.etype = c.etype then
      .next { (s.take (.combineContribution c)) with
              combine := s.combine.map (fun x => if x.die = c.die ∧ x.line = c.line then x.join c else x) }
    else .next (s.emptyBuffer c.die c.line)
  | none =>
    let b : CombBuf := { die := c.die, line := c.line, etype := c.etype, sum := 0, mask := 0, parts := [], poisoned := 0 }
    let s := s.take (.combineContribution c)
    .next ({ s with combine := s.combine ++ [b.join c] }.post (.combineTimeout c.die c.line))

/-- A contribution has been applied: its transfer goes on, and its bytes are counted (R250). -/
def State.contributed (s : State) (p : Nat × Nat × Nat × Nat) : State :=
  let (n, ch, tid, k) := p
  match s.transfer n ch tid with
  | some t => (s.mapTransfer n ch tid (fun t => { t with combining := t.combining - 1 })).countFor n t k
  | none => s

/-- COMBINE_TIMEOUT (R253): the buffer is emptied and its sum applied at the home, or its fault goes to every transfer
that contributed. While a frame is being sealed, only a sum that a recall or another event has already emptied is applied
(log 99). R392 gives the write the logical time of the core whose engine makes it: with several contributors the model takes
the greatest. DESIGN CHOICE (log 88). -/
def execCombineTimeout (die line : Nat) (s : State) : Host.Outcome State Fault Refusal :=
  let i : Instr := .combineTimeout die line
  match s.combine.find? (fun b => b.die == die && b.line == line) with
  | none => .next (s.take i)
  | some b =>
    let gone (s : State) : State := { (s.take i) with combine := s.combine.filter (fun x => !(x.die == die && x.line == line)) }
    let s := s.sendSums (fun x => x.die == die && x.line == line && decide (s.frame (line * 128) ≠ .sealing))
    let free := decide (s.frame (line * 128) = .plain) || (decide (s.frame (line * 128) = .sealing) && b.sent)
    if s.frame (line * 128) = .frozen then
      .next (b.parts.foldl (fun s p => s.stopCopy p.1 p.2.1 p.2.2.1 .writeFrozen) (gone s))
    else if !free || !s.settled line then .next s
    else
      let t := b.parts.foldl (fun m p => Nat.max m (s.core p.1).lts) 0
      let s := (gone s).engineWrite line (reduceAdd b.etype (s.homeData line) b.sum b.mask) b.mask t (b.poisoned ||| s.homePoison line)
      .next (b.parts.foldl State.contributed s)

end Sys2Proof.Machine
end

