-- ==== Sys2Proof/Machine/Forks.lean ====
section
/-! DEFINITION. Fork regions: the record, `fork`, `join`, `cend`, `fwd`, `nspec`, and the steps of the ring: placement,
start, live-ins, probes, broadcasts, squashes, commits and the Ensign (R177–R187, R204–R236). -/

namespace Sys2Proof.Machine
open Sys2Proof

/-! ## The fork record (R177, R182) -/

/-- A 32-bit entry of a record. -/
def recWord (w : Nat) (byte : Nat) : Nat := bits w (8 * byte) 32
/-- A 64-bit entry of a record. -/
def recLong (w : Nat) (byte : Nat) : Nat := bits w (8 * byte) 64

/-- Fields of bytes 8–15 (Table 9.2). -/
def recPer (w : Nat) : Nat := bits (recLong w 8) 48 16
def recNlev (w : Nat) : Nat := bits (recLong w 8) 40 3
def recNlive (w : Nat) : Nat := bits (recLong w 8) 36 4
def recNrd (w : Nat) : Nat := bits (recLong w 8) 33 3
def recNwr (w : Nat) : Nat := bits (recLong w 8) 30 3
def recOrder (w : Nat) : Nat := bits (recLong w 8) 28 2
def recWidth (w : Nat) : Nat := bits (recLong w 8) 24 4

/-- A used level entry is well formed (Table 9.3). -/
def levelOk (e : Nat) : Bool :=
  bits e 26 6 != 0 && (bits e 25 1 == 0 || bits e 19 6 == 0) && (bits e 12 1 == 0 || bits e 6 6 == 0)

/-- A used live-in entry is well formed, in a record of `nlev` levels (Table 9.4, R182). -/
def liveOk (nlev e : Nat) : Bool :=
  let stride := bits e 16 16
  let level := bits e 9 2
  let mode := bits e 7 2
  let v := bits e 6 1 == 1
  let reg := bits e 0 6
  bits e 11 5 == 0 && (mode == 1 || stride == 0) && (mode == 2 || level == 0) && (mode != 2 || decide (level < nlev))
    && (if v then mode != 1 && mode != 2 && bits e 5 1 == 0 else reg != 0 && !(decide (8 ≤ reg) && decide (reg ≤ 13)))

/-- A used range entry is well formed (Table 9.5, R182). -/
def rangeOk (e : Nat) : Bool := bits e 52 12 != 0 && bits e 11 1 == 0

/-- No two live-in entries name one register. -/
def distinctRegs : List Nat → Bool
  | [] => true
  | e :: t => t.all (fun f => bits f 0 7 != bits e 0 7) && distinctRegs t

/-- The checks of R182 on a record's 128 bytes. -/
def recordOk (w : Nat) : Bool :=
  let nlev := recNlev w
  let nlive := recNlive w
  let levs := (List.range 4).map (fun l => recWord w (16 + 4 * l))
  let livs := (List.range 8).map (fun n => recWord w (32 + 4 * n))
  let rds := (List.range 4).map (fun m => recLong w (64 + 8 * m))
  let wrs := (List.range 4).map (fun m => recLong w (96 + 8 * m))
  recLong w 0 % 2 == 0 && recPer w != 0 && bits (recLong w 8) 43 5 == 0 && bits (recLong w 8) 0 24 == 0
    && decide (1 ≤ recWidth w) && decide (recWidth w ≤ 8) && decide (1 ≤ nlev) && decide (nlev ≤ 4)
    && decide (nlive ≤ 8) && decide (recNrd w ≤ 4) && decide (recNwr w ≤ 4) && recOrder w != 3
    && (levs.take nlev).all levelOk && (levs.drop nlev).all (· == 0)
    && (livs.take nlive).all (liveOk nlev) && (livs.drop nlive).all (· == 0) && distinctRegs (livs.take nlive)
    && (rds.take (recNrd w)).all rangeOk && (rds.drop (recNrd w)).all (· == 0)
    && (wrs.take (recNwr w)).all rangeOk && (wrs.drop (recNwr w)).all (· == 0)

/-- A bound of a level: a register, or an immediate (R179). -/
def boundOf (c : Ctx) (isReg : Bool) (f : Nat) : Int :=
  if isReg then (c.x (BitVec.ofNat 6 f)).toInt else toInt 12 f

/-- A level with its bounds read from the issuing context. -/
def levelOf (c : Ctx) (e : Nat) : Level :=
  { lo := boundOf c (bits e 12 1 == 1) (bits e 0 12), hi := boundOf c (bits e 25 1 == 1) (bits e 13 12),
    stp := toInt 6 (bits e 26 6) }

/-- A live-in entry. -/
def liveOf (e : Nat) : LiveIn :=
  { mode := match bits e 7 2 with | 0 => .forward | 1 => .stride | 2 => .index | _ => .copy
    vec := bits e 6 1 == 1, reg := bits e 0 6, stride := toInt 16 (bits e 16 16), level := bits e 9 2 }

/-- A range entry with its base read from the issuing context and evaluated as a signed number (R179), which R229 reads as
unsigned when it computes an interval (log 83). -/
def rangeOf (c : Ctx) (e : Nat) : Range :=
  { len := bits e 52 12
    coef := [toInt 10 (bits e 12 10), toInt 10 (bits e 22 10), toInt 10 (bits e 32 10), toInt 10 (bits e 42 10)]
    sh := bits e 6 5, base := (c.x (BitVec.ofNat 6 (bits e 0 6))).toInt }

/-- The record as the walker holds it (R179). -/
def recordOf (c : Ctx) (w : Nat) : ForkRec :=
  { body := BitVec.ofNat 64 (recLong w 0), per := recPer w, order := recOrder w, width := recWidth w
    levels := (List.range (recNlev w)).map (fun l => levelOf c (recWord w (16 + 4 * l)))
    lives := (List.range (recNlive w)).map (fun n => liveOf (recWord w (32 + 4 * n)))
    reads := (List.range (recNrd w)).map (fun m => rangeOf c (recLong w (64 + 8 * m)))
    writes := (List.range (recNwr w)).map (fun m => rangeOf c (recLong w (96 + 8 * m)))
    raw := w }

/-! ## The state a chunk starts with (R180) -/

/-- The chunks of a region of `total` iterations. -/
def ForkRec.chunks (r : ForkRec) (total : Nat) : Nat := (total + r.per - 1) / r.per

/-- A live-in register of a context := `x`. -/
def Ctx.setLive (c : Ctx) (l : LiveIn) (x : BitVec 4096) : Ctx :=
  if l.vec then { c with v := Bank.set 0 c.v l.reg x } else c.setX (BitVec.ofNat 6 l.reg) (x.setWidth 64)

/-- A live-in register's value. -/
def Ctx.live (c : Ctx) (l : LiveIn) : BitVec 4096 :=
  if l.vec then c.vr (BitVec.ofNat 5 l.reg) else (c.x (BitVec.ofNat 6 l.reg)).setWidth 4096

/-- The live-ins with their numbers. -/
def ForkRec.liveList (r : ForkRec) : List (Nat × LiveIn) := (List.range r.lives.length).zip r.lives

/-- The value of live-in `n` at the start of chunk `q` (Table 9.6), given the forwarded value and the prediction. -/
def liveStart (snap : Ctx) (ix : List Int) (q : Nat) (l : LiveIn) (fwd : Option (BitVec 4096)) (predicted : Word) :
    BitVec 4096 :=
  match l.mode with
  | .index => (BitVec.ofInt 64 (ix.getD l.level 0)).setWidth 4096
  | .copy => snap.live l
  | .forward => if q = 0 then snap.live l else fwd.getD (snap.live l)
  | .stride => if q = 0 then snap.live l else fwd.getD (predicted.setWidth 4096)

/-- VDIRTY of a chunk at its start: its vector live-ins (R320). -/
def ForkRec.dirty (r : ForkRec) : BitVec 32 :=
  r.lives.foldl (fun d l => if l.vec then d ||| BitVec.twoPow 32 l.reg else d) 0

/-- The context in which chunk `q` of a region of `total` iterations starts (R180). -/
def startCtx (snap : Ctx) (r : ForkRec) (total q : Nat) (fwd : Bank (BitVec 4096)) (predicted : Bank Word) : Ctx :=
  let ix := r.index (chunkFirst r.per q)
  let c : Ctx := { pc := r.body, s := snap.s, k := snap.k, rndm := snap.rndm, pixSel := snap.pixSel,
                   seed := chunkSeed snap.seed q, vdirty := r.dirty }
  let c := (List.range 4).foldl (fun c l => c.setX (BitVec.ofNat 6 (8 + l)) (BitVec.ofInt 64 (ix.getD l 0))) c
  let c := (c.setX 12 (BitVec.ofNat 64 (chunkLen total r.per q))).setX 13 (BitVec.ofNat 64 q)
  r.liveList.foldl (fun c p =>
    c.setLive p.2 (liveStart snap ix q p.2 (Bank.find fwd p.1) (Bank.get 0 predicted p.1))) c

/-! ## fork, forka (R181) -/

/-- The 128 bytes at X(rs1), read as one snapshot on the LSU path. -/
def readRecord (ea : Word) : M Nat := do
  if ea.toNat % 128 ≠ 0 then raise .misalignedAccess ea
  match ← target .load ea with
  | .hbm pa => loadBlock (.hbm pa) 128 ea
  | .own w off =>
    if windowLim w < off + 128 then raise .awRange ea
    loadBlock (.own w off) 128 ea
  | _ => raise .accessTarget ea

/-- Live-ins, with their numbers, that the running chunk of core `n` still lacks (R208, R228). -/
def State.awaited (s : State) (n : Nat) : List (Nat × LiveIn) :=
  match s.chunkOn n, (s.ring (ringOf n)).region with
  | some c, some r =>
    if c.q = 0 then []
    else
      let got := Bank.get [] r.forwarded c.q
      r.frec.liveList.filter (fun p =>
        (decide (p.2.mode = .forward) || (decide (p.2.mode = .stride) && r.assured)) && (Bank.find got p.1).isNone)
  | _, _ => []

/-- An instruction waits for the live-ins numbered `l`, which have not arrived: the chunk is in state WAITING_LIVE_IN
(R208, Table 10.3). -/
def stallForLiveIn {α : Type} (l : List Nat) : M α := do
  modState (fun s => s.mapMyChunk (fun c => { c with st := .waitingLiveIn, awaits := l }))
  stall

/-- fork and forka. A `fork` inside a chunk reads every register that its snapshot holds, so it waits for the chunk's
live-ins (R204, R208). On a Curator core, which has no ring, and in a ring thread's trap code while its parallel region
is open, it raises fork-state, which R181 does not say. DESIGN CHOICE (log 87). -/
def doFork (assured : Bool) (rs1 : SReg) : M Unit := do
  loopHazard
  let ea ← readX rs1
  let w ← readRecord ea
  if !recordOk w then raise .forkConfiguration ea
  let s ← getState
  if s.curH then raiseHere .forkState
  if s.me.seq.isSome then raiseHere .forkState
  if s.chunk.isSome && !(s.awaited s.cur).isEmpty then stallForLiveIn ((s.awaited s.cur).map (·.1))
  let c := s.ctx
  let frec := recordOf c w
  let total := totalOf frec.levels
  let joinPc := c.pc + 4
  if s.chunk.isSome then
    let sq : SeqRegion := { frec := frec, total := total, joinPc := joinPc, snap := c.fresh, complete := decide (total = 0) }
    if total = 0 then
      modCore (fun k => { k with seq := some sq })
      retire 4
    else
      modCore (fun k => { k with seq := some sq, main := startCtx c.fresh frec total 0 [] [] })
  else
    if !isRingCore s.cur ∨ s.region.isSome then raiseHere .forkState
    let r : Region := { frec := frec, total := total, assured := assured, home := s.cur, snap := c.fresh,
                        snapLts := s.me.lts, joinPc := joinPc, e := s.me.lts }
    modState (fun s => s.mapRing (ringOf s.cur) (fun g => { g with region := some r }))
    retire 4

/-- fork (R181). -/
def execFork (rs1 : SReg) (s : State) : Host.Outcome State Fault Refusal := finish (doFork false rs1) s
/-- forka (R181, R183). -/
def execForka (rs1 : SReg) (s : State) : Host.Outcome State Fault Refusal := finish (doFork true rs1) s

/-! ## join (R184) -/

/-- What `join` gives the context: the last chunk's registers, s8–s13 of the fork, and the folded flags. -/
def joined (own snap final : Ctx) (fflags : BitVec 6) (vdirty : BitVec 32) : Ctx :=
  let c : Ctx := { own with s := final.s, k := final.k, v := final.v, p := final.p, prog := final.prog, done := final.done,
                            vl := final.vl, vill := final.vill, ew := final.ew, seed := final.seed, rndm := final.rndm,
                            pixSel := final.pixSel }
  let c := (List.range 6).foldl (fun c i => c.setX (BitVec.ofNat 6 (8 + i)) (snap.x (BitVec.ofNat 6 (8 + i)))) c
  { c with fflags := own.fflags ||| fflags, vdirty := own.vdirty ||| vdirty }

/-- The region on a ring is complete: the Ensign has returned to the ring thread (R206). -/
def Region.complete (r : Region) : Bool := r.total == 0 || (r.chunks.isEmpty && r.ensignQ == r.count)

/-- The open region closes and its ring thread goes on (R184, R206). -/
def State.closeRegion (s : State) (ring : Nat) (r : Region) (own : Ctx) : State :=
  let c := match r.final with
    | some f => joined own r.snap f r.fflags r.vdirty
    | none => own
  (s.mapRing ring (fun g => { g with region := none })).mapCore r.home (fun k =>
    { k.acquire with main := ({ c with wait := none }).fresh.retire 4, lts := Nat.max k.lts r.e })

/-- join (R184). -/
def execJoin (s : State) : Host.Outcome State Fault Refusal :=
  finish (do
    loopHazard
    let s ← getState
    if s.curH then raiseHere .forkState
    match s.me.seq with
    | some sq =>
      if sq.joinPc ≠ s.ctx.pc ∨ !sq.complete then raiseHere .forkState
      let own := s.ctx
      -- the context that ends the last chunk holds its final registers
      let c := if sq.total = 0 then own
        else joined { own with loops := sq.snap.loops, fflags := sq.snap.fflags, vdirty := sq.snap.vdirty,
                               vstart := sq.snap.vstart, shadow := sq.snap.shadow } sq.snap own sq.fflags sq.vdirty
      modCore (fun k => { k with seq := none, main := c.fresh.retire 4 })
    | none =>
      if s.chunk.isSome then raiseHere .forkState
      match s.region with
      | none => raiseHere .forkState
      | some r =>
        if r.home ≠ s.cur ∨ r.joinPc ≠ s.ctx.pc then raiseHere .forkState
        if r.complete then modState (fun s => s.closeRegion (ringOf s.cur) r s.ctx)
        else modState (fun s =>
          (s.mapRegion (ringOf s.cur) (fun r => { r with parked := some s.ctx.fresh })).mapCtx (fun c =>
            { c with wait := some .join }))) s

/-- JOIN_COMPLETE (R184): the last commit has returned the Ensign. -/
def execJoinComplete (ring : Nat) (s : State) : Host.Outcome State Fault Refusal :=
  match (s.ring ring).region with
  | some r =>
    match r.parked with
    | some own => if r.complete ∧ (s.core r.home).awake then .next (s.closeRegion ring r own) else .next s
    | none => .next s
  | none => .next s

/-! ## cend, fwd, nspec (R185–R187) -/

/-- Live-ins that pass from chunk to chunk. -/
def LiveIn.passes (l : LiveIn) : Bool :=
  match l.mode with
  | .forward => true
  | .stride => true
  | _ => false

/-- Chunk `q`'s live-in `n` leaves for chunk q + 1 (R208). -/
def State.forward (s : State) (ring : Nat) (r : Region) (q n : Nat) (x : BitVec 4096) : State :=
  let s := s.mapChunk ring q (fun c => { c with sent := c.sent ++ [n] })
  if q + 1 < r.count then s.post (.liveInArrival ring (q + 1) n x) else s

/-- The end of a chunk of a sequential region (R185). -/
def seqEnd (sq : SeqRegion) : M Unit := do
  let c ← getCtx
  let fwd := sq.frec.liveList.foldl (fun (b : Bank (BitVec 4096)) p =>
    if p.2.passes && (Bank.find b p.1).isNone then Bank.put b p.1 (c.live p.2) else b) sq.sent
  let sq := { sq with fflags := sq.fflags ||| c.fflags, vdirty := sq.vdirty ||| c.vdirty, sent := [] }
  if sq.q + 1 < sq.frec.chunks sq.total then
    modCore (fun k => { k with seq := some { sq with q := sq.q + 1 },
                               main := startCtx sq.snap sq.frec sq.total (sq.q + 1) fwd [] })
  else
    -- the issuer's loop stack is live again at its `join` (R91)
    modCore (fun k => { k with seq := some { sq with complete := true },
                               main := { k.main.fresh with pc := sq.joinPc, loops := sq.snap.loops } })

/-- cend (R185). -/
def doCend : M Unit := do
  loopHazard
  let s ← getState
  if s.curH then raiseHere .forkState
  match s.me.seq with
  | some sq => if sq.complete then raiseHere .forkState else seqEnd sq
  | none =>
    match s.chunk, s.region with
    | some c, some r =>
      let ring := ringOf s.cur
      let x := s.ctx
      modState (fun s => r.frec.liveList.foldl (fun s p =>
        if p.2.passes && !c.sent.contains p.1 then s.forward ring r c.q p.1 (x.live p.2) else s) s)
      if !r.assured && copiesOf s.me c.q then stall
      modState (fun s => s.mapChunk ring c.q (fun c =>
        { c with pastCend := true, final := some x.fresh, onCore := false, st := .waitingEnsign }))
    | _, _ => raiseHere .forkState

/-- cend (R185). -/
def execCend (s : State) : Host.Outcome State Fault Refusal := finish doCend s
/-- c.cend (R185). -/
def execCCend (s : State) : Host.Outcome State Fault Refusal := finish doCend s

/-- fwd (R186). -/
def execFwd (n : BitVec 3) (s : State) : Host.Outcome State Fault Refusal :=
  finish (do
    let s ← getState
    if s.curH then raiseHere .forkState
    match s.me.seq with
    | some sq =>
      match sq.frec.lives[n.toNat]? with
      | some l =>
        if sq.complete ∨ !l.passes ∨ (Bank.find sq.sent n.toNat).isSome then raiseHere .forkState
        modCore (fun k => { k with seq := some { sq with sent := Bank.put sq.sent n.toNat (s.ctx.live l) } })
        retire 4
      | none => raiseHere .forkState
    | none =>
      match s.chunk, s.region with
      | some c, some r =>
        match r.frec.lives[n.toNat]? with
        | some l =>
          if !l.passes ∨ c.sent.contains n.toNat then raiseHere .forkState
          modState (fun t => t.forward (ringOf t.cur) r c.q n.toNat (s.ctx.live l))
          retire 4
        | none => raiseHere .forkState
      | _, _ => raiseHere .forkState) s

/-- nspec (R187). -/
def execNspec (s : State) : Host.Outcome State Fault Refusal := finish (do awaitEnsign; retire 4) s
/-- c.nspec (R187). -/
def execCNspec (s : State) : Host.Outcome State Fault Refusal := finish (do awaitEnsign; retire 2) s

/-! ## Placement and start (R205, R229, R233) -/

/-- The position of a chunk. -/
def Region.pos (r : Region) (q : Nat) : Nat := q % r.frec.width

/-- The walker may place chunks: the ring thread waits at its `join`, and the ring is not stopping (R204, R316). -/
def Ring.walking (g : Ring) (r : Region) : Bool := r.parked.isSome && g.stopFor.isNone

/-- Chunk `q` may be placed now (R205): fewer than F in flight, and its position runs no chunk. -/
def Region.mayPlace (r : Region) : Bool :=
  decide (r.next < r.count) && ((r.find r.next).isSome ||
    (decide (r.chunks.length < Nat.min 8 (2 * r.frec.width)) && r.chunks.all (fun c => r.pos c.q != r.pos r.next || c.pastCend)))

/-- The next chunk of a region is placed, unless a restore has brought it back (R322). -/
def Region.placeOne (r : Region) : Region :=
  { r with
    chunks := if (r.find r.next).isSome then r.chunks
      else r.chunks.takeWhile (fun c => decide (c.q < r.next)) ++ [{ q := r.next, spec := !r.assured }]
        ++ r.chunks.dropWhile (fun c => decide (c.q < r.next))
    next := r.next + 1 }

/-- Places `n` chunks. -/
def Region.placeN : Nat → Region → Region
  | 0, r => r
  | n + 1, r => Region.placeN n r.placeOne

/-- CHUNK_PLACEMENT (R205): all the chunks at once when C ≤ WIDTH. While a held cause of a `fork` region is handled,
nothing is placed (R226). -/
def execChunkPlacement (ring : Nat) (s : State) : Host.Outcome State Fault Refusal :=
  let g := s.ring ring
  match g.region with
  | some r =>
    if g.walking r && r.mayPlace && (r.assured || !r.youngerStopped) then
      .next (s.mapRegion ring (fun r => if r.count ≤ r.frec.width then r.placeN (r.count - r.next) else r.placeOne))
    else .next s
  | none => .next s

/-- A chunk of an assured region has passed `cend` with its accesses performed (R230). -/
def State.assuredDone (s : State) (ring : Nat) (r : Region) (c : Chunk) : Bool :=
  let n := r.coreOf ring c.q
  c.pastCend && s.mirrorsDone (dieOf n) && !copiesOf (s.core n) c.q

/-- Chunk `q` may start (R226, R229, Table 10.3). -/
def State.mayStart (s : State) (ring : Nat) (r : Region) (c : Chunk) : Bool :=
  decide (c.st = .placed) && (s.ring ring).walking r && !(s.core (r.coreOf ring c.q)).halted
    && (!r.youngerStopped || decide (c.q ≤ r.ensignQ))
    && r.chunks.all (fun d => r.pos d.q != r.pos c.q || (!d.onCore && !(decide (d.q < c.q) && !d.pastCend)))
    && (!r.assured || r.chunks.all (fun d =>
          !decide (d.q < c.q) || s.assuredDone ring r d || !r.frec.conflict r.total c.q d.q))

/-- The start value of a STRIDE live-in of chunk `q` of a `fork` region (Table 9.6): the value a chunk has started with,
the value forwarded to it, or its predecessor's start value and STRIDE times its predecessor's iteration count. -/
def Region.strideStart (r : Region) (n : Nat) (l : LiveIn) : Nat → Word
  | 0 => (r.snap.live l).setWidth 64
  | m + 1 =>
    let started := match r.find (m + 1) with
      | some d => Bank.find d.starts n
      | none => if m + 2 = r.oldest then Bank.find r.prevStarts n else none
    match started with
    | some v => v
    | none =>
      match Bank.find (Bank.get [] r.forwarded (m + 1)) n with
      | some x => x.setWidth 64
      | none => r.strideStart n l m + BitVec.ofInt 64 (l.stride * chunkLen r.total r.frec.per m)

/-- Start values of the STRIDE live-ins of chunk `q`. -/
def Region.predict (r : Region) (q : Nat) : Bank Word :=
  r.frec.liveList.foldl (fun (b : Bank Word) p =>
    if p.2.mode = .stride then Bank.put b p.1 (r.strideStart p.1 p.2 q) else b) []

/-- CHUNK_START (R180, R233): the core's logical time becomes at least the ring thread's at the fork (R204). -/
def execChunkStart (ring q : Nat) (s : State) : Host.Outcome State Fault Refusal :=
  match (s.ring ring).region with
  | some r =>
    match r.find q with
    | some c =>
      if s.mayStart ring r c then
        let predicted := r.predict q
        let x := startCtx r.snap r.frec r.total q (Bank.get [] r.forwarded q) predicted
        let s := s.mapChunk ring q (fun c => { c with st := .running, onCore := true, starts := predicted })
        .next (s.mapCore (r.coreOf ring q) (fun k => { k.acquire with main := x, lts := Nat.max k.lts r.snapLts }))
      else .next s
    | none => .next s
  | none => .next s

/-! ## Live-ins (R208–R210) -/

/-- LIVE_IN_ARRIVAL: the position keeps the value; a running chunk takes it, or finds its prediction refuted. The
holder of the Ensign is not squashed (R234): a value forwarded to it has reached it before the Ensign. -/
def execLiveInArrival (ring q n : Nat) (value : BitVec 4096) (s : State) : Host.Outcome State Fault Refusal :=
  let i : Instr := .liveInArrival ring q n value
  if !s.mayDeliver ring i then .next s else
  let s := s.take i
  match (s.ring ring).region with
  | some r =>
    let s := s.mapRegion ring (fun r =>
      { r with forwarded := Bank.put r.forwarded q (Bank.put (Bank.get [] r.forwarded q) n value) })
    match r.find q, r.frec.lives[n]? with
    | some c, some l =>
      if c.st = .placed ∨ c.st = .squashed then .next s
      else if l.mode = .stride ∧ !r.assured then
        if Bank.get 0 c.starts n = value.setWidth 64 ∨ r.ensignQ = q then .next s else .next (s.squashFrom ring q)
      else if c.onCore then
        let s := s.mapChunk ring q (fun c =>
          if c.st = .waitingLiveIn ∧ n ∈ c.awaits then { c with st := .running, awaits := [] } else c)
        .next (s.mapCore (r.coreOf ring q) (fun k => { k with main := k.main.setLive l value }))
      else .next s
    | _, _ => .next s
  | none => .next s

/-! ## Probes and broadcasts (R212, R217, R218) -/

/-- VERSION_PROBE: the youngest older chunk with a version answers. -/
def execVersionProbe (ring asker : Nat) (line : LineId) (s : State) : Host.Outcome State Fault Refusal :=
  let i : Instr := .versionProbe ring asker line
  if !s.mayDeliver ring i then .next s else
  let s := s.take i
  match (s.ring ring).region with
  | some r =>
    let found := (r.chunks.filter (fun c => decide (c.q < asker))).reverse.findSome? (fun c =>
      (c.versions.find? (fun v => decide (v.line = line))).map (fun v => (c.q, v)))
    let a : ProbeReply := match found with
      | some (q, v) => .version q v.count v.data v.poison
      | none => .none
    .next (s.post (.probeAnswer ring asker line a))
  | none => .next s

/-- PROBE_ANSWER. -/
def execProbeAnswer (ring asker : Nat) (line : LineId) (answer : ProbeReply) (s : State) :
    Host.Outcome State Fault Refusal :=
  let i : Instr := .probeAnswer ring asker line answer
  if !s.mayDeliver ring i then .next s
  else .next ((s.take i).mapChunk ring asker (fun c =>
    if c.probing = some line then { c with probe := c.probe ++ [(line, answer)], probing := none } else c))

/-- A line lies in a range register of a chunk (R215). -/
def Chunk.inRange (c : Chunk) (l : LineId) : Bool :=
  c.ranges.any (fun r => r.any (fun g => decide (lineKey g.1 ≤ lineKey l) && decide (lineKey l ≤ lineKey g.2)))

/-- A broadcast of chunk `o` with count `n` violates a read of `c` (R218). -/
def Chunk.violated (c : Chunk) (o : Nat) (l : LineId) (n : Nat) : Bool :=
  c.inRange l || c.reads.any (fun r => decide (r.line = l) &&
    match r.src with
    | .committed _ _ => true
    | .chunk q k => decide (q < o) || (q == o && decide (k < n)))

/-- A probe of `asker` for a line, or its answer, on its way. -/
def probeOf (ring asker : Nat) (line : LineId) : Instr → Bool
  | .versionProbe g a l => g == ring && a == asker && l == line
  | .probeAnswer g a l _ => g == ring && a == asker && l == line
  | _ => false

/-- STORE_BROADCAST: the reader's position drops its copy and checks the reader; it then acknowledges. -/
def execStoreBroadcast (ring storer reader : Nat) (line : LineId) (count : Nat) (s : State) :
    Host.Outcome State Fault Refusal :=
  let i : Instr := .storeBroadcast ring storer reader line count
  if !s.mayDeliver ring i then .next s else
  let s := s.take i
  match (s.ring ring).region with
  | some r =>
    let s := match line with
      | .hbm l => s.mapCore (r.coreOf ring reader) (fun k => { k with l1 := Bank.erase k.l1 l })
      | .scratch _ _ => s
    let s := s.post (.broadcastAcknowledgement ring reader storer)
    match r.find reader with
    | some c =>
      if c.st ≠ .squashed ∧ c.spec ∧ c.violated storer line count then .next (s.squashFrom ring reader)
      else
        -- a probe of the line that is still on its way is void with the copy: the reader probes again
        let s := { s with flight := s.flight.filter (fun i => !probeOf ring reader line i) }
        .next (s.mapChunk ring reader (fun c =>
        { c with probe := c.probe.filter (fun p => decide (p.1 ≠ line))
                 probing := if c.probing = some line then none else c.probing }))
    | none => .next s
  | none => .next s

/-- BROADCAST_ACKNOWLEDGEMENT (R217). -/
def execBroadcastAcknowledgement (ring acker storer : Nat) (s : State) : Host.Outcome State Fault Refusal :=
  let i : Instr := .broadcastAcknowledgement ring acker storer
  if !s.mayDeliver ring i then .next s
  else .next ((s.take i).mapChunk ring storer (fun c => { c with owed := c.owed.erase acker }))

/-! ## Squashes (R219) -/

/-- SQUASH_NOTICE. -/
def execSquashNotice (ring oldest q : Nat) (s : State) : Host.Outcome State Fault Refusal :=
  let i : Instr := .squashNotice ring oldest q
  if !s.mayDeliver ring i then .next s else .next ((s.take i).discardChunk ring q)

/-- SQCNT := SQCNT + n, saturating (R20). -/
def Ring.countSquashed (g : Ring) (n : Nat) : Ring :=
  { g with sqcnt := BitVec.ofNat 32 (Nat.min 0xFFFFFFFF (g.sqcnt.toNat + n)) }

/-- SQUASH_DISCARDED: SQCNT rises and the squashed chunks are placed again on their positions. -/
def execSquashDiscarded (ring : Nat) (s : State) : Host.Outcome State Fault Refusal :=
  match (s.ring ring).region with
  | some r =>
    let n := (r.chunks.filter (fun c => decide (c.st = .squashed))).length
    if s.allDiscarded ring ∧ 0 < n then
      let s := s.mapRing ring (fun g => g.countSquashed n)
      .next (s.mapRegion ring (fun r =>
        { r with chunks := r.chunks.map (fun c => if c.st = .squashed then { c with st := .placed } else c) }))
    else .next s
  | none => .next s

/-! ## Commits and the Ensign (R206, R221, R230) -/

/-- Chunk `q` ends: its flags are folded, and the Ensign passes with time `e`. -/
def State.passEnsign (s : State) (ring q e : Nat) : State :=
  let s := s.mapRegion ring (fun r =>
    match r.find q with
    | none => r
    | some c =>
      let f := c.final.getD {}
      { r with chunks := r.chunks.filter (fun d => d.q != q), oldest := q + 1, prevStarts := c.starts, fflags := r.fflags ||| f.fflags,
               vdirty := r.vdirty ||| f.vdirty, final := if q + 1 = r.count then c.final else r.final,
               forwarded := Bank.erase r.forwarded q })
  s.post (.ensignArrival ring (q + 1) e)

/-- COMMIT_COMPLETE: the commit of a chunk at `cend` that holds the Ensign goes as far as it can; once it is complete the
Ensign passes (R221, R230). -/
def execCommitComplete (ring q : Nat) (s : State) : Host.Outcome State Fault Refusal :=
  match (s.ring ring).region with
  | some r =>
    match r.find q with
    | some c =>
      if !c.pastCend ∨ r.ensignQ ≠ q ∨ c.st = .squashed then .next s
      else if r.assured then
        if s.assuredDone ring r c then .next (s.passEnsign ring q (Nat.max r.e (s.core (r.coreOf ring q)).lts)) else .next s
      else
        match commitTry s ring q with
        | .wait s _ => .next (s.mapChunk ring q (fun c => { c with st := .committing }))
        | .failed s => .next (s.failCommit ring q)
        | .done s ts => .next ((s.closeCommit ring q ts).passEnsign ring q ts)
    | none => .next s
  | none => .next s

/-- ENSIGN_ARRIVAL (R206): behind the live-ins of the chunk it comes from (R207). -/
def execEnsignArrival (ring q time : Nat) (s : State) : Host.Outcome State Fault Refusal :=
  let i : Instr := .ensignArrival ring q time
  if !s.mayDeliver ring i then .next s
  else .next ((s.take i).mapRegion ring (fun r => { r with ensignQ := q, e := time }))

/-- The state of chunk `q` of a region (Table 10.3); none before its placement. -/
def Region.stateOf (r : Region) (q : Nat) : Option ChunkState :=
  if q < r.oldest then some .committed else (r.find q).map (·.st)

/-- The region of a ring is abandoned: its chunks are discarded, and completed commits stand (R181, R226). -/
def State.abandon (s : State) (ring : Nat) : State :=
  match (s.ring ring).region with
  | none => s
  | some r =>
    let s := r.chunks.foldl (fun s c => s.discardChunk ring c.q) s
    let n := (r.chunks.filter (fun c => c.spec)).length
    (s.unlock ring).mapRing ring (fun g => { (g.countSquashed n) with region := none })

end Sys2Proof.Machine
end

