-- ==== Sys2Proof/Machine/Contexts.lean ====
section
/-! DEFINITION. Stopping a ring, its save area, its restore and the end of its launch (R315–R322, R226, R227). -/

namespace Sys2Proof.Machine
open Sys2Proof

/-! ## The stop (R316) -/

/-- Every core of a ring updated. -/
def State.mapRingCores (s : State) (ring : Nat) (f : Core → Core) : State :=
  (coresOf ring).foldl (fun s n => s.mapCore n f) s

/-- A stop is asked for: STOPREQ, no more placement, and every chunk younger than the Ensign's holder is squashed. -/
def State.beginStop (s : State) (ring : Nat) (why : StopFor) : State :=
  if (s.ring ring).stopFor.isSome then s
  else
    let s := s.mapRing ring (fun g => { g with stopFor := some why, timedOut := false })
    let s := s.mapRingCores ring (fun c => { c with stopReq := true })
    match (s.ring ring).region with
    | some r => if !r.assured && r.chunks.any (fun c => decide (r.oldest < c.q)) then s.squashFrom ring (r.oldest + 1) else s
    | none => s

/-- A step of the ring's region is on its way: the Halyard drains before the ring stops (R207, R227, R235). -/
def ofRegion (ring : Nat) : Instr → Bool
  | .ensignArrival g _ _ => g == ring
  | .liveInArrival g _ _ _ => g == ring
  | .squashNotice g _ _ => g == ring
  | .versionProbe g _ _ => g == ring
  | .probeAnswer g _ _ _ => g == ring
  | .storeBroadcast g _ _ _ _ => g == ring
  | .broadcastAcknowledgement g _ _ => g == ring
  | _ => false

/-- The region of a ring at a stop: whether its chunks have reached their points, and whether this attempt moved the
Ensign's holder on. -/
def State.regionStop (s : State) (ring : Nat) : State × Bool × Bool :=
  match (s.ring ring).region with
  | none => (s, true, false)
  | some r =>
    if s.flight.any (ofRegion ring) || r.chunks.any (fun c => decide (c.st = .squashed)) then (s, false, false)
    else if r.assured then (s, true, false)
    else match r.find r.oldest with
      | none => (s, true, false)
      | some c =>
        if c.st = .placed then (s, true, false)
        else if c.pastCend then (s, false, false)
        else if !c.spec then (s, c.held.isNone, false)
        else if c.held.isSome || copiesOf (s.core (r.coreOf ring c.q)) c.q then (s, false, false)
        else match commitTry s ring c.q with
          | .wait s m => (s, false, m)
          | .failed s => (s.failCommit ring c.q, false, true)
          | .done s ts => (s.closeStep ring c.q ts, false, true)

/-- A wait that a stop does not interrupt (Table 18.6). -/
def Wait.mustEnd : Wait → Bool
  | .farReply _ => true
  | .remoteLoad _ _ _ _ _ => true
  | .frz _ _ => true
  | _ => false

/-- What a context keeps of its wait: a pending barrier, and the ring thread's `join`. -/
def Wait.kept : Wait → Bool
  | .ybar _ _ => true
  | .join => true
  | _ => false

/-- A core's contexts and copies have reached their points (Table 18.6). A context at S has, once it is halted (R200). A
fenced core does not move (R375). -/
def Core.atStop (c : Core) : Bool :=
  c.fenced ||
    (c.run.isNone && c.chans.all (fun e => e.2.transfers.all (fun t => t.peers.isEmpty && t.combining == 0))
      && (c.halted || ((!c.prv || decide (c.main.wait = some .halt)) && (match c.main.wait with | some w => !w.mustEnd | none => true))))

/-- A stopped core: interrupted instructions will execute again. -/
def Core.stop (c : Core) : Core :=
  { c with stopReq := false, stopped := true
           main := { c.main.fresh with wait := match c.main.wait with | some w => if w.kept then some w else none | none => none } }

/-- A stop takes effect on a ring (R316, R317, R240). -/
def State.finishStop (s : State) (ring asid : Nat) : State :=
  let s := (coresOf ring).foldl (fun s n => (s.mapCore n Core.stop).queueToOverflow n asid) s
  (s.mapRing ring (fun g => { g with stopped := true })).notify (ring / 8)

/-- One attempt at completing a stop: the state, whether it is complete, and whether anything has moved. -/
def State.stopTry (s : State) (ring : Nat) : State × Bool × Bool :=
  if (s.ring ring).stopped then (s, true, false)
  else
    let (s, ok, moved) := s.regionStop ring
    if ok && (coresOf ring).all (fun n => (s.core n).atStop) then
      (s.finishStop ring (match (s.ring ring).running with | some l => l.asid | none => 0), true, true)
    else (s, false, moved)

/-! ## The traffic of a launch (R293) -/

/-- What a core's traffic carries: the ring that issued it, and whether the launch that did so runs no more. -/
def ownTraffic (ring src : Nat) (left : Option Nat) (was : Option Nat) : Bool := ringOf src == ring && left == was

/-- A step on its way whose traffic a ring's cores issued, marked `was`, is marked `now`. -/
def markStep (ring : Nat) (was now : Option Nat) (i : Instr) : Instr :=
  let own (src : Nat) (left : Option Nat) : Bool := ownTraffic ring src left was
  match i with
  | .syncWordCount w a o n => if own w.src w.left then .syncWordCount { w with left := now } a o n else i
  | .combineContribution c => if own c.core c.left then .combineContribution { c with left := now } else i
  | .messageArrival m => if own m.src m.left && !m.host && m.peer.isNone then .messageArrival { m with left := now } else i
  | .mailboxMessage m => if own m.src m.left then .mailboxMessage { m with left := now } else i
  | .launchMessage m => if own m.src m.left && !m.host && m.peer.isNone then .launchMessage { m with left := now } else i
  | .farAtomicStep r => if own r.src r.left && r.peer.isNone then .farAtomicStep { r with left := now } else i
  | .remoteStorePacket p => if own p.src p.left then .remoteStorePacket { p with left := now } else i
  | .mmrotPacket p => if own p.src p.left then .mmrotPacket { p with left := now } else i
  | _ => i

/-- A held item likewise. -/
def markHeld (ring : Nat) (was now : Option Nat) (h : Held) : Held :=
  let own (src : Nat) (left : Option Nat) : Bool := ownTraffic ring src left was
  match h with
  | .msg _ => h
  | .far r => if own r.src r.left && r.peer.isNone then .far { r with left := now } else h
  | .packet p => if own p.src p.left then .packet { p with left := now } else h
  | .count w a o n => if own w.src w.left then .count { w with left := now } a o n else h

/-- All traffic of a ring that is marked `was`, on its way or held, is marked `now` (R293). -/
def State.markTraffic (s : State) (ring : Nat) (was now : Option Nat) : State :=
  let held (l : List Held) : List Held := l.map (markHeld ring was now)
  { s with
    flight := s.flight.map (markStep ring was now)
    cores := s.cores.map (fun e =>
      (e.1, { e.2 with queue := held e.2.queue, overflow := e.2.overflow.map (fun a => (a.1, held a.2)) })) }

/-- A request to a peer package was issued by a ring's cores. -/
def askedBy (ring : Nat) : PeerAsk → Bool
  | .context n _ => ringOf n == ring
  | .far r => ringOf r.src == ring && r.peer.isNone
  | .copy n _ _ => ringOf n == ring

/-- Requests to peer packages, not yet answered, that the ring's running launch has issued. -/
def State.peerAsked (s : State) (ring : Nat) : List Nat :=
  (s.peerOut.filter (fun e => askedBy ring e.2.2.2 && !(s.ring ring).peerLeft.contains e.1)).map (·.1)

/-- A ring's running launch runs no more, and its traffic is marked `k` (R293). -/
def State.leaveTraffic (s : State) (ring k : Nat) : State :=
  let ids := s.peerAsked ring
  (s.markTraffic ring none (some k)).mapRing ring (fun g => { g with peerLeft := g.peerLeft ++ ids })

/-! ## The end of a launch (R318, R293, R365) -/

/-- A core on which no launch runs. -/
def Core.idle (n : Nat) (c : Core) : Core :=
  { c with main := (Core.reset n).main, hnd := (Core.reset n).hnd, run := none, seq := none, prv := false, pprv := false
           trapBank := [], trapLoops := [], stopReq := false, stopped := false
           chans := c.chans.map (fun e => (e.1, ({ e.2 with transfers := [], completed := e.2.completed ++ e.2.transfers.map (·.tid) } : Channel).settle)) }

/-- Steps of a ring's region or copies that its abandoned launch leaves on their way are void. -/
def voidOf (ring : Nat) : Instr → Bool
  | .liveInArrival g _ _ _ => g == ring
  | .versionProbe g _ _ => g == ring
  | .probeAnswer g _ _ _ => g == ring
  | .storeBroadcast g _ _ _ _ => g == ring
  | .broadcastAcknowledgement g _ _ => g == ring
  | .squashNotice g _ _ => g == ring
  | .ensignArrival g _ _ => g == ring
  | .copyFault n _ _ _ => n / 8 == ring && decide (n < 768)
  | _ => false

/-- The ring becomes free of its launch: the region is abandoned, transfers are cancelled, queues go to overflow, and the
rest of its state is discarded. Completed commits stand. -/
def State.discardLaunch (s : State) (ring asid : Nat) : State :=
  let s := (s.abandon ring).leaveTraffic ring 0
  let s := { s with flight := s.flight.filter (fun i => !voidOf ring i), pins := s.pins.filter (fun p => p.2 / 8 != ring || decide (768 ≤ p.2)) }
  let s := (coresOf ring).foldl (fun s n => (s.queueToOverflow n asid).mapCore n (Core.idle n)) s
  (s.mapRing ring (fun g => { g with running := none, stopFor := none, stopped := false, timedOut := false })).notify (ring / 8)

/-- ABTCNT + 1, saturating (R293). -/
def Ring.countEnded (g : Ring) : Ring := { g with abtcnt := if g.abtcnt = 0xFF then g.abtcnt else g.abtcnt + 1 }

/-- The core of a ring whose trap ended the launch: the first at S. -/
def State.trapped (s : State) (ring : Nat) : Core :=
  s.core (((coresOf ring).find? (fun n => (s.core n).prv)).getD (ring * 8))

/-- A launch record of a die's ring. -/
def launchOf (die : Nat) : LogRecord → Bool
  | .launch ring _ _ _ _ _ => ring / 8 == die
  | _ => false

/-- The launch log with a die's newest 1,024 records (R381): the oldest leaves when there is one more. -/
def keepLaunches (die : Nat) (l : List LogRecord) : List LogRecord :=
  if 1024 < (l.filter (launchOf die)).length then l.eraseP (launchOf die) else l

/-- A launch of a ring is ended or removed: counted and logged (R293, R365); `reason` tells why. -/
def State.logEnd (s : State) (ring asid reason : Nat) : State :=
  let c := s.trapped ring
  ({ s with logLaunch := keepLaunches (ring / 8) (s.logLaunch ++ [LogRecord.launch ring asid c.causeCode c.epc c.tval reason]) }.mapRing ring Ring.countEnded).notify (ring / 8)

/-- ABORT of a ring whose stop is complete, or that is no longer waited for (R318, R298). -/
def State.endRunning (s : State) (ring reason : Nat) : State :=
  match (s.ring ring).running with
  | some l => (s.logEnd ring l.asid reason).discardLaunch ring l.asid
  | none => s.discardLaunch ring 0

/-! ## Holding a launch and bringing it back (R297, R319–R322) -/

/-- A paused transfer: it translates again when it continues (R322). -/
def Transfer.pause (t : Transfer) : Transfer := { t with srcPage := none, dstPage := none, fetch := none }

/-- Registers that a restore brings back (R320, R321): a vector register whose VDIRTY bit is clear is zero, and every one
takes D = 1 and P = VL. -/
def Ctx.restored (c : Ctx) : Ctx :=
  { c with v := (List.range 32).foldl (fun b n => if c.vdirty.getLsbD n then Bank.set 0 b n (c.vr (BitVec.ofNat 5 n)) else b) []
           done := 0xFFFFFFFF
           prog := (List.range 32).foldl (fun b n => Bank.set 0 b n c.vl.toNat) [] }

/-- The scratchpad bytes below an extent in 64 KiB units (R304). -/
def belowKey {α : Type} (limit : Nat) (b : Bank α) : Bank α := b.filter (fun e => decide (e.1 < limit))

/-- A core as a save keeps it. -/
def Core.saved (c : Core) (spxt : Nat) : Core :=
  { (c.mapChans (fun k => { k with transfers := k.transfers.map Transfer.pause })) with
    main := c.main.restored, scratch := belowKey (spxt * 65536) c.scratch, scratchPoison := belowKey (spxt * 4096) c.scratchPoison }

/-- A region as a save keeps it: chunks that have not started are placed again, from the lowest of them (R322). -/
def Region.saved (r : Region) : Region :=
  let waits := r.chunks.filter (fun c => decide (c.st = .placed))
  { r with chunks := (r.chunks.filter (fun c => decide (c.st ≠ .placed))).map (fun c => { c with final := c.final.map Ctx.restored })
           next := waits.foldl (fun m c => Nat.min m c.q) r.next }

/-- The extent of an address space (R304). -/
def State.spxt (s : State) (asid : Nat) : Nat := (Bank.get {} s.spaces asid).spxt

/-- What a stopped ring holds (R319). -/
def State.captureRing (s : State) (ring : Nat) (l : Launch) (spxt : Nat) : SavedRing :=
  { launch := l, cores := (coresOf ring).map (fun n => (s.core n).saved spxt)
    region := (s.ring ring).region.map Region.saved, sqcnt := (s.ring ring).sqcnt
    number := (s.ring ring).holds + 1, asked := s.peerAsked ring }

/-- The launch of a stopped ring is held in its slot, and the ring is free (R297, R319). -/
def State.holdRing (s : State) (ring : Nat) (v : SavedRing) : State :=
  let s := (coresOf ring).foldl (fun s n => s.mapCore n (Core.idle n)) (s.leaveTraffic ring v.number)
  (s.mapRing ring (fun g =>
    { g with running := none, region := none, saved := g.saved ++ [v], holds := v.number, stopFor := none, stopped := false })).notify (ring / 8)

/-- A core takes back what it held (R321); its logical time does not fall. A context that was halted at S is brought back
there, with its trap registers; Table 18.8 names no place for them. DESIGN CHOICE (log 74). -/
def Core.takeBack (c k : Core) : Core :=
  { c with main := k.main, seq := k.seq, active := k.active, shadowPlane := k.shadowPlane, mcfg := k.mcfg
           classes := k.classes, chans := k.chans, scratch := k.scratch, scratchPoison := k.scratchPoison
           lease := k.lease, chk := k.chk, lts := Nat.max c.lts k.lts, prv := k.prv, pprv := k.pprv
           trapBank := k.trapBank, trapLoops := k.trapLoops, epc := if k.prv then k.epc else c.epc
           tval := if k.prv then k.tval else c.tval, causeCode := if k.prv then k.causeCode else c.causeCode
           causeElem := if k.prv then k.causeElem else c.causeElem, causeHeld := if k.prv then k.causeHeld else c.causeHeld
           stopReq := false, stopped := false }

/-- A ring resumes a held launch with its SQCNT, what the launch sent is its own traffic again, and the overflow areas drain
(R321, R237, R293). -/
def State.resumeRing (s : State) (ring : Nat) (v : SavedRing) : State :=
  let s := s.markTraffic ring (some v.number) none
  let s := ((coresOf ring).zip v.cores).foldl (fun s p => s.mapCore p.1 (fun c => c.takeBack p.2)) s
  let s := s.mapRing ring (fun g => { g with running := some v.launch, region := v.region, stopFor := none, stopped := false,
                                             timedOut := false, lastAsid := some v.launch.asid, sqcnt := v.sqcnt
                                             peerLeft := g.peerLeft.filter (fun i => !v.asked.contains i) })
  (coresOf ring).foldl (fun s n => s.drainOverflow n v.launch.asid) s

/-! ## The save area (R319, R320) -/

/-- Bytes of a save area, and the distance between its core blocks. -/
def areaBytes : Nat := 0x510000
def blockBytes : Nat := 0xA0000

/-- The oldest chunk past `cend` of a core. -/
def Region.endedOn (r : Region) (ring n : Nat) : Option Chunk := r.chunks.find? (fun c => c.pastCend && r.coreOf ring c.q == n)

/-- What a core's block holds (Table 18.8): 0 nothing, 1 the ring thread, 2 a chunk that runs, 3 a chunk past `cend`. -/
def State.pstate (s : State) (ring p : Nat) : Nat :=
  let n := ring * 8 + p
  if (s.chunkOn n).isSome then 2
  else match (s.ring ring).region with
    | none => if p = 0 then 1 else 0
    | some r =>
      if r.home = n ∧ r.parked.isNone then 1
      else if (r.endedOn ring n).isSome then 3 else 0

/-- The context whose registers a core's block holds: a chunk past `cend` has left its context (R320). -/
def State.blockOf (s : State) (ring p : Nat) : Ctx :=
  let n := ring * 8 + p
  if s.pstate ring p = 3 then ((((s.ring ring).region.bind (fun r => r.endedOn ring n)).bind (·.final)).getD {}) else (s.core n).main

/-- d_i of R320, signed. -/
def wordDeltas (w : List Nat) : List Int := w.map (fun x => toInt 32 (x + (2 ^ 32 - w.headD 0)))

/-- The format byte and slot of a vector register (Table 18.9): the slot's bytes and their number. -/
def vectorImage (dirty : Bool) (x : BitVec 4096) : Nat × Nat × Nat :=
  let w := elems 32 128 x.toNat
  let d := wordDeltas w
  let fits (b : Int) : Bool := d.all (fun v => decide (-b ≤ v) && decide (v < b))
  if !dirty || x == 0 then (1, 0, 0)
  else if fits 128 then (2, 132, w.headD 0 + 2 ^ 32 * pack 8 (d.map (fun v => ofInt 8 v)))
  else if fits 32768 then (3, 260, w.headD 0 + 2 ^ 32 * pack 16 (d.map (fun v => ofInt 16 v)))
  else (4, 512, x.toNat)

/-- The register that a format byte and slot stand for (R320). -/
def vectorOf (fmt slot : Nat) : BitVec 4096 :=
  let first : Nat := slot % 2 ^ 32
  let rebuild (w : Nat) := BitVec.ofNat 4096 (pack 32 ((elems w 128 (slot / 2 ^ 32)).map (fun d => ofInt 32 ((first : Int) + toInt w d))))
  match fmt with
  | 2 => rebuild 8
  | 3 => rebuild 16
  | 4 => BitVec.ofNat 4096 slot
  | _ => 0

/-- One write of the engine: offset, bytes, value. -/
abbrev AreaWrite := Nat × Nat × Nat

/-- The registers `x` of a core block (Tables 18.8, 18.10). -/
def registerWrites (s : State) (n pstate : Nat) (x : Ctx) : List AreaWrite :=
  let c := s.core n
  let l (i : Nat) : LoopEntry := x.loops.getD i ⟨0, 0, 0⟩
  let wait : Nat × Nat := match x.wait with
    | some (.ybar y t) => (1 + y * 2 ^ 16, t.toNat)
    | _ => (0, 0)
  let q (o v : Nat) : AreaWrite := (o, 8, v)
  [(0, 512, pack 64 ((List.range 64).map (fun i => (x.x (BitVec.ofNat 6 i)).toNat))),
   q 0x200 (pstate + x.loops.length * 2 ^ 8 + x.k.toNat * 2 ^ 16), q 0x208 x.pc.toNat,
   q 0x210 (l 0).start.toNat, q 0x218 (l 0).stop.toNat, q 0x220 (l 0).count.toNat,
   q 0x228 (l 1).start.toNat, q 0x230 (l 1).stop.toNat, q 0x238 (l 1).count.toNat,
   q 0x240 x.vl.toNat, q 0x248 x.vtype.toNat, q 0x250 x.vstart.toNat, q 0x258 x.vdirty.toNat,
   q 0x260 (x.pixSel.toNat * 2 ^ 32), q 0x268 x.rndm.toNat, q 0x270 x.fflags.toNat, q 0x278 x.seed.toNat,
   q 0x280 (s.chunkWord n).toNat, q 0x288 c.lease.toNat, q 0x290 c.chkmode.toNat, q 0x298 (c.lts % 2 ^ 48),
   q 0x2A0 (bit c.pprv), (0x2A8, 24, 0), q 0x2C0 wait.1, q 0x2C8 wait.2]
  ++ (match c.seq with
    | some sq => [q 0x300 sq.joinPc.toNat,
        (0x308, 48, pack 64 ((List.range 6).map (fun i => (sq.snap.x (BitVec.ofNat 6 (8 + i))).toNat))),
        q 0x338 (2 ^ 63 + (sq.q + 1))]
    | none => [(0x300, 64, 0)])
  ++ [(0x1000, 2048, pack 1024 ((List.range 16).map (fun i => (x.pr (BitVec.ofNat 4 i)).toNat)))]
  ++ (List.range 32).flatMap (fun i =>
      let (f, k, v) := vectorImage (x.vdirty.getLsbD i) (x.vr (BitVec.ofNat 5 i))
      [(0x1800 + i, 1, f)] ++ (if k = 0 then [] else [(0x2000 + 512 * i, k, v)]))

/-- The writes of one core block (Table 18.8); `image` is the number under which the rest is kept. -/
def blockWrites (s : State) (ring p spxt image : Nat) : List AreaWrite :=
  let n := ring * 8 + p
  let c := s.core n
  let ps := s.pstate ring p
  (if ps = 0 then [(0x200, 8, 0)] else registerWrites s n ps (s.blockOf ring p))
    ++ [(0x2D0, 8, c.mcfg.toNat), (0x2D8, 40, 0), (0x800, 512, pack 64 ((List.range 64).map (fun i => (Bank.get 0 c.classes i).toNat))),
        (0x6000, 8, image), (0x20000, spxt * 65536, readBytes c.scratch 0 (spxt * 65536))]

/-- The writes of the ring header (Table 18.7): FORKST is the register's value at the stop (R391). -/
def headerWrites (s : State) (ring spxt asid : Nat) : List AreaWrite :=
  let g := s.ring ring
  let top := ring + spxt * 2 ^ 8 + asid * 2 ^ 16
  match g.region with
  | none => [(0, 8, top), (8, 8, 0), (0x10, 8, g.sqcnt.toNat), (0x18, 24, 0), (0x80, 128, 0), (0x100, 768, 0), (0x1000, 4096, 0), (0x2000, 4160, 0)]
  | some live =>
    let r := live.saved
    let x := r.snap
    let walker := if (r.find r.ensignQ).isNone then 2 ^ 63 else 0
    let got := Bank.get [] r.forwarded r.next
    [(0, 8, top), (8, 8, live.forkst.toNat), (0x10, 8, g.sqcnt.toNat), (0x18, 8, r.next), (0x20, 8, r.e % 2 ^ 63 + walker),
     (0x28, 8, r.joinPc.toNat), (0x80, 128, r.frec.raw),
     (0x100, 768, pack 64 ((List.range 64).map (fun i => (x.x (BitVec.ofNat 6 i)).toNat)
        ++ (List.range 8).map (fun i => bit (x.k.getLsbD i)) ++ [x.seed.toNat, r.snapLts])),
     (0x1000, 4096, pack 4096 (r.frec.lives.map (fun l => if l.vec then (x.live l).toNat else 0))),
     (0x2000, 4160, pack 4096 ((List.range 8).map (fun i => (Bank.get 0 got i).toNat)
        ++ [(List.range 8).foldl (fun m i => if (Bank.find got i).isSome then m + 2 ^ i else m) 0]))]

/-- All writes of a SAVE, by offset in the area. -/
def saveWrites (s : State) (ring spxt asid image : Nat) : List AreaWrite :=
  headerWrites s ring spxt asid ++ (List.range 8).flatMap (fun p =>
    (blockWrites s ring p spxt image).map (fun w => (0x10000 + p * blockBytes + w.1, w.2)))

/-- Bytes read from device memory. -/
def State.deviceBytes (s : State) (pa n : Nat) : Nat :=
  let l0 := pa / 128
  pack 1024 ((List.range ((pa + n + 127) / 128 - l0)).map (fun k => (s.currentLine (l0 + k)).toNat)) / 2 ^ (8 * (pa % 128)) % 2 ^ (8 * n)

/-- The area is unstriped device HBM of the ring's own die, 64 KiB-aligned (R319). -/
def State.areaOk (s : State) (ring pa : Nat) : Bool :=
  pa % 65536 == 0 && decide (pa + areaBytes ≤ s.hbmLimit)
    && (List.range (areaBytes / 65536)).all (fun k =>
        let a := pa + k * 65536
        !Bank.get false s.striped (s.setOfByte a) && s.homeOf a == ring / 8)

/-- A frame of the area is frozen or being collected (Table 19.9). -/
def State.areaFrozen (s : State) (pa : Nat) : Bool :=
  (List.range (areaBytes / 65536)).any (fun k =>
    decide (s.frame (pa + k * 65536) = .frozen) || decide (s.frame (pa + k * 65536) = .collecting))

/-- No line of the area is in a frame that is frozen or changing, or is being changed by another agent. -/
def State.areaFree (s : State) (pa : Nat) : Bool :=
  (List.range (areaBytes / 65536)).all (fun k => decide (s.frame (pa + k * 65536) = .plain))
    && (List.range (areaBytes / 128)).all (fun k => s.settled (pa / 128 + k))

/-- SAVE of a stopped ring with launch `l`: the area is written, and the launch is held (R319). The answer is BYTES. -/
def State.saveRing (s : State) (ring pa spxt : Nat) (l : Launch) : Nat × State :=
  let v := s.captureRing ring l spxt
  let image := s.images.length + 1
  let ws := saveWrites s ring spxt l.asid image
  let c (p : Nat) : Core := s.core (ring * 8 + p)
  let s1 := ws.foldl (fun s w =>
    let b := (w.1 - 0x10000) / blockBytes
    let o := (w.1 - 0x10000) % blockBytes
    s.deviceWrite (pa + w.1) w.2.1 w.2.2 (fun i =>
      decide (0x10000 ≤ w.1) && o == 0x20000 && Bank.get false (c b).scratchPoison (i / 16))) { s with images := s.images ++ [v] }
  (ws.foldl (fun n w => n + w.2.1) 0, s1.holdRing ring v)

/-! ## RESTORE (R321, R322) -/

/-- A context with the registers of a core block. -/
def State.blockCtx (s : State) (base : Nat) (c : Ctx) : Ctx :=
  let q (o : Nat) : Nat := s.deviceBytes (base + o) 8
  let depth := bits (q 0x200) 8 2
  let entry (o : Nat) : LoopEntry := ⟨BitVec.ofNat 64 (q o), BitVec.ofNat 64 (q (o + 8)), BitVec.ofNat 64 (q (o + 16))⟩
  let sregs := s.deviceBytes base 512
  let pregs := s.deviceBytes (base + 0x1000) 2048
  { c with
    pc := BitVec.ofNat 64 (q 0x208)
    s := (List.range 63).foldl (fun b i => Bank.set 0 b (i + 1) (BitVec.ofNat 64 (bits sregs (64 * (i + 1)) 64))) []
    k := BitVec.ofNat 8 (bits (q 0x200) 16 8)
    loops := [entry 0x210, entry 0x228].take depth
    vl := BitVec.ofNat 11 (q 0x240), vill := bits (q 0x248) 63 1 == 1, ew := BitVec.ofNat 3 (q 0x248)
    vstart := BitVec.ofNat 11 (q 0x250), vdirty := BitVec.ofNat 32 (q 0x258), pixSel := BitVec.ofNat 5 (bits (q 0x260) 32 5)
    rndm := BitVec.ofNat 3 (q 0x268), fflags := BitVec.ofNat 6 (q 0x270), seed := BitVec.ofNat 32 (q 0x278)
    p := (List.range 16).foldl (fun b i => Bank.set 0 b i (BitVec.ofNat 1024 (bits pregs (1024 * i) 1024))) []
    v := (List.range 32).foldl (fun b i => Bank.set 0 b i
      (vectorOf (s.deviceBytes (base + 0x1800 + i) 1) (s.deviceBytes (base + 0x2000 + 512 * i) 512))) []
    wait := if q 0x2C0 % 2 = 1 then some (.ybar (bits (q 0x2C0) 16 16) (BitVec.ofNat 64 (q 0x2C8))) else none }.restored

/-- A core as its block gives it, the images from `k` (Table 18.8). -/
def State.blockCore (s : State) (base spxt : Nat) (k : Core) : Core :=
  let q (o : Nat) : Nat := s.deviceBytes (base + o) 8
  let ps := q 0x200 % 4
  let classes := s.deviceBytes (base + 0x800) 512
  let k := { k with mcfg := BitVec.ofNat 11 (q 0x2D0)
                    classes := (List.range 64).foldl (fun b i => Bank.set 0 b i (BitVec.ofNat 64 (bits classes (64 * i) 64))) []
                    scratch := writeBytes [] 0 (spxt * 65536) (s.deviceBytes (base + 0x20000) (spxt * 65536)), scratchPoison := [] }
  let k := if ps = 0 then k else
    { k with lease := BitVec.ofNat 16 (q 0x288), chk := q 0x290 % 2 == 1, lts := q 0x298 % 2 ^ 48, pprv := q 0x2A0 % 2 == 1 }
  let issuer (x : Ctx) : Ctx :=
    (List.range 6).foldl (fun x i => x.setX (BitVec.ofNat 6 (8 + i)) (BitVec.ofNat 64 (q (0x308 + 8 * i)))) x
  if ps = 1 ∨ ps = 2 then
    { k with main := s.blockCtx base k.main
             seq := k.seq.map (fun sq =>
               { sq with joinPc := BitVec.ofNat 64 (q 0x300), snap := issuer sq.snap, q := bits (q 0x338) 0 63 - 1 }) }
  else k

/-- A region as the ring header gives it, the rest from `r` (Table 18.7, R322). -/
def State.headerRegion (s : State) (pa : Nat) (r : Region) : Region :=
  let q (o : Nat) : Nat := s.deviceBytes (pa + o) 8
  let raw := s.deviceBytes (pa + 0x80) 128
  let mask := q (0x2000 + 4096)
  let snap := { r.snap with
    s := (List.range 63).foldl (fun b i => Bank.set 0 b (i + 1) (BitVec.ofNat 64 (q (0x100 + 8 * (i + 1))))) []
    k := BitVec.ofNat 8 ((List.range 8).foldl (fun m i => m + q (0x300 + 8 * i) % 2 * 2 ^ i) 0), seed := BitVec.ofNat 32 (q 0x340) }
  let snap := r.frec.liveList.foldl (fun c p =>
    if p.2.vec then c.setLive p.2 (BitVec.ofNat 4096 (s.deviceBytes (pa + 0x1000 + 512 * p.1) 512)) else c) snap
  let got := (List.range 8).foldl (fun (b : Bank (BitVec 4096)) i =>
    if mask / 2 ^ i % 2 = 1 then Bank.put b i (BitVec.ofNat 4096 (s.deviceBytes (pa + 0x2000 + 512 * i) 512)) else b) []
  { r with snap := snap, snapLts := q 0x348, frec := if recordOk raw then recordOf snap raw else r.frec, next := q 0x18
           e := q 0x20 % 2 ^ 63, joinPc := BitVec.ofNat 64 (q 0x28)
           forwarded := if got.isEmpty then Bank.erase r.forwarded (q 0x18) else Bank.put r.forwarded (q 0x18) got }

/-- The chunks past `cend`, with the contexts that their blocks give (R320, R321). -/
def State.blockFinals (s : State) (ring : Nat) (block : Nat → Nat) (r : Region) : Region :=
  { r with chunks := r.chunks.map (fun c =>
      let p := r.pos c.q
      if ((r.endedOn ring (ring * 8 + p)).map (·.q)) = some c.q ∧ s.deviceBytes (block p + 0x200) 1 % 4 = 3 then
        { c with final := c.final.map (s.blockCtx (block p)) }
      else c) }

/-- Poison lies in a part of the area that RESTORE reads. -/
def State.areaPoison (s : State) (pa spxt : Nat) : Bool :=
  s.poison.any (fun e => e.2 && decide (pa ≤ e.1 * 16) && decide (e.1 * 16 < pa + areaBytes) &&
    (decide (e.1 * 16 - pa < 0x10000) || decide ((e.1 * 16 - pa - 0x10000) % blockBytes < 0x20000 + spxt * 65536)))

/-- RESTORE: its status, and the state it leaves (R321). -/
def State.restoreRing (s : State) (ring pa : Nat) : Nat × State :=
  let q (o : Nat) : Nat := s.deviceBytes (pa + o) 8
  let asid := bits (q 0) 16 16
  let spxt := bits (q 0) 8 4
  let block (p : Nat) : Nat := pa + 0x10000 + p * blockBytes
  if (s.ring ring).running.isSome || (coresOf ring).any (fun n => (s.core n).asid.toNat != asid) then (2, s)
  else
    let formats := (List.range 8).all (fun p =>
      (List.range 32).all (fun i => let f := s.deviceBytes (block p + 0x1800 + i) 1; decide (1 ≤ f) && decide (f ≤ 4)))
    match s.images[q (0x10000 + 0x6000) - 1]? with
    | none => (3, s)
    | some v =>
      if q 0 % 256 ≠ ring ∨ !formats then (3, s)
      else if s.areaPoison pa spxt then (4, s)
      else
        let v' : SavedRing :=
          { v with cores := v.cores.zipIdx.map (fun e => s.blockCore (block e.2) spxt e.1), sqcnt := BitVec.ofNat 32 (q 0x10)
                   region := v.region.map (fun r => s.blockFinals ring block (s.headerRegion pa r)) }
        let s := s.mapRing ring (fun g => { g with saved := g.saved.filter (fun w => decide (w.launch ≠ v.launch)) })
        (0, s.resumeRing ring v')

/-! ## ctxsv (R315) -/

/-- A command's fields (Table 18.5). -/
structure SaveCommand where
  op : Nat
  ring : Nat
  spxt : Nat
  area : Nat
  deriving DecidableEq, Repr

/-- The command of 32 bytes, unless a reserved field is non-zero or its ring is not of the die. -/
def saveCommand (die w : Nat) : Option SaveCommand :=
  let c : SaveCommand := ⟨bits w 0 2, bits w 8 7, bits w 20 4, bits w 64 64⟩
  let zero := bits w 2 6 == 0 && bits w 15 5 == 0 && bits w 24 40 == 0 && bits w 192 64 == 0
  let spxt := if c.op = 1 then decide (1 ≤ c.spxt) && decide (c.spxt ≤ 8) else c.spxt == 0
  let area := c.op == 1 || c.op == 2 || c.area == 0
  if zero && spxt && area && c.ring / 8 == die then some c else none

/-- How far the engine gets with a command: it waits, or answers a status and BYTES. -/
inductive SaveTry where
  | wait (s : State)
  | done (status bytes : Nat) (s : State)

/-- STOP (R316). A ring that TIMEOUT has passed goes on stopping, and a new STOP waits for it again. -/
def tryStop (s : State) (ring : Nat) : SaveTry :=
  if (s.ring ring).running.isNone then .done 0 0 s
  else
    let (s, done, _) := (s.beginStop ring .command).stopTry ring
    if done then .done 0 0 s
    else if (s.ring ring).timedOut then .done 1 0 (s.mapRing ring (fun g => { g with timedOut := false })) else .wait s

/-- ABORT (R318): it stops the ring as STOP does; one that TIMEOUT has passed is ended as it stands (R298, log 74). -/
def tryAbort (s : State) (ring : Nat) : SaveTry :=
  if (s.ring ring).running.isNone then .done 0 0 s
  else
    let (s, done, _) := (s.beginStop ring .command).stopTry ring
    if done ∨ (s.ring ring).timedOut then .done 0 0 (s.endRunning ring 0) else .wait s

/-- SAVE (R319). -/
def trySave (s : State) (c : SaveCommand) : SaveTry :=
  match (s.ring c.ring).running with
  | some l =>
    if !(s.ring c.ring).stopped then .done 2 0 s
    else if !s.areaOk c.ring c.area ∨ s.areaFrozen c.area then .done 3 0 s
    else if !s.areaFree c.area then .wait s
    else
      let (n, s) := s.saveRing c.ring c.area c.spxt l
      .done 0 n s
  | none => .done 2 0 s

/-- A line of the area is in state MP at an Annex: reads of it wait there (R328). -/
def State.areaPending (s : State) (pa : Nat) : Bool :=
  s.annex.any (fun e =>
    let line := e.1 % 2 ^ 34
    !e.2.pending.isEmpty && decide (pa ≤ line * 128) && decide (line * 128 < pa + areaBytes))

/-- RESTORE (R321). -/
def tryRestore (s : State) (c : SaveCommand) : SaveTry :=
  if s.areaPending c.area then .wait s else
  let s := s.meet (inBytes c.area areaBytes)
  let (st, s) := s.restoreRing c.ring c.area
  .done st 0 s

/-- `ctxsv`: the command is read, the engine runs it as the row's operation tells, and the answer is written into it. -/
def doCtxsv (rs : SReg) : M Unit := do
  needS
  let ea ← readX rs
  let s ← getState
  if isRingCore s.cur ∨ ea.toNat % 32 ≠ 0 then raise .contextSaveCommand ea
  match ← target .load ea with
  | .hbm pa =>
    let w ← loadBlock (.hbm pa) 32 ea
    match saveCommand (dieOf s.cur) w with
    | none => raise .contextSaveCommand ea
    | some c =>
      let s ← getState
      if s.frame pa = .frozen then raise .writeFrozen ea
      if s.frame pa ≠ .plain ∨ !s.settled (lineOf pa) then stall
      let r := match c.op with
        | 0 => tryStop s c.ring
        | 1 => trySave s c
        | 2 => tryRestore s c
        | _ => tryAbort s c.ring
      match r with
      | .wait t => modState (fun _ => t); stall
      | .done st n t =>
        modState (fun _ => (t.deviceWrite (pa + 16) 8 (n % 2 ^ 32 * 2 ^ 32 + st) (fun _ => false)).notify (dieOf t.cur))
        retire 4
  | _ => raise .accessTarget ea

/-- STOP (R316). -/
def execStop (rs : SReg) (s : State) : Host.Outcome State Fault Refusal := finish (doCtxsv rs) s
/-- SAVE (R319). -/
def execSave (rs : SReg) (s : State) : Host.Outcome State Fault Refusal := finish (doCtxsv rs) s
/-- RESTORE (R321). -/
def execRestore (rs : SReg) (s : State) : Host.Outcome State Fault Refusal := finish (doCtxsv rs) s
/-- ABORT (R318). -/
def execAbort (rs : SReg) (s : State) : Host.Outcome State Fault Refusal := finish (doCtxsv rs) s

end Sys2Proof.Machine
end

