-- ==== Sys2Proof/Machine/Control.lean ====
section
/-! DEFINITION. Branches, jumps and hardware loops (R89–R96) with their compact forms (R63). -/

namespace Sys2Proof.Machine
open Sys2Proof

/-- A control transfer: it raises loop-end-hazard at a live entry's END (R94), and otherwise leaves the context that
`f` gives. -/
def transfer (f : Ctx → Ctx) (s : State) : Host.Outcome State Fault Refusal :=
  .next (if s.ctx.atLoopEnd then s.raise .loopEndHazard s.ctx.pc false else s.setCtx (f s.ctx).fresh)

/-- A conditional branch of `len` bytes (R89). -/
def branch (len : Word) (taken : Ctx → Bool) (disp : Word) (s : State) : Host.Outcome State Fault Refusal :=
  transfer (fun c => if taken c then c.jump (c.pc + disp) else c.retire len) s

/-- beq (R89). -/
def execBeq (rs1 rs2 : SReg) (off : BitVec 11) (s : State) : Host.Outcome State Fault Refusal :=
  branch 4 (fun c => c.x rs1 == c.x rs2) (parcels off) s

/-- bne (R89). -/
def execBne (rs1 rs2 : SReg) (off : BitVec 11) (s : State) : Host.Outcome State Fault Refusal :=
  branch 4 (fun c => c.x rs1 != c.x rs2) (parcels off) s

/-- blt (R89). -/
def execBlt (rs1 rs2 : SReg) (off : BitVec 11) (s : State) : Host.Outcome State Fault Refusal :=
  branch 4 (fun c => decide ((c.x rs1).toInt < (c.x rs2).toInt)) (parcels off) s

/-- bge (R89). -/
def execBge (rs1 rs2 : SReg) (off : BitVec 11) (s : State) : Host.Outcome State Fault Refusal :=
  branch 4 (fun c => decide ((c.x rs2).toInt ≤ (c.x rs1).toInt)) (parcels off) s

/-- bltu (R89). -/
def execBltu (rs1 rs2 : SReg) (off : BitVec 11) (s : State) : Host.Outcome State Fault Refusal :=
  branch 4 (fun c => decide ((c.x rs1).toNat < (c.x rs2).toNat)) (parcels off) s

/-- bgeu (R89). -/
def execBgeu (rs1 rs2 : SReg) (off : BitVec 11) (s : State) : Host.Outcome State Fault Refusal :=
  branch 4 (fun c => decide ((c.x rs2).toNat ≤ (c.x rs1).toNat)) (parcels off) s

/-- bkt (R89). -/
def execBkt (k : KReg) (off : BitVec 20) (s : State) : Host.Outcome State Fault Refusal :=
  branch 4 (fun c => c.kb k) (parcels off) s

/-- bkf (R89). -/
def execBkf (k : KReg) (off : BitVec 20) (s : State) : Host.Outcome State Fault Refusal :=
  branch 4 (fun c => !c.kb k) (parcels off) s

/-- A jump to `t` with link register `rd`: a link other than s0 is a call and removes no loop entry (R89, R95). -/
def Ctx.link (c : Ctx) (rd : SReg) (t : Word) : Ctx :=
  if rd = 0 then c.jump t else { c.setX rd (c.pc + 4) with pc := t }

/-- jal (R89). -/
def execJal (rd : SReg) (off : BitVec 18) (s : State) : Host.Outcome State Fault Refusal :=
  transfer (fun c => c.link rd (c.pc + parcels off)) s

/-- The target of jalr: bit 0 cleared. -/
def evenTarget (a : Word) : Word := a &&& ~~~1

/-- jalr (R89). -/
def execJalr (rd rs1 : SReg) (imm : BitVec 12) (s : State) : Host.Outcome State Fault Refusal :=
  transfer (fun c => c.link rd (evenTarget (c.x rs1 + simm imm))) s

/-- c.j (Table 3.15). -/
def execCJ (off : BitVec 11) (s : State) : Host.Outcome State Fault Refusal :=
  transfer (fun c => c.jump (c.pc + parcels off)) s

/-- c.jr (Table 3.15). -/
def execCJr (rs : SReg) (s : State) : Host.Outcome State Fault Refusal :=
  transfer (fun c => c.jump (evenTarget (c.x rs))) s

/-- c.bnez (Table 3.15). -/
def execCBnez (rs : SReg) (off : BitVec 5) (s : State) : Host.Outcome State Fault Refusal :=
  branch 2 (fun c => c.x rs != 0) (parcels off) s

/-- c.beqz (Table 3.15). -/
def execCBeqz (rs : SReg) (off : BitVec 5) (s : State) : Host.Outcome State Fault Refusal :=
  branch 2 (fun c => c.x rs == 0) (parcels off) s

/-- c.bkt (Table 3.15). -/
def execCBkt (k : KReg) (off : BitVec 8) (s : State) : Host.Outcome State Fault Refusal :=
  branch 2 (fun c => c.kb k) (parcels off) s

/-- c.bkf (Table 3.15). -/
def execCBkf (k : KReg) (off : BitVec 8) (s : State) : Host.Outcome State Fault Refusal :=
  branch 2 (fun c => !c.kb k) (parcels off) s

/-- The stack does not take another entry that ends at `stop` (R92). -/
def nestsBadly (loops : List LoopEntry) (stop : Word) : Bool :=
  match loops with
  | [] => false
  | [l0] => decide (l0.stop < stop)
  | _ => true

/-- loop and loopi (R92); a fault in fetching the parcel at END is the loop's own, with TVAL = END. -/
def doLoop (count : Word) (off : BitVec 12) : M Unit := do
  loopHazard
  let c ← getCtx
  let stop := c.pc + 2 * off.setWidth 64
  match ← fetchParcel stop.toNat with
  | .error (cause, _) => raise cause stop
  | .ok p =>
    let len : Word := if bits p 14 2 = 3 then 4 else 2
    if count = 0 then modCtx (fun c => { c.fresh with pc := stop + len })
    else
      if nestsBadly c.loops stop then raise .loopNesting stop
      modCtx (fun c => { c.fresh with pc := c.pc + 4, loops := c.loops ++ [⟨c.pc + 4, stop, count⟩] })

/-- loop (R92). -/
def execLoop (rs1 : SReg) (off : BitVec 12) (s : State) : Host.Outcome State Fault Refusal :=
  finish (doLoop (s.ctx.x rs1) off) s

/-- loopi (R92). -/
def execLoopi (cnt off : BitVec 12) (s : State) : Host.Outcome State Fault Refusal :=
  finish (doLoop (cnt.setWidth 64) off) s

end Sys2Proof.Machine
end

