-- ==== Sys2Proof/Machine/Fp.lean ====
section
/-! DEFINITION. Scalar floating point: arithmetic, compares and conversions (R86–R88). -/

namespace Sys2Proof.Machine
open Sys2Proof

/-- The format of a `.s` (q = 1) or `.d` form. -/
def scalarFmt (sg : Bool) : Fmt := if sg then fp32 else fp64

/-- The operand code of a form: bits [31:0] of a `.s` form (R76). -/
def fpIn (sg : Bool) (v : Word) : Nat := if sg then v.toNat % 2 ^ 32 else v.toNat

/-- X(rd) := the result, with FP32 in bits [31:0] and zero above, and its flags (R76, R38). -/
def Ctx.fpOut (c : Ctx) (rd : SReg) (r : FRes) : Ctx := (c.setX rd (BitVec.ofNat 64 r.code)).raiseFlags r.flags

/-- An arithmetic operation on the old rd, rs1 and rs2 under RNDM, RNE for MODE 5 (R86). -/
def fpOp (sg : Bool) (f : Fmt → Rnd → Nat → Nat → Nat → FRes) (rd rs1 rs2 : SReg) (s : State) :
    Host.Outcome State Fault Refusal :=
  s.plain 4 (fun c =>
    c.fpOut rd (f (scalarFmt sg) (rndOf c.rndm).plain (fpIn sg (c.x rd)) (fpIn sg (c.x rs1)) (fpIn sg (c.x rs2))))

/-- fadd (Table 5.7). -/
def execFadd (sg : Bool) (rd rs1 rs2 : SReg) (s : State) : Host.Outcome State Fault Refusal :=
  fpOp sg (fun f m _ a b => f.add m a b) rd rs1 rs2 s

/-- fsub (Table 5.7). -/
def execFsub (sg : Bool) (rd rs1 rs2 : SReg) (s : State) : Host.Outcome State Fault Refusal :=
  fpOp sg (fun f m _ a b => f.sub m a b) rd rs1 rs2 s

/-- fmul (Table 5.7). -/
def execFmul (sg : Bool) (rd rs1 rs2 : SReg) (s : State) : Host.Outcome State Fault Refusal :=
  fpOp sg (fun f m _ a b => f.mul m a b) rd rs1 rs2 s

/-- fdiv (Table 5.7). -/
def execFdiv (sg : Bool) (rd rs1 rs2 : SReg) (s : State) : Host.Outcome State Fault Refusal :=
  fpOp sg (fun f m _ a b => f.div m a b) rd rs1 rs2 s

/-- fmin (Table 5.7). -/
def execFmin (sg : Bool) (rd rs1 rs2 : SReg) (s : State) : Host.Outcome State Fault Refusal :=
  fpOp sg (fun f _ _ a b => f.minmax false a b) rd rs1 rs2 s

/-- fmax (Table 5.7). -/
def execFmax (sg : Bool) (rd rs1 rs2 : SReg) (s : State) : Host.Outcome State Fault Refusal :=
  fpOp sg (fun f _ _ a b => f.minmax true a b) rd rs1 rs2 s

/-- fmacc (Table 5.7). -/
def execFmacc (sg : Bool) (rd rs1 rs2 : SReg) (s : State) : Host.Outcome State Fault Refusal :=
  fpOp sg (fun f m d a b => f.macc m d a b) rd rs1 rs2 s

/-- fmsac (Table 5.7). -/
def execFmsac (sg : Bool) (rd rs1 rs2 : SReg) (s : State) : Host.Outcome State Fault Refusal :=
  fpOp sg (fun f m d a b => f.msac m d a b) rd rs1 rs2 s

/-- fsqrt (Table 5.7). -/
def execFsqrt (sg : Bool) (rd rs1 : SReg) (s : State) : Host.Outcome State Fault Refusal :=
  fpOp sg (fun f m _ a _ => f.sqrt m a) rd rs1 0 s

/-- fneg (Table 5.7). -/
def execFneg (sg : Bool) (rd rs1 : SReg) (s : State) : Host.Outcome State Fault Refusal :=
  fpOp sg (fun f _ _ a _ => ⟨f.negCode a, 0, false⟩) rd rs1 0 s

/-- fabs (Table 5.7). -/
def execFabs (sg : Bool) (rd rs1 : SReg) (s : State) : Host.Outcome State Fault Refusal :=
  fpOp sg (fun f _ _ a _ => ⟨f.absCode a, 0, false⟩) rd rs1 0 s

/-- kd := a floating-point compare of X(rs1) and X(rs2) (R87). -/
def fpCompare (op : FCmp) (sg : Bool) (kd : KReg) (rs1 rs2 : SReg) (s : State) : Host.Outcome State Fault Refusal :=
  s.plain 4 (fun c =>
    let r := (scalarFmt sg).compare op (fpIn sg (c.x rs1)) (fpIn sg (c.x rs2))
    (c.setK kd r.1).raiseFlags r.2)

/-- kfeq (R87). -/
def execKfeq (sg : Bool) (kd : KReg) (rs1 rs2 : SReg) (s : State) : Host.Outcome State Fault Refusal :=
  fpCompare .eq sg kd rs1 rs2 s

/-- kflt (R87). -/
def execKflt (sg : Bool) (kd : KReg) (rs1 rs2 : SReg) (s : State) : Host.Outcome State Fault Refusal :=
  fpCompare .lt sg kd rs1 rs2 s

/-- kfle (R87). -/
def execKfle (sg : Bool) (kd : KReg) (rs1 rs2 : SReg) (s : State) : Host.Outcome State Fault Refusal :=
  fpCompare .le sg kd rs1 rs2 s

/-- kfun (R87). -/
def execKfun (sg : Bool) (kd : KReg) (rs1 rs2 : SReg) (s : State) : Host.Outcome State Fault Refusal :=
  fpCompare .un sg kd rs1 rs2 s

/-! ## Conversions (R88, R39) -/

/-- SEED moves on by one output when the result took it (R34, R35). -/
def Ctx.useRand (c : Ctx) (took : Bool) : Ctx := if took then { c with seed := lfsrNext c.seed } else c

/-- fcvt.s.d: a narrowing conversion (R88). -/
def execFcvtSD (rm : BitVec 3) (rd rs1 : SReg) (s : State) : Host.Outcome State Fault Refusal :=
  s.plain 4 (fun c =>
    let r := convert fp64 fp32 (rndField rm c.rndm) (lfsrNext c.seed) (c.x rs1).toNat
    (c.fpOut rd r).useRand r.rand)

/-- fcvt.d.s: exact (Table 5.8). -/
def execFcvtDS (rd rs1 : SReg) (s : State) : Host.Outcome State Fault Refusal :=
  s.plain 4 (fun c => c.fpOut rd (convert fp32 fp64 .rne 0 (fpIn true (c.x rs1))))

/-- A conversion to an integer in lo .. hi (R39). -/
def fpToInt (sg : Bool) (rm : BitVec 3) (lo hi : Int) (rd rs1 : SReg) (s : State) : Host.Outcome State Fault Refusal :=
  s.plain 4 (fun c =>
    let r := toInteger (rndField rm c.rndm).plain lo hi ((scalarFmt sg).decode (fpIn sg (c.x rs1)))
    (c.setX rd (BitVec.ofInt 64 r.1)).raiseFlags r.2)

/-- A conversion from the integer `f` reads in rs1 (R39). -/
def intToFp (sg : Bool) (rm : BitVec 3) (f : Word → Int) (rd rs1 : SReg) (s : State) : Host.Outcome State Fault Refusal :=
  s.plain 4 (fun c => c.fpOut rd ((scalarFmt sg).ofInteger (rndField rm c.rndm).plain (f (c.x rs1))))

/-- fcvtLF (Table 5.8). -/
def execFcvtLF (sg : Bool) (rm : BitVec 3) (rd rs1 : SReg) (s : State) : Host.Outcome State Fault Refusal :=
  fpToInt sg rm (-2 ^ 63) (2 ^ 63 - 1) rd rs1 s

/-- fcvtLuF (Table 5.8). -/
def execFcvtLuF (sg : Bool) (rm : BitVec 3) (rd rs1 : SReg) (s : State) : Host.Outcome State Fault Refusal :=
  fpToInt sg rm 0 (2 ^ 64 - 1) rd rs1 s

/-- fcvtWF (Table 5.8). -/
def execFcvtWF (sg : Bool) (rm : BitVec 3) (rd rs1 : SReg) (s : State) : Host.Outcome State Fault Refusal :=
  fpToInt sg rm (-2 ^ 31) (2 ^ 31 - 1) rd rs1 s

/-- fcvtFL (Table 5.8). -/
def execFcvtFL (sg : Bool) (rm : BitVec 3) (rd rs1 : SReg) (s : State) : Host.Outcome State Fault Refusal :=
  intToFp sg rm BitVec.toInt rd rs1 s

/-- fcvtFLu (Table 5.8). -/
def execFcvtFLu (sg : Bool) (rm : BitVec 3) (rd rs1 : SReg) (s : State) : Host.Outcome State Fault Refusal :=
  intToFp sg rm (fun v => (v.toNat : Int)) rd rs1 s

/-- fcvtFW (Table 5.8). -/
def execFcvtFW (sg : Bool) (rm : BitVec 3) (rd rs1 : SReg) (s : State) : Host.Outcome State Fault Refusal :=
  intToFp sg rm (fun v => (lowWord v).toInt) rd rs1 s

end Sys2Proof.Machine
end

