-- ==== Sys2Proof/Machine/Freeze.lean ====
section
/-! DEFINITION. The Vitrine: `frz`, `thaw` and `thawq`, the seal of a region and the collection of its replicas
(R193–R197, R337–R344). -/

namespace Sys2Proof.Machine
open Sys2Proof

/-! ## Entries and handles -/

def State.vitEntry (s : State) (i : Nat) : VitEntry := Bank.get {} s.vit i

def State.setVit (s : State) (i : Nat) (e : VitEntry) : State := { s with vit := Bank.put s.vit i e }

/-- The entries of the Vitrine (R338). -/
def vitrineSize : Nat := 512

/-- An entry in SEALING or ACTIVE (R338). -/
def VitEntry.live (e : VitEntry) : Bool := decide (e.st = .sealing) || decide (e.st = .active)

/-- The handle of entry `i` (Table 9.8). -/
def handleOf (i : Nat) (e : VitEntry) : Word := BitVec.ofNat 64 (e.gen.toNat * 2 ^ 16 + i)

/-- The cover count of a frame is not 0 (R337). -/
def State.covered (s : State) (f : Nat) : Bool := s.vit.any (fun e => decide (e.2.st = .active) && e.2.frames.contains f)

def State.setFrame (s : State) (f : Nat) (st : FrameState) : State := { s with frames := Bank.set .plain s.frames f st }

/-- The frame of a line. -/
def frameOf (line : Nat) : Nat := line / 512

/-! ## The seal (R339) -/

/-- Recalls every owner and converts every sharer of the settled Catalogue entries of the frames' lines (step 3). -/
def State.startRecalls (s : State) (frames : List Nat) : State :=
  s.cat.foldl (fun s p =>
    let e := p.2
    if frames.contains (frameOf p.1) && !decide (e.st = .none) && !decide (e.st = .rcl) && e.busy.isNone then
      let ds := e.holders
      if ds.isEmpty then s.settle p.1 { e with st := .none, sharers := 0, owner := 15 }
      else ds.foldl (fun s d => s.post (if e.owner = d then .recallLine d p.1 else .freezeConvert d p.1))
        (s.setCat p.1 { e with st := .rcl, awaiting := ds })
    else s) s

/-- No line of the frames has a Catalogue entry, a pending mirror, a lock or a pin left, nor a sum that a recall has sent to
the home (R253, log 99). -/
def State.sealed (s : State) (frames : List Nat) : Bool :=
  let inside (l : LineId) : Bool := match l with
    | .hbm line => frames.contains (frameOf line)
    | .scratch _ _ => false
  !s.cat.any (fun p => frames.contains (frameOf p.1) && (!decide (p.2.st = .none) || p.2.busy.isSome))
    && !s.annex.any (fun p => frames.contains (frameOf (p.1 % 2 ^ 34)) &&
        match p.2.st with | .mp _ => true | _ => false)
    && !s.locks.any (fun p => inside p.1) && !s.pins.any (fun p => inside p.1)
    && !s.combine.any (fun b => b.sent && frames.contains (frameOf b.line))

/-- SEAL_COMPLETE (R339): with every copy recalled the frames become FROZEN, the entry ACTIVE, and the `frz` that sealed
it writes its handle; the loads after it follow F (R275). Until then it recalls what a request has brought back. A frame
whose collection a `thaw` has begun meanwhile is sealed after that collection. -/
def execSealComplete (entry : Nat) (s : State) : Host.Outcome State Fault Refusal :=
  let e := s.vitEntry entry
  if e.st ≠ .sealing then .next (s.take (.sealComplete entry))
  else if e.frames.any (fun f => decide (s.frame (f * 65536) = .collecting)) then .next s
  else if e.frames.any (fun f => decide (s.frame (f * 65536) = .plain)) then
    .next ((e.frames.foldl (fun s f => if s.frame (f * 65536) = .plain then s.setFrame f .sealing else s) s).startRecalls e.frames)
  else if !s.sealed e.frames then .next (s.startRecalls e.frames)
  else
    let s := s.take (.sealComplete entry)
    let s := e.frames.foldl (fun s f => s.setFrame f .frozen) s
    let e := { e with st := .active }
    let s := s.setVit entry e
    let waiters := s.cores.filterMap (fun c => match c.2.main.wait with
      | some (.frz n rd) => if n = entry then some (c.1, rd) else none
      | _ => none)
    .next (waiters.foldl (fun s w => s.mapCore w.1 (fun c =>
      { c.acquire with main := ({ c.main with wait := none }.setX w.2 (handleOf entry e)).fresh.retire 4 })) s)

/-! ## frz (R194) -/

/-- The frames of `n` 64 KiB pages from `va`, each translated as a load; `none` for a page that is not device HBM. No
page from the end of the translated region on is translated or in device HBM, so the walk ends there. -/
def framesFrom (va : Nat) : Nat → M (List (Option Nat))
  | 0 => pure []
  | n + 1 => do
    if Config.untranslated ≤ va then return [none]
    let f : Option Nat ← (do
      match ← target .load (BitVec.ofNat 64 va) with
      | .hbm pa => pure (some (pa / 65536))
      | _ => pure none)
    let t ← framesFrom (va + 65536) n
    return f :: t

/-- A free entry, as the manual leaves it open which (log 2); `none` with none free. -/
def State.freeEntry (s : State) : Option Nat × State :=
  let free := (List.range vitrineSize).filter (fun i => decide ((s.vitEntry i).st = .free))
  if free.isEmpty then (none, s)
  else
    let (k, s) := s.choose free.length
    (free[k]?, s)

/-- frz (R194, R197). -/
def execFrz (rd rs1 rs2 : SReg) (s : State) : Host.Outcome State Fault Refusal :=
  finish (do
    notHandler
    let c ← getCtx
    let base := (c.x rs1).toNat
    let len := (c.x rs2).toNat
    if base % 65536 ≠ 0 ∨ len % 65536 ≠ 0 ∨ len = 0 ∨ 2 ^ 64 < base + len then raise .freezeRange (c.x rs1)
    let fs ← framesFrom base (len / 65536)
    if fs.any (·.isNone) then raise .freezeRange (c.x rs1)
    awaitEnsign
    performed 3
    modState (fun s => s.vitrineLookUp (fun _ => true))
    let s ← getState
    let asid := s.me.asid.toNat
    match s.vit.find? (fun e => e.2.live && e.2.asid == asid && e.2.base == base && e.2.len == len) with
    | some (i, e) =>
      if e.st = .sealing then stall
      if e.depth = 15 then raise .freezeDepth (c.x rs1)
      modState (fun s => s.setVit i { e with depth := e.depth + 1 })
      writeX rd (handleOf i e)
      retire 4
    | none =>
      let frames := (fs.filterMap id).eraseDups
      if frames.any (fun f => decide (s.frame (f * 65536) = .collecting)) then stall
      match s.freeEntry with
      | (none, _) =>
        if (List.range vitrineSize).all (fun i => (s.vitEntry i).live) then raise .freezeCapacity (c.x rs1) else stall
      | (some i, s1) =>
        let e : VitEntry := { base := base, len := len, ticket := (s.vitEntry i).ticket, asid := asid, gen := (s.vitEntry i).gen,
                              st := .sealing, frames := frames }
        let s1 := frames.foldl (fun s f => if s.covered f then s else s.setFrame f .sealing) s1
        let s1 := ((s1.setVit i e).startRecalls frames).post (.sealComplete i)
        modState (fun _ => s1)
        waitFor (.frz i rd)) s

/-! ## thaw and the collection (R195, R343) -/

/-- The active entry that a handle names in an address space. -/
def State.handleEntry (s : State) (asid : Nat) (h : Word) : Option (Nat × VitEntry) :=
  let i := h.toNat % 512
  let e := s.vitEntry i
  if h = handleOf i e && e.live && e.asid == asid then some (i, e) else none

/-- thaw (R195, R197). -/
def execThaw (rd rs1 : SReg) (s : State) : Host.Outcome State Fault Refusal :=
  finish (do
    awaitEnsign
    let h ← readX rs1
    modState (fun s => s.vitrineLookUp (fun i => i == h.toNat % 512))
    let s ← getState
    let asid := s.me.asid.toNat
    match s.handleEntry asid h with
    | none => raise .freezeHandle h
    | some (i, e) =>
      if e.st = .sealing then
        notHandler
        stall
      if 0 < e.depth then
        modState (fun s => s.setVit i { e with depth := e.depth - 1 })
        writeX rd 0
        retire 4
      else
        let tk := Bank.get {} s.tickets asid
        let t := tk.issued + 1
        let s1 := s.setVit i { e with st := .collecting, gen := e.gen + 1, ticket := t }
        let gone := e.frames.filter (fun f => !s1.covered f)
        let s1 := gone.foldl (fun s f => s.setFrame f .collecting) s1
        let tk := { tk with issued := t, running := tk.running ++ [(t, i, gone)] }
        let s1 := { s1 with tickets := Bank.set {} s1.tickets asid tk }
        modState (fun _ => s1.post (.ticketComplete asid))
        writeX rd (BitVec.ofNat 64 t)
        retire 4) s

/-- An answer that brings a Frozen replica of a line of the frames. -/
def bringsReplica (frames : List Nat) : Instr → Bool
  | .catalogueAnswer _ line g => decide (g.state = .f) && frames.contains (frameOf line)
  | _ => false

/-- Every Frozen replica of the frames is invalidated in the Annexes of every die, those on their way among them, and every
committed copy of their lines in the L1s (step 2 of R343, R216). -/
def State.dropReplicas (s : State) (frames : List Nat) : State :=
  let s := s.mapCores (fun c => { c with l1 := c.l1.filter (fun e => !frames.contains (frameOf e.1)) })
  let s := (s.flight.filter (bringsReplica frames)).foldl (fun s i => match i with
    | .catalogueAnswer die line _ => s.mapAnnex die line (fun a => { a with asked := false })
    | _ => s) s
  let gone (k : Nat) (a : AnnexLine) : Bool := decide (a.st = .f) && frames.contains (frameOf (k % 2 ^ 34))
  { s with
    annex := s.annex.filterMap (fun e =>
      if gone e.1 e.2 then (if e.2.asked then some (e.1, { asked := true }) else none) else some e)
    flight := s.flight.filter (fun i => !bringsReplica frames i) }

/-- TICKET_COMPLETE (R193, R343): the oldest ticket of an address space completes. -/
def execTicketComplete (asid : Nat) (s : State) : Host.Outcome State Fault Refusal :=
  let s := s.take (.ticketComplete asid)
  let tk := Bank.get {} s.tickets asid
  match tk.running with
  | [] => .next s
  | (t, i, frames) :: rest =>
    let s := s.dropReplicas frames
    let s := frames.foldl (fun s f => s.setFrame f .plain) s
    let e := s.vitEntry i
    let s := s.setVit i { e with st := .free, frames := [] }
    .next { s with tickets := Bank.set {} s.tickets asid { tk with done := t, running := rest } }

/-- thawq (R196, R197). -/
def execThawq (rd rs1 : SReg) (s : State) : Host.Outcome State Fault Refusal :=
  finish (do
    notHandler
    awaitEnsign
    let t ← readX rs1
    let s ← getState
    let tk := Bank.get {} s.tickets s.me.asid.toNat
    if tk.issued < t.toNat then raise .freezeHandle t
    if t.toNat ≤ tk.done then
      acquire
      writeX rd (BitVec.ofNat 64 tk.done)
      retire 4
    else waitFor (.thawq rd t)) s

/-- THAWQ_RETURN (R196). -/
def execThawqReturn (core : Nat) (s : State) : Host.Outcome State Fault Refusal :=
  match (s.core core).main.wait with
  | some (.thawq rd t) =>
    let d := s.thawtkt (s.core core).asid.toNat
    if t.toNat ≤ d then
      onContext core false (do
        endWait
        acquire
        writeX rd (BitVec.ofNat 64 d)
        retire 4) s
    else .next s
  | _ => .next s

end Sys2Proof.Machine
end

