-- ==== Sys2Proof/Machine/Launch.lean ====
section
/-! DEFINITION. Launches: the packet, the windows' GO, the queue, the choice of the next launch, its start, its
completion, and pre-emption between launches (R21, R22, R277, R286–R301). -/

namespace Sys2Proof.Machine
open Sys2Proof

/-! ## The packet (R21) -/

/-- The fields of a packet, unless it breaks R21. -/
def packetOf (w : BitVec 1024) : Option Packet21 :=
  let q (b : Nat) := bits w.toNat (8 * b) 64
  let m := q 24
  let p : Packet21 :=
    { entry := BitVec.ofNat 64 (q 0), n := BitVec.ofNat 64 (q 8), waitVal := BitVec.ofNat 64 (q 16)
      pairMask := BitVec.ofNat 12 (bits m 52 12), nargs := bits m 47 5, prio := bits m 45 2, sigEn := bits m 44 1 == 1
      waitEn := bits m 43 1 == 1, sigReg := bits m 16 16, waitReg := bits m 0 16
      args := (List.range 24).map (fun j => BitVec.ofNat 32 (bits w.toNat (8 * (32 + 4 * j)) 32)) }
  let pairs := (List.range 12).all (fun i => !p.pairMask.getLsbD i || decide (2 * i + 1 < p.nargs))
  if bits m 32 11 == 0 && decide (p.nargs ≤ 24) && pairs && q 0 % 2 == 0
      && !(p.waitEn && decide (Config.dies ≤ syncHome p.waitReg)) && !(p.sigEn && decide (Config.dies ≤ syncHome p.sigReg))
  then some p else none

/-! ## The queue (R288, R290) -/

/-- A die whose rings take no launch (R300). -/
def State.ringDead (s : State) (ring : Nat) : Bool :=
  (Bank.find s.dropped (ring / 8)).isSome || s.dropping.contains (ring / 8) || s.fullDropped.contains (ring / 8)

/-- The refusal reason of a packet, a dropped die first (R288): 4, 1, 3, 2. -/
def State.refusal (s : State) (ring : Nat) (w : BitVec 1024) (asid : Nat) : Except Nat Packet21 :=
  if s.ringDead ring then .error 4
  else match packetOf w with
    | none => .error 1
    | some p =>
      if asid = 0 ∨ (Bank.find s.spaces asid).isNone then .error 3
      else if 16 ≤ (s.ring ring).queue.length then .error 2
      else .ok p

/-- A refusal is counted in the ring's window (R288). -/
def Ring.refused (g : Ring) (reason : Nat) : Ring :=
  { g with refcnt := if g.refcnt = 0xFFFF then g.refcnt else g.refcnt + 1, lastref := reason }

/-- Submits a packet to a ring: `none` when it is accepted, the reason when it is refused. -/
def State.submit (s : State) (ring : Nat) (w : BitVec 1024) (asid : Nat) (fence : List Instr) : Option Nat × State :=
  match s.refusal ring w asid with
  | .error r => (some r, s.mapRing ring (fun g => g.refused r))
  | .ok p => (none, (s.mapRing ring (fun g =>
      { g with queue := g.queue ++ [{ pkt := p, asid := asid, fence := fence }] })).notify (ring / 8))

/-- A requester's posted writes that are not yet acknowledged (R289). -/
def writeOf (req : Nat) : Instr → Bool
  | .hostBar2Write r _ _ => r.req == req
  | _ => false

/-- A posted write of a requester through either BAR. -/
def postedBy (req : Nat) : Instr → Bool
  | .hostBar2Write r _ _ => r.req == req
  | .valWrite r _ => r == req
  | .addWrite r _ => r == req
  | _ => false

/-- The posted writes of a requester on their way that were sent before step `i`, which they fence (R289, R354, R360). -/
def State.fenceOf (s : State) (req : Nat) (i : Instr) : List Instr :=
  (s.flight.takeWhile (fun j => decide (j ≠ i))).filter (postedBy req)

/-- The host port takes requests: bring-up is complete and the link is up (R382, R389). -/
def State.portUp (s : State) : Bool := s.up && s.hostLink

/-- LAUNCH_GO (R288): the window is snapshotted and submitted behind the requester's earlier writes. -/
def execLaunchGo (req ring : Nat) (s : State) : Host.Outcome State Fault Refusal :=
  let fence := s.fenceOf req (.launchGo req ring)
  let s := s.take (.launchGo req ring)
  if !s.portUp || decide (96 ≤ ring) then .next s
  else
    let w : Window := Bank.get {} s.windows ring
    .next (s.submit ring w.pkt w.asid.toNat fence).2

/-- The rings of a broadcast mask. -/
def maskRings (w : BroadcastWindow) : List Nat :=
  (List.range 96).filter (fun g => if g < 64 then w.maskLo.getLsbD g else w.maskHi.getLsbD (g - 64))

/-- BROADCAST_GO (R287, R288): a mask of zero has no effect. -/
def execBroadcastGo (req : Nat) (s : State) : Host.Outcome State Fault Refusal :=
  let fence := s.fenceOf req (.broadcastGo req)
  let s := s.take (.broadcastGo req)
  let w := s.broadcastWin
  let rs := maskRings w
  if !s.portUp || rs.isEmpty then .next s
  else
    let s := { s with broadcastWin := { w with refrings := 0 } }
    .next (rs.foldl (fun s g =>
      let (r, s) := s.submit g w.pkt w.asid.toNat fence
      if r.isSome then { s with broadcastWin := { s.broadcastWin with refrings := s.broadcastWin.refrings + 1 } } else s) s)

/-- FLUSH (R299): queued launches of the named priorities are removed, counted and logged. -/
def execFlush (ring : Nat) (prios : BitVec 4) (s : State) : Host.Outcome State Fault Refusal :=
  let s := s.take (.flush ring prios)
  let gone := (s.ring ring).queue.filter (fun l => prios.getLsbD l.pkt.prio)
  let s := s.mapRing ring (fun g => { g with queue := g.queue.filter (fun l => !prios.getLsbD l.pkt.prio) })
  .next (gone.foldl (fun s l => s.logEnd ring l.asid 1) s)

/-- LAUNCH_FENCE_CLEAR (R289): the writes before the GO of queue entry `id` have all been acknowledged. -/
def execLaunchFenceClear (ring id : Nat) (s : State) : Host.Outcome State Fault Refusal :=
  match (s.ring ring).queue[id]? with
  | some l =>
    if l.fence.all (fun i => !s.flight.contains i) then
      .next (s.mapRing ring (fun g => { g with queue := g.queue.set id { l with fence := [] } }))
    else .next s
  | none => .next s

/-- LAUNCH_MESSAGE (R294, R295): the agent checks the message, accepts or refuses its packet, and answers. Messages of one
core reach it in the order sent (R189, R296). -/
def execLaunchMessage (m : Msg) (s : State) : Host.Outcome State Fault Refusal :=
  if !m.host && !s.firstOf (sameRoute m.peer m.src m.dst) (.launchMessage m) then .next s else
  let s := s.take (.launchMessage m)
  let ring := m.dst / 8
  let r : Option Nat × State :=
    if s.ringDead ring then (some 4, s.mapRing ring (fun g => g.refused 4))
    else if m.host ∨ m.peer.isSome then (some 6, s.mapRing ring (fun g => g.refused 6))
    else if !m.vec ∨ m.len ≠ 128 then (some 5, s.mapRing ring (fun g => g.refused 5))
    else s.submit ring (m.payload.setWidth 1024) m.asid []
  let s := r.2
  if !m.re then .next s
  else
    let stamp := (s.core m.dst).lts
    let answer := refusalOf m .launchRefused stamp
    match r.1 with
    | some reason => .next (s.sendMsg { answer with payload := BitVec.ofNat 4096 (Cause.launchRefused.code.toNat + reason * 2 ^ 64) })
    | none => .next (s.sendMsg { answer with len := 64, payload := BitVec.ofNat 4096 ((s.ring ring).queue.length * 2 ^ 64) })

/-! ## Selection (R291, R292) -/

/-- A queued launch is ready: its fence is clear and its wait condition holds. -/
def State.launchReady (s : State) (ring : Nat) (l : Launch) : Bool :=
  l.fence.isEmpty && (!l.pkt.waitEn || decide (l.pkt.waitVal ≤ s.mirrorAt (ring / 8) l.pkt.waitReg))

/-- What a ring may start next. -/
inductive Candidate where
  | held (v : SavedRing)
  | queued (l : Launch)
  deriving DecidableEq, Repr

/-- The ready candidate of a level: the launch held there, or the level's head. -/
def State.levelCandidate (s : State) (ring p : Nat) : Option Candidate :=
  let g := s.ring ring
  match g.saved.find? (fun v => v.launch.pkt.prio == p) with
  | some v => some (.held v)
  | none =>
    match g.queue.find? (fun l => l.pkt.prio == p) with
    | some l => if s.launchReady ring l then some (.queued l) else none
    | none => none

/-- The ready candidate of the highest priority, 3 first. -/
def State.candidate (s : State) (ring : Nat) : Option Candidate :=
  [3, 2, 1, 0].findSome? (s.levelCandidate ring)

/-- A ring that may start a launch. -/
def State.ringFree (s : State) (ring : Nat) : Bool :=
  s.up && !s.clockStopped && (s.ring ring).running.isNone && (s.ring ring).stopFor.isNone && !s.ringDead ring
    && (coresOf ring).all (fun n => !(s.core n).fenced)

/-- Kernel entry registers (R22, Table 1.6). -/
def entryRegs (ring : Nat) (p : Packet21) : Bank Word :=
  let arg (j : Nat) : Nat := if j < p.nargs then (p.args.getD j 0).toNat else 0
  let base : Bank Word := []
  let b := Bank.set 0 base 1 p.n
  let b := Bank.set 0 b 2 (BitVec.ofNat 64 ring)
  let b := Bank.set 0 b 3 (BitVec.ofNat 64 (ring * 8))
  let b := Bank.set 0 b 4 (BitVec.ofNat 64 p.prio)
  (List.range 24).foldl (fun b j =>
    let v := if j % 2 = 0 ∧ p.pairMask.getLsbD (j / 2) then arg (j + 1) * 2 ^ 32 + arg j else arg j
    Bank.set 0 b (16 + j) (BitVec.ofNat 64 v)) b

/-- A core of a ring as a launch begins on it (R22, Table 1.3). -/
def Core.launched (n : Nat) (c : Core) (sp : Space) (asid : Nat) (change : Bool) : Core :=
  let c := { Core.idle n c with chans := [], classes := [], lease := 16, chk := true, chkLock := sp.checked, corr := 0, mcfg := 0
                                asid := BitVec.ofNat 16 asid, ptbase := sp.ptbase, l1 := c.l1.filter (fun e => e.2.frozen)
                                overflow := if (Bank.find c.overflow asid).isNone then Bank.put c.overflow asid [] else c.overflow
                                retried := none }
  if change then { c with scratch := [], scratchPoison := [], active := {}, shadowPlane := {} } else c

/-- The Curator allocates a core's dead-message area for an address space, together with its overflow area: 32 KiB of device
HBM, the areas below the capability chain one after another, the control block zero (R369, log 20). -/
def State.giveArea (s : State) (n asid : Nat) : State :=
  if (Bank.find (s.core n).dead asid).isSome then s
  else
    let a := s.capsFrame - Config.deadBytes * (s.areaCount + 1)
    { s.mapCore n (fun c => { c with dead := Bank.put c.dead asid a }) with areaCount := s.areaCount + 1 }.deviceWrite a 64 0 (fun _ => false)

/-- A queued launch starts on its ring's head core (R22, R292). -/
def State.startLaunch (s : State) (ring : Nat) (l : Launch) : State :=
  let sp := Bank.get {} s.spaces l.asid
  let change := (s.ring ring).lastAsid != some l.asid
  let s := (coresOf ring).foldl (fun s n => s.mapCore n (fun c => c.launched n sp l.asid change)) s
  let s := s.mapCore (ring * 8) (fun c => { c with main := { c.main with pc := l.pkt.entry, s := entryRegs ring l.pkt } })
  let s := s.mapRing ring (fun g => { g with running := some l, queue := g.queue.erase l, sqcnt := 0, region := none
                                             lastAsid := some l.asid })
  (coresOf ring).foldl (fun s n => (s.giveArea n l.asid).drainOverflow n l.asid) s

/-- A held launch resumes in its address space (R297, R303). -/
def State.resumeHeld (s : State) (ring : Nat) (v : SavedRing) : State :=
  let sp := Bank.get {} s.spaces v.launch.asid
  let s := s.mapRingCores ring (fun c => { c with asid := BitVec.ofNat 16 v.launch.asid, ptbase := sp.ptbase, chkLock := sp.checked })
  let s := s.mapRing ring (fun g => { g with saved := g.saved.erase v })
  s.resumeRing ring v

/-- LAUNCH_START (R291). -/
def execLaunchStart (ring : Nat) (s : State) : Host.Outcome State Fault Refusal :=
  if !s.ringFree ring then .next s
  else match s.candidate ring with
    | some (.queued l) => .next (s.startLaunch ring l)
    | some (.held v) => .next (s.resumeHeld ring v)
    | none => .next s

/-! ## Completion (R277, R293) -/

/-- The ring thread has executed `trap 0` outside a region, and the Curator has taken the trap. -/
def State.trapZero (s : State) (ring : Nat) : Bool :=
  let c := s.core (ring * 8)
  c.prv && !c.pprv && c.causeCode == Cause.trapInstruction.code && c.tval == 0 && (s.ring ring).region.isNone && c.seq.isNone

/-- Traffic that a ring's running launch issued is on its way to its destination (R293), or an update of a sync register to
its mirrors (R277). -/
def trafficOf (ring : Nat) : Instr → Bool
  | .syncWordCount w _ _ _ => ownTraffic ring w.src w.left none
  | .syncMirrorUpdate _ _ _ => true
  | .combineContribution c => ownTraffic ring c.core c.left none
  | .messageArrival m => ownTraffic ring m.src m.left none && !m.host && m.peer.isNone
  | .mailboxMessage m => ownTraffic ring m.src m.left none
  | .launchMessage m => ownTraffic ring m.src m.left none && !m.host && m.peer.isNone
  | .farAtomicStep r => ownTraffic ring r.src r.left none && r.peer.isNone
  | .remoteStorePacket p => ownTraffic ring p.src p.left none
  | .mmrotPacket p => ownTraffic ring p.src p.left none
  | _ => false

/-- A held item is traffic of a ring's running launch that has not been applied. -/
def heldOf (ring : Nat) : Held → Bool
  | .msg _ => false
  | .far r => ownTraffic ring r.src r.left none && r.peer.isNone
  | .packet p => ownTraffic ring p.src p.left none
  | .count w _ _ _ => ownTraffic ring w.src w.left none

/-- Everything that R277 and R293 ask for before the signal. -/
def State.drained (s : State) (ring : Nat) : Bool :=
  (coresOf ring).all (fun n =>
    let c := s.core n
    c.run.isNone && c.chans.all (fun e => e.2.transfers.all (fun t => !t.runs && t.peers.isEmpty)))
  && !s.flight.any (trafficOf ring) && s.mirrorsDone (ring / 8)
  && (s.peerAsked ring).isEmpty
  && s.cores.all (fun e => !e.2.queue.any (heldOf ring) && e.2.overflow.all (fun a => !a.2.any (heldOf ring)))

/-- A core whose launch has completed: the main context does not return to the kernel, and keeps its registers until the
next launch (R277, R283). -/
def Core.finished (c : Core) : Core :=
  { c with main := { c.main.fresh with wait := none }, run := none, stopReq := false, stopped := false }

/-- LAUNCH_COMPLETE (R293): with everything drained the queues go to overflow, SIGREG rises by 1, and the ring is
free. -/
def execLaunchComplete (ring : Nat) (s : State) : Host.Outcome State Fault Refusal :=
  match (s.ring ring).running with
  | some l =>
    if !s.trapZero ring || !s.drained ring then .next s
    else
      let s := (coresOf ring).foldl (fun s n => (s.queueToOverflow n l.asid).mapCore n Core.finished) s
      let s := if l.pkt.sigEn then s.updateSync (ring / 8) l.pkt.sigReg (s.syncAt l.pkt.sigReg + 1) else s
      .next ((s.mapRing ring (fun g => { g with running := none, stopFor := none, stopped := false, timedOut := false })).notify (ring / 8))
  | none => .next s

/-! ## Pre-emption and the end of launches by the Curator (R297, R298, R365) -/

/-- A ready head of priority above the running launch's: 3 needs no quantum. -/
def State.preemptor (s : State) (ring : Nat) : Option Nat :=
  match (s.ring ring).running with
  | none => none
  | some l => [3, 2, 1].findSome? (fun p =>
      if l.pkt.prio < p then (s.levelCandidate ring p).map (fun _ => p) else none)

/-- QUANTUM_EXPIRY (R297): the ring stops, and once it has stopped its launch is held. A ring that a `ctxsv` is stopping
goes on stopping (R316). -/
def execQuantumExpiry (ring : Nat) (s : State) : Host.Outcome State Fault Refusal :=
  match (s.ring ring).running with
  | none => .next s
  | some l =>
    match (s.ring ring).stopFor with
    | some .command => .next (s.stopTry ring).1
    | stop =>
      if stop.isNone && (s.preemptor ring).isNone then .next s
      else
        let (s, done, _) := (s.beginStop ring .preempt).stopTry ring
        .next (if done then s.holdRing ring (s.captureRing ring l (s.spxt l.asid)) else s)

/-- TIMEOUT_EXPIRY (R298): a launch whose ring has not stopped in time is ended; a `ctxsv` STOP answers 1 (R316). -/
def execTimeoutExpiry (ring : Nat) (s : State) : Host.Outcome State Fault Refusal :=
  let g := s.ring ring
  if g.stopped then .next s
  else match g.stopFor with
    | some .preempt => .next (s.endRunning ring 2)
    | some .command => .next (s.mapRing ring (fun g => { g with timedOut := true }))
    | none => .next s

/-- POLICY_WRITE (R298, Table 17.6). -/
def execPolicyWrite (value : BitVec 64) (s : State) : Host.Outcome State Fault Refusal :=
  let t : BitVec 16 := (value >>> 16).setWidth 16
  .next { s.take (.policyWrite value) with policyTimeout := if t = 0 then 1 else t, policyQuantum := value.setWidth 16 }

/-- END_LAUNCH (Table 23.1): ABORT of the running launch of a priority, or removal of the one held there. A running one
stops first (R318), unless TIMEOUT passes (R298). -/
def execEndLaunch (ring prio : Nat) (s : State) : Host.Outcome State Fault Refusal :=
  let i : Instr := .endLaunch ring prio
  if s.recovery ∨ s.inSequence then .next (s.managed i id)
  else
  let g := s.ring ring
  match g.running with
  | some l =>
    if l.pkt.prio = prio then
      let (s, done, _) := (s.beginStop ring .command).stopTry ring
      if done || (s.ring ring).timedOut then .next ((s.take i).endRunning ring 3) else .next (s.keep i)
    else
      match g.saved.find? (fun v => v.launch.pkt.prio == prio) with
      | some v => .next (((s.take i).mapRing ring (fun g => { g with saved := g.saved.erase v })).logEnd ring v.launch.asid 3)
      | none => .next (s.take i)
  | none =>
    match g.saved.find? (fun v => v.launch.pkt.prio == prio) with
    | some v => .next (((s.take i).mapRing ring (fun g => { g with saved := g.saved.erase v })).logEnd ring v.launch.asid 3)
    | none => .next (s.take i)

/-- A cause for which the Curator waits until its condition is removed (Tables 22.2 and 22.5). -/
def restartable (code : BitVec 7) : Bool :=
  [Cause.fetchTranslation, .loadTranslation, .storeTranslation, .fetchProtection, .loadProtection, .storeProtection,
   .messageOverflow, .writeFrozen, .freezeDepth, .freezeCapacity, .remapFrozen, .uncorrectableCheck].any (fun c => c.code == code)

/-- The Curator has a trap from U in hand on a ring core of a running launch. -/
def State.handling (s : State) (n : Nat) : Bool :=
  let c := s.core n
  isRingCore n && c.prv && !c.pprv && (s.ring (ringOf n)).running.isSome && !(s.ring (ringOf n)).stopped

/-- A breakpoint of an address space marked for debugging (Table 22.2). -/
def State.atBreakpoint (s : State) (n : Nat) : Bool :=
  let c := s.core n
  c.causeCode == Cause.breakpoint.code && (Bank.get {} s.spaces c.asid.toNat).debug

/-- The kind of access whose translation or protection cause a code is (Table 22.5). -/
def restartAccess (code : BitVec 7) : Option Access :=
  [Access.fetch, .load, .store].find? (fun a => a.translation.code == code || a.protection.code == code)

/-- The condition for which a core's trap can restart has been removed (Table 22.5): the address translates and is permitted,
the frame is no longer frozen, the Vitrine has room, the owner's overflow area has room. -/
def State.conditionGone (s : State) (n : Nat) : Bool :=
  let c := s.core n
  let place (acc : Access) := resolveAt s n c.tlb c.asid.toNat c.ptbase.toNat false acc c.tval.toNat
  let roomAt (m : Nat) : Bool := ((Bank.find (s.core m).overflow c.asid.toNat).map (fun l => decide (areaUsed l + 80 ≤ Config.overflowBytes))).getD false
  match restartAccess c.causeCode with
  | some acc =>
    match place acc with
    | .ok _ => true
    | .error f => decide (f.1.code ≠ c.causeCode)
  | none =>
    if c.causeCode = Cause.writeFrozen.code then
      match place .store with
      | .ok (.hbm pa, _) => decide (s.frame pa ≠ .frozen)
      | _ => true
    else if c.causeCode = Cause.messageOverflow.code then
      match place .store with
      | .ok (.hbm pa, _) => roomAt (s.owner (.hbm pa))
      | .ok (.own _ _, _) => roomAt n
      | .ok (.remote m _ _, _) => roomAt m
      | _ => true
    else if c.causeCode = Cause.freezeDepth.code then
      s.vit.all (fun e => !(e.2.live && e.2.asid == c.asid.toNat && e.2.base == c.tval.toNat && e.2.depth == 15))
    else decide ((s.vit.filter (fun e => e.2.live)).length < vitrineSize)

/-- The trap that the Curator has in hand is one that its fault policy answers (Table 22.2): neither a launch's end nor a
breakpoint of an address space marked for debugging. -/
def State.inPolicy (s : State) (n : Nat) : Bool := s.handling n && !(n % 8 == 0 && s.trapZero (ringOf n)) && !s.atBreakpoint n

/-- The fault policy of a core's address space ends a launch at a translation or protection cause (Table 22.2). -/
def State.waitsNot (s : State) (n : Nat) : Bool :=
  let c := s.core n
  (restartAccess c.causeCode).isSome && !(Bank.get {} s.spaces c.asid.toNat).waits

/-- The Curator returns from the trap: from an uncorrectable check once for the instruction, from another cause that can
restart once its condition is removed (Table 22.2). -/
def State.policyReturns (s : State) (n : Nat) : Bool :=
  let c := s.core n
  s.inPolicy n &&
    if c.causeCode = Cause.uncorrectableCheck.code then decide (c.retried ≠ some c.epc)
    else restartable c.causeCode && !s.waitsNot n && s.conditionGone n

/-- A trap that ends its launch without waiting (Table 22.2). -/
def State.endsAtOnce (s : State) (n : Nat) : Bool :=
  let c := s.core n
  s.inPolicy n && !s.policyReturns n &&
    (c.causeCode == Cause.uncorrectableCheck.code || !restartable c.causeCode || s.waitsNot n)

/-- FAULT_POLICY_WAIT_LIMIT (R365): the Curator returns from a trap whose condition is removed, and ends the launch of one
that it does not wait for, or whose wait has a limit, which has passed. -/
def execFaultPolicyWaitLimit (core : Nat) (s : State) : Host.Outcome State Fault Refusal :=
  let s := s.take (.faultPolicyWaitLimit core)
  let c := s.core core
  if s.policyReturns core then
    .next ((s.mapCore core (fun c => { c with retried := if c.causeCode = Cause.uncorrectableCheck.code then some c.epc else c.retried })).eretOn core)
  else if s.inPolicy core && (s.endsAtOnce core || (Bank.get {} s.spaces c.asid.toNat).limited) then
    match (s.ring (ringOf core)).running with
    | some l => .next (s.keep (.endLaunch (ringOf core) l.pkt.prio))
    | none => .next s
  else .next s

end Sys2Proof.Machine
end

