-- ==== Sys2Proof/Machine/Port.lean ====
section
/-! DEFINITION. The host port and the UALink stations: the control BAR's registers, accesses through BAR2, the host
window, mailboxes, the send window, the sync-register window, peer traffic, and the capability chain
(R8, R9, R286, R287, R349–R360). -/

namespace Sys2Proof.Machine
open Sys2Proof

/-! ## Records and answers -/

def State.reply (s : State) (a : Answer) : State := { s with answers := s.answers ++ [a] }

/-! ## MSI-X (R349) -/

/-- A word of the MSI-X table; a vector control word is masked until it is written (log 47). -/
def State.msixWord (s : State) (i : Nat) : Word := (Bank.find s.msix i).getD (if i % 2 = 0 then 0 else 0x100000000)

/-- A vector is raised: its message is sent, or it is pending while masked. -/
def State.raiseVec (s : State) (v : Nat) : State :=
  if (s.msixWord (2 * v + 1)).getLsbD 32 then { s with msixPending := s.msixPending ||| BitVec.twoPow 64 v } else s.reply (.msix v)

/-- A table word is written; a pending vector that is no longer masked is sent. -/
def State.writeMsix (s : State) (i : Nat) (v : Word) : State :=
  let s := { s with msix := Bank.put s.msix i (if i % 2 = 0 then v else v &&& 0x1FFFFFFFF) }
  let n := i / 2
  if s.msixPending.getLsbD n && !(s.msixWord (2 * n + 1)).getLsbD 32 then
    ({ s with msixPending := s.msixPending &&& ~~~BitVec.twoPow 64 n }).reply (.msix n)
  else s

/-! ## Registers of the control BAR (Table 21.1) -/

/-- Word `i` of a buffer replaced. -/
def putWord {w : Nat} (x : BitVec w) (i : Nat) (v : Word) : BitVec w :=
  (x &&& ~~~BitVec.ofNat w (maskBits (64 * i) 64)) ||| BitVec.ofNat w (v.toNat * 2 ^ (64 * i))

/-- Word `i` of a buffer. -/
def getWord {w : Nat} (x : BitVec w) (i : Nat) : Word := BitVec.ofNat 64 (bits x.toNat (64 * i) 64)

/-- A write to a register without behaviour of its own; every other offset ignores it. -/
def State.controlWrite (s : State) (off : Nat) (v : Word) : State :=
  let o := off % 256
  if off % 8 ≠ 0 then s
  else if 0x10000 ≤ off ∧ off < 0x16000 then
    let g := (off - 0x10000) / 256
    let w : Window := Bank.get {} s.windows g
    if o < 0x80 then { s with windows := Bank.put s.windows g { w with pkt := putWord w.pkt (o / 8) v } }
    else if o = 0x80 then { s with windows := Bank.put s.windows g { w with asid := v.setWidth 16 } }
    else s
  else if 0x18000 ≤ off ∧ off < 0x18100 then
    let w := s.broadcastWin
    if o < 0x80 then { s with broadcastWin := { w with pkt := putWord w.pkt (o / 8) v } }
    else if o = 0x80 then { s with broadcastWin := { w with asid := v.setWidth 16 } }
    else if o = 0x88 then { s with broadcastWin := { w with maskLo := v } }
    else if o = 0x90 then { s with broadcastWin := { w with maskHi := v.setWidth 32 } }
    else s
  else if 0x21000 ≤ off ∧ off < 0x21060 then
    let w := s.sendWin
    if o < 0x40 then { s with sendWin := { w with pay := putWord w.pay (o / 8) v } }
    else if o = 0x40 then { s with sendWin := { w with dest := v } }
    else if o = 0x48 then { s with sendWin := { w with asid := v.setWidth 16 } }
    else s
  else if off = 0x22000 then { s with syncSel := v.setWidth 16 }
  else if 0x30000 ≤ off ∧ off < 0x30400 then s.writeMsix ((off - 0x30000) / 8) v
  else s

/-- STAT of a ring's launch window (Table 17.1). -/
def Ring.stat (g : Ring) : Word :=
  let held := g.saved.foldl (fun m v => m ||| 2 ^ v.launch.pkt.prio) 0
  let run := match g.running with | some l => 2 ^ 23 + l.pkt.prio * 2 ^ 21 | none => 0
  BitVec.ofNat 64 (g.refcnt.toNat * 2 ^ 48 + g.lastref * 2 ^ 44 + g.abtcnt.toNat * 2 ^ 32 + held * 2 ^ 24 + run + g.queue.length * 2 ^ 16)

/-- What a read of the control BAR returns; the host's reads have no step of their own, and this is what they observe
(R286, R349, R352, R354, R360). -/
def State.controlRead (s : State) (off : Nat) : Word :=
  let o := off % 256
  if off % 8 ≠ 0 then 0
  else if off = 0x100 then s.apbase.setWidth 64 <<< 30
  else if 0x10000 ≤ off ∧ off < 0x16000 then
    let w : Window := Bank.get {} s.windows ((off - 0x10000) / 256)
    if o < 0x80 then getWord w.pkt (o / 8)
    else if o = 0x80 then w.asid.setWidth 64
    else if o = 0x98 then (s.ring ((off - 0x10000) / 256)).stat
    else 0
  else if 0x18000 ≤ off ∧ off < 0x18100 then
    let w := s.broadcastWin
    if o < 0x80 then getWord w.pkt (o / 8)
    else if o = 0x80 then w.asid.setWidth 64
    else if o = 0x88 then w.maskLo
    else if o = 0x90 then w.maskHi.setWidth 64
    else if o = 0xA0 then BitVec.ofNat 64 w.refrings
    else 0
  else if off = 0x19000 then (s.policyTimeout.setWidth 64 <<< 16) ||| s.policyQuantum.setWidth 64
  else if 0x20000 ≤ off ∧ off < 0x20800 then
    let m : Mailbox := Bank.get {} s.mailboxes ((off - 0x20000) / 32)
    match off % 32 with
    | 0 => m.base.setWidth 64 <<< 12
    | 8 => BitVec.ofNat 64 (m.vec.toNat * 2 ^ 26 + bit m.ien * 2 ^ 17 + bit m.isOpen * 2 ^ 16 + m.slots.toNat)
    | 16 => m.prod.setWidth 64
    | _ => m.cons.setWidth 64
  else if 0x21000 ≤ off ∧ off < 0x21060 then
    let w := s.sendWin
    if o < 0x40 then getWord w.pay (o / 8)
    else if o = 0x40 then w.dest
    else if o = 0x48 then w.asid.setWidth 64
    else if o = 0x58 then (w.snderr.setWidth 64 <<< 32) ||| w.sent.setWidth 64
    else 0
  else if off = 0x22000 then s.syncSel.setWidth 64
  else if off = 0x22018 then s.syncOld
  else if 0x30000 ≤ off ∧ off < 0x30400 then s.msixWord ((off - 0x30000) / 8)
  else if off = 0x30800 then s.msixPending
  else 0

/-- REGISTER_WRITE (R286, R287, R354, R360). -/
def execRegisterWrite (off : Nat) (value : BitVec 64) (s : State) : Host.Outcome State Fault Refusal :=
  let s := s.take (.registerWrite off value)
  .next (if s.portUp then s.controlWrite off value else s)

/-- Bits of APBASE that read as zero at a BAR2 size (R349). -/
def apbaseMask (bar2 : Nat) (v : BitVec 10) : BitVec 10 := v >>> (bar2 - 30) <<< (bar2 - 30)

/-- APBASE_WRITE (R349). -/
def execApbaseWrite (value : BitVec 64) (s : State) : Host.Outcome State Fault Refusal :=
  let s := s.take (.apbaseWrite value)
  .next (if s.portUp then { s with apbase := apbaseMask s.bar2 ((value >>> 30).setWidth 10) } else s)

/-- BAR2_RESIZE (R349): sizes from 1 GiB to 1 TiB. -/
def execBar2Resize (log2Size : Nat) (s : State) : Host.Outcome State Fault Refusal :=
  let s := s.take (.bar2Resize log2Size)
  .next (if s.portUp && decide (30 ≤ log2Size) && decide (log2Size ≤ 40) then
    ({ s with bar2 := log2Size, apbase := apbaseMask log2Size s.apbase }).fillCaps else s)

/-- LINK_RETRAINING (R349, R359). -/
def execLinkRetraining (width speed : Nat) (s : State) : Host.Outcome State Fault Refusal :=
  let s := s.take (.linkRetraining width speed)
  .next (if s.portUp && [4, 8, 16].contains width && [5, 6, 7].contains speed then
    ({ s with linkWidth := width, linkSpeed := speed }).fillCaps else s)

/-! ## What waits at the port behind posted writes (R289, R354, R360) -/

/-- A held operation is performed. -/
def State.portPerform (s : State) : PortOp → State
  | .message m => s.launchOrSend m
  | .syncSet y v => s.updateSync (syncHome y) y v
  | .syncAdd y v => ({ s with syncOld := s.syncAt y }).updateSync (syncHome y) y (s.syncAt y + v)

/-- Held operations whose writes have all been acknowledged are performed, oldest first. -/
def State.releasePort (s : State) : State :=
  let go (h : PortHeld) : Bool := h.fence.all (fun i => !s.flight.contains i)
  (s.portHeld.filter go).foldl (fun s h => s.portPerform h.op) { s with portHeld := s.portHeld.filter (fun h => !go h) }

/-- An operation enters the port behind its requester's posted writes. -/
def State.portHold (s : State) (req : Nat) (fence : List Instr) (op : PortOp) : State :=
  ({ s with portHeld := s.portHeld ++ [PortHeld.mk req fence op] }).releasePort

/-- The port or a station holds an access that came just now; one that it holds already stays on its way. Each held access
has a number of its own (log 69). -/
def State.holdAt (s : State) (i : Instr) (held : Nat → Instr) : State :=
  if s.flight.contains i then s else { s.post (held s.portSeq) with portSeq := s.portSeq + 1 }

/-- AER logs an error of the host port (R342, R349, R380, log 70). -/
def State.logAer (s : State) (r : AerRecord) : State := { s with aer := s.aer ++ [r] }

/-! ## BAR2 (R349, R350) -/

/-- Posted writes of a requester that were sent before step `i`. -/
def State.writesBefore (s : State) (req : Nat) (i : Instr) : List Instr :=
  (s.flight.takeWhile (fun j => decide (j ≠ i))).filter (writeOf req)

/-- The device address of a BAR2 offset. -/
def State.barAddr (s : State) (off : Nat) : Nat := s.apbase.toNat * 2 ^ 30 + off

/-- The lines of a device range. -/
def linesOf (pa n : Nat) : List Nat := (List.range ((pa + n + 127) / 128 - pa / 128)).map (pa / 128 + ·)

/-- A host or peer read waits: a commit holds a line locked (R222), or a die's Annex holds writes of one that its home does
not yet hold (R328). -/
def State.readBusy (s : State) (pa n : Nat) : Bool :=
  (linesOf pa n).any (fun l => s.lockedBy (.hbm l) none || !s.readableFor none l)

/-- A read of a device range by the host or a peer meets the errors of its lines (R377, R379). -/
def State.meetRange (s : State) (pa n : Nat) : State := s.meet (fun x => (linesOf pa n).any (fun l => inLine l x))

/-- HOST_BAR2_READ (R350, R380): it passes no earlier posted write of its requester. APBASE gives its place when it arrives
(R349). -/
def execHostBar2Read (req : PortReq) (off len : Nat) (s : State) : Host.Outcome State Fault Refusal :=
  let i : Instr := .hostBar2Read req off len
  let pa := (req.held.map (·.2)).getD (s.barAddr off)
  let refused := ((s.take i).logAer (.unsupportedRequest req.req off len)).reply (.unsupported req.req)
  if !s.portUp || (req.held.isNone && decide (2 ^ s.bar2 < off + len)) then .next refused
  else if s.hbmLimit < pa + len then .next (refused.logRefused 1 pa)
  else if !(s.writesBefore req.req i).isEmpty || s.readBusy pa len then
    .next (s.holdAt i (fun k => .hostBar2Read { req with held := some (k, pa) } off len))
  else
    let s := (s.take i).meetRange pa len
    let bad := poisoned s.poison pa len
    let s := if bad then s.logAer (.poisonedTlp req.req off len) else s
    .next (s.reply (.bytes req.req (bytesOf (s.deviceBytes pa len) len) bad))

/-- A line of a host or peer write cannot be written yet: its frame is being sealed or collected, or it is changing
hands. -/
def State.lineBusy (s : State) (line : Nat) : Bool :=
  decide (s.frame (line * 128) = .sealing) || decide (s.frame (line * 128) = .collecting)
    || (decide (s.frame (line * 128) = .plain) && !s.settled line)

/-- A BAR2 write to a line of a device range. -/
def State.writesLine (s : State) (pa len : Nat) : Instr → Bool
  | .hostBar2Write r o d =>
    (linesOf ((r.held.map (·.2)).getD (s.barAddr o)) d.length).any (fun l => (linesOf pa len).contains l)
  | _ => false

/-- Host data written to device memory, line by line; what a frozen frame does not take, or lies above device HBM, is
discarded and logged (Table 19.9, R349). -/
def State.hostWrite (s : State) (pa : Nat) (data : List (BitVec 8)) : State :=
  let v := pack 8 (data.map (·.toNat))
  (linesOf pa data.length).foldl (fun s line =>
    let lo := Nat.max pa (line * 128)
    let hi := Nat.min (pa + data.length) (line * 128 + 128)
    if s.hbmLimit ≤ lo then s.logRefused 1 lo
    else if s.frame lo = .frozen then s.logRefused 0 lo
    else s.deviceWrite lo (hi - lo) (v / 2 ^ (8 * (lo - pa))) (fun _ => false)) s

/-- What AER logs of a host write that is not taken whole (R342, R349). -/
def State.writeAer (s : State) (req off pa len : Nat) : State :=
  let lines := linesOf pa len
  let s := if lines.any (fun l => decide (s.hbmLimit ≤ l * 128)) then s.logAer (.unsupportedRequest req off len) else s
  if lines.any (fun l => decide (l * 128 < s.hbmLimit) && decide (s.frame (l * 128) = .frozen)) then
    s.logAer (.completerAbort req off len)
  else s

/-- HOST_BAR2_WRITE (R350, Table 19.9): one without the relaxed-ordering attribute passes no earlier write of its requester
to the same line. APBASE gives its place when it arrives (R349). -/
def execHostBar2Write (req : PortReq) (off : Nat) (data : List (BitVec 8)) (s : State) :
    Host.Outcome State Fault Refusal :=
  let i : Instr := .hostBar2Write req off data
  let pa := (req.held.map (·.2)).getD (s.barAddr off)
  if !s.portUp || (req.held.isNone && decide (2 ^ s.bar2 < off + data.length)) then .next (s.take i)
  else if (!req.relaxed && (s.writesBefore req.req i).any (s.writesLine pa data.length))
      || (linesOf pa data.length).any (fun l => decide (l * 128 < s.hbmLimit) && s.lineBusy l) then
    .next (s.holdAt i (fun k => .hostBar2Write { req with held := some (k, pa) } off data))
  else .next ((((s.take i).writeAer req.req off pa data.length).hostWrite pa data).releasePort)

/-- HOST_READ_COMPLETION (R351): a load of the host window takes its data, or raises the access-target cause; a copy takes
its bytes, or faults (R170). Poisoned data is poison for both (R380). -/
def execHostReadCompletion (core : Nat) (ask : ReadAsk) (error : Bool) (s : State) : Host.Outcome State Fault Refusal :=
  let s := s.take (.hostReadCompletion core ask false)
  let failed := error || !s.hostLink
  match ask with
  | .context hnd =>
    match ((s.core core).ctx hnd).wait with
    | some (.remoteLoad (.host a) ea rd sz sx) =>
      let n := 2 ^ sz.toNat
      onContext core hnd (loadReturns
        (if failed then .error .accessTarget else if poisoned s.hostPoison a n then .error .poisonConsumed
          else .ok (readBytes s.hostMem a n)) ea rd sz sx) s
    | _ => .next s
  | .copy chan tid =>
    match (s.transfer core chan tid).bind (·.fetch) with
    | some (a, none) =>
      if failed then .next (s.stopCopy core chan tid .accessTarget)
      else
        let d := (BitVec.ofNat 1024 (readBytes s.hostMem a (128 - a % 128)), BitVec.ofNat 8 (linePoison s.hostPoison (a / 128) 8))
        .next (s.mapTransfer core chan tid (fun t => { t with fetch := some (a, some d) }))
    | _ => .next s

/-! ## Mailboxes (R352, R353) -/

/-- A class after a write to word `word` of its registers (Table 21.2). -/
def Mailbox.write (m : Mailbox) (word : Nat) (v : Word) : Mailbox :=
  match word with
  | 0 => if m.isOpen then m else { m with base := (v >>> 12).setWidth 52 }
  | 1 =>
    let slots : BitVec 16 := if m.isOpen then m.slots else v.setWidth 16
    let now := v.getLsbD 16 && decide (1 ≤ slots.toNat) && decide (slots.toNat ≤ 4096)
    let m' := { m with vec := (v >>> 26).setWidth 6, ien := v.getLsbD 17, slots := slots, isOpen := now }
    if m.isOpen && !now then { m' with prod := 0, cons := 0 } else if now && !m.isOpen then { m' with seq := 0 } else m'
  | 3 => { m with cons := v.setWidth 32 }
  | _ => m

/-- MAILBOX_CONTROL_WRITE (R352): `word` counts the class's registers from 0. -/
def execMailboxControlWrite (cls word : Nat) (value : BitVec 64) (s : State) : Host.Outcome State Fault Refusal :=
  let s := s.take (.mailboxControlWrite cls word value)
  .next (if s.portUp && decide (cls < 64) then
    { s with mailboxes := Bank.put s.mailboxes cls ((Bank.get {} s.mailboxes cls).write word value) } else s)

/-- Messages of one core to one class. -/
def sameBox (m : Msg) : Instr → Bool
  | .mailboxMessage n => n.src == m.src && n.cls == m.cls
  | _ => false

/-- The slot of a message: a header of 32 bytes and the payload (Table 21.3). -/
def slotBytes (m : Msg) (seq : Word) : Nat :=
  (senderWord m).toNat + m.stamp % 2 ^ 64 * 2 ^ 64 + m.len * 2 ^ 128 + seq.toNat * 2 ^ 192 + m.payload.toNat % 2 ^ (8 * m.len) * 2 ^ 256

/-- MAILBOX_MESSAGE (R353): a closed or full class loses the message to its sender's dead-message area. -/
def execMailboxMessage (m : Msg) (s : State) : Host.Outcome State Fault Refusal :=
  if !s.firstOf (sameBox m) (.mailboxMessage m) then .next s
  else
    let s := s.take (.mailboxMessage m)
    let b : Mailbox := Bank.get {} s.mailboxes m.cls
    if !s.hostLink || !b.isOpen || decide ((b.prod - b.cons).toNat = b.slots.toNat) then
      .next ((s.logRefused 4 m.cls).deadMessage m.src m .messageOverflow 0 0 0 false true)
    else
      let at_ := b.base.toNat * 4096 + 544 * (b.prod.toNat % b.slots.toNat)
      let seq := b.seq + 1
      let s := s.putHost at_ ((bytesOf (slotBytes m seq) (32 + m.len)).map (fun b => (b, false)))
      let s := if b.ien then s.raiseVec b.vec.toNat else s
      .next { s with mailboxes := Bank.put s.mailboxes m.cls { b with prod := b.prod + 1, seq := seq } }

/-! ## The send window (R354) -/

/-- A destination that the window sends to. -/
def sendable (w : Nat) (pkg : Nat) : Bool :=
  destOk w false pkg && bits w 22 1 == 0 && bits w 23 1 == 0 && bits w 24 1 == 0

/-- SEND_WINDOW_GO (R354): the window's message follows its requester's posted writes. -/
def execSendWindowGo (req : Nat) (s : State) : Host.Outcome State Fault Refusal :=
  let fence := s.fenceOf req (.sendWindowGo req)
  let s := s.take (.sendWindowGo req)
  let w := s.sendWin
  if !s.portUp then .next s
  else if !sendable w.dest.toNat s.pkgNo then
    .next { s with sendWin := { w with snderr := if w.snderr = 0xFFFFFFFF then w.snderr else w.snderr + 1 } }
  else
    let m := { messageTo w.dest.toNat 0 w.asid.toNat 0 false 64 (w.pay.setWidth 4096) with host := true }
    .next ({ s with sendWin := { w with sent := w.sent + 1 } }.portHold req fence (.message m))

/-! ## The sync-register window (R360) -/

/-- A step of the window is a write of a requester. -/
def windowWrite (req : Nat) : Instr → Bool
  | .valWrite r _ => r == req
  | .addWrite r _ => r == req
  | _ => false

/-- A sync operation at the port. -/
def PortOp.isSync : PortOp → Bool
  | .message _ => false
  | .syncSet _ _ => true
  | .syncAdd _ _ => true

/-- SYNC_WINDOW_READ (R360): served once the requester's earlier writes through the window are performed. SEL names the
register when the read arrives. -/
def execSyncWindowRead (req : PortReq) (s : State) : Host.Outcome State Fault Refusal :=
  let i : Instr := .syncWindowRead req
  let y := (req.held.map (·.2)).getD s.syncSel.toNat
  if !s.portUp then .next ((s.take i).reply (.unsupported req.req))
  else if s.portHeld.any (fun h => h.req == req.req && h.op.isSync) || (s.flight.takeWhile (fun j => decide (j ≠ i))).any (windowWrite req.req) then
    .next (s.holdAt i (fun k => .syncWindowRead { req with held := some (k, y) }))
  else if s.noSync y then .next (((s.take i).logRefused 5 y).reply (.value req.req 0))
  else .next ((s.take i).reply (.value req.req (s.syncAt y)))

/-- VAL_WRITE (R360). -/
def execValWrite (req : Nat) (value : BitVec 64) (s : State) : Host.Outcome State Fault Refusal :=
  let fence := s.fenceOf req (.valWrite req value)
  let s := s.take (.valWrite req value)
  let y := s.syncSel.toNat
  if !s.portUp then .next s else if s.noSync y then .next (s.logRefused 5 y) else .next (s.portHold req fence (.syncSet y value))

/-- ADD_WRITE (R360). -/
def execAddWrite (req : Nat) (value : BitVec 64) (s : State) : Host.Outcome State Fault Refusal :=
  let fence := s.fenceOf req (.addWrite req value)
  let s := s.take (.addWrite req value)
  let y := s.syncSel.toNat
  if !s.portUp then .next s else if s.noSync y then .next (s.logRefused 5 y) else .next (s.portHold req fence (.syncAdd y value))

/-! ## Peers (R355–R358) -/

/-- The peer table's entry for a package. -/
def State.peer (s : State) (pkg : Nat) : PeerEntry := Bank.get {} s.peers pkg

/-- An access of a peer is refused, and both sides log it (R356). -/
def State.refusePeer (s : State) (pkg addr : Nat) : State := (s.logRefused 2 addr).reply (.peerError pkg)

/-- The bytes of the peer window that an access names. -/
def accRange : PeerAcc → Nat × Nat
  | .load off len => (off, len)
  | .store _ off data => (off, data.length)
  | .atomic off _ dbl _ _ => (off, if dbl then 8 else 4)

/-- Two ranges of the peer window share a line. -/
def sharesLine (x y : Nat × Nat) : Bool := (linesOf x.1 x.2).any (fun l => (linesOf y.1 y.2).contains l)

/-- Traffic of a core of a peer package to a line of an access's range (R355). -/
def State.peerTraffic (s : State) (pkg core : Nat) (x : Nat × Nat) : Instr → Bool
  | .peerAccess p a => p.pkg == pkg && p.core == core && sharesLine (accRange a) x
  | .farAtomicStep r =>
    r.peer == some pkg && r.src == core && (match r.loc with | .hbm pa => sharesLine (pa - s.exBase, 8) x | _ => false)
  | _ => false

/-- An earlier access of the same peer core to a line of the range is not yet performed (R355). -/
def State.peerWaits (s : State) (pkg core : Nat) (x : Nat × Nat) (i : Instr) : Bool :=
  (s.flight.takeWhile (fun j => decide (j ≠ i))).any (s.peerTraffic pkg core x)
    || s.waiting (fun h => match h with | .far r => s.peerTraffic pkg core x (.farAtomicStep r) | _ => false)

/-- Poison of the granule that starts at byte `i` of data stored from `pa`; the first may start below `pa` (R380). -/
def dataPoison (pa : Nat) (data : List (BitVec 8 × Bool)) (i : Nat) : Bool :=
  (List.range (if i = 0 then 16 - pa % 16 else 16)).any (fun k => ((data[i + k]?).map (·.2)).getD false)

/-- PEER_ACCESS (R355, R356, R358, R380). -/
def execPeerAccess (src : PeerSrc) (a : PeerAcc) (s : State) : Host.Outcome State Fault Refusal :=
  let i : Instr := .peerAccess src a
  let pkg := src.pkg
  let hold := s.holdAt i (fun k => .peerAccess { src with held := some k } a)
  let e := s.peer pkg
  let (off, len) := accRange a
  let pa := s.exBase + off
  let ok := e.admitted && decide (off + len ≤ s.exLen) && decide (pa + len ≤ s.hbmLimit)
  let frozen := (linesOf pa len).any (fun l => decide (s.frame (l * 128) = .frozen))
  if !ok then .next ((s.take i).refusePeer pkg off)
  else if s.peerWaits pkg src.core (accRange a) i then .next hold
  else match a with
  | .load _ _ =>
    if s.readBusy pa len then .next hold
    else
      let s := (s.take i).meetRange pa len
      .next (s.reply (.peerData pkg (bytesOf (s.deviceBytes pa len) len) (poisoned s.poison pa len)))
  | .store id _ data =>
    if frozen then .next ((s.take i).refusePeer pkg off)
    else if (linesOf pa len).any s.lineBusy then .next hold
    else .next (((s.take i).deviceWrite pa len (pack 8 (data.map (fun b => b.1.toNat))) (dataPoison pa data)).reply (.peerAck pkg id))
  | .atomic _ fn dbl b cmp =>
    -- a frozen line fails the owner's step (R108)
    if off % len != 0 then .next ((s.take i).refusePeer pkg off)
    else
      let loc : Loc := .hbm pa
      let r : FarReq := { src := src.core, hnd := false, owner := s.owner loc, asid := e.asid, stamp := 0, ea := BitVec.ofNat 64 off,
                          loc := loc, b := b, cmp := cmp, fn := fn, dbl := dbl, reply := true, rd := 0, peer := some pkg }
      .next ((s.take i).post (.farAtomicStep r))

/-- PEER_MESSAGE (R357): it arrives in the address space of the peer table, or is refused where that space has no overflow
area. R356 refuses a message of class 63 to a head core too, before the launch agent that R294 names would count it: DESIGN
CHOICE (log 94). -/
def execPeerMessage (pkg : Nat) (m : Msg) (s : State) : Host.Outcome State Fault Refusal :=
  let s := s.take (.peerMessage pkg m)
  let e := s.peer pkg
  let m := { m with peer := some pkg, host := false, asid := e.asid, toPeer := none, toHost := false }
  let area := (Bank.find (s.core m.dst).overflow e.asid).isSome
  if !e.admitted || decide (Config.allCores ≤ m.dst) || !area then .next (s.refusePeer pkg m.dst)
  else .next (s.launchOrSend m)

/-- A request to a peer package is answered. -/
def State.peerDone (s : State) (id : Nat) : State := { s with peerOut := s.peerOut.filter (fun e => e.1 != id) }

/-- PEER_WRITE_ACK (R356, R358): a store is performed; a refused one is logged, or faults its transfer. -/
def execPeerWriteAck (id : Nat) (refused : Bool) (s : State) : Host.Outcome State Fault Refusal :=
  let s := s.take (.peerWriteAck id refused)
  match s.peerOut.find? (fun e => e.1 == id) with
  | some (_, _, .store _ off _, .copy n ch tid) =>
    let s := s.peerDone id
    match s.transfer n ch tid with
    | none => .next s
    | some t =>
      let k := ((t.peers.find? (fun p => p.1 == id)).map (·.2)).getD 0
      let s := s.mapTransfer n ch tid (fun t => { t with peers := t.peers.filter (fun p => p.1 != id) })
      .next (if refused then (s.logRefused 3 off).stopCopy n ch tid .accessTarget else s.countFor n t k)
  | some (_, _, .store _ off _, _) => .next (if refused then (s.peerDone id).logRefused 3 off else s.peerDone id)
  | _ => .next s

/-- PEER_COMPLETION (R108, R356, R380): read data or an old value comes back, or the access was refused. -/
def execPeerCompletion (id : Nat) (r : PeerReply) (s : State) : Host.Outcome State Fault Refusal :=
  let s := s.take (.peerCompletion id r)
  match s.peerOut.find? (fun e => e.1 == id) with
  | some (_, _, .load off _, .context n h) =>
    let s := s.peerDone id
    match ((s.core n).ctx h).wait with
    | some (.remoteLoad (.peer _ _) ea rd sz sx) =>
      let v : Except Cause Nat := match r with
        | .data d p => if p.getLsbD (off % 128 / 16) then .error .poisonConsumed else .ok (d.toNat % 256 ^ 2 ^ sz.toNat)
        | .failed _ => .error .accessTarget
      onContext n h (loadReturns v ea rd sz sx) s
    | _ => .next s
  | some (_, _, .load _ _, .copy n ch tid) =>
    let s := s.peerDone id
    match r with
    | .data d p => .next (s.mapTransfer n ch tid (fun t => { t with fetch := t.fetch.map (fun f => (f.1, some (d, p))) }))
    | .failed _ => .next (s.stopCopy n ch tid .accessTarget)
  | some (_, _, .atomic _ _ _ _ _, .far q) =>
    let s := s.peerDone id
    let answer : FarAnswer := match r with
      | .data d _ => .old (if q.dbl then d.setWidth 64 else sextWord (d.setWidth 32))
      | .failed c => .failed c
    .next (if q.reply then s.post (.farAtomicReply q answer) else s)
  | _ => .next s

/-- STATION_LOSS (R355, R359): only latency changes, and the chain's live field. -/
def execStationLoss (station : Nat) (s : State) : Host.Outcome State Fault Refusal :=
  let s := s.take (.stationLoss station)
  .next (if decide (station < 8) && s.stations.getLsbD station then
    ({ s with stations := s.stations &&& ~~~BitVec.twoPow 8 station }).fillCaps else s)

end Sys2Proof.Machine
end

