-- ==== Sys2Proof/Machine/Manage.lean ====
section
/-! DEFINITION. Reliability and management: losses and drops of dies, scrubbing, temperature and power, bring-up and
firmware, attestation, the debugger and the logs (R336, R371, R374–R390). -/

namespace Sys2Proof.Machine
open Sys2Proof

/-! ## Loss of a switch die (R336, R382) -/

/-- A step of the Catalogue protocol for a line that `f` names. -/
def protocolOf (f : Nat → Bool) : Instr → Bool
  | .catalogueRd _ l => f l
  | .catalogueRfo _ l => f l
  | .catalogueUpg _ l => f l
  | .evictionNotice _ l => f l
  | .catalogueAnswer _ l _ => f l
  | .forwardedRead _ _ l => f l
  | .invalidate _ l => f l
  | .recallLine _ l => f l
  | .freezeConvert _ l => f l
  | _ => false

/-- A compute die whose two ports both reach lost switch dies (R2, R382). -/
def cutOff (lost : List Nat) (die : Nat) : Bool := lost.contains (die % 4) && lost.contains ((die + 1) % 4)

/-- A copy of a line has mirror writes that are not yet acknowledged. -/
def AnnexLine.unmirrored (a : AnnexLine) : Bool :=
  match a.st with
  | .mp _ => true
  | _ => false

/-- The lost quarter's lines are given up to their homes, its entries start as NONE, and its requests are sent again by
the accesses that wait for them (steps 3 to 5 of Table 19.6). -/
def State.loseQuarter (s : State) (xd : Nat) : State :=
  let lost (line : Nat) : Bool := s.quarterDie line == xd
  let lines := ((s.annex.map (fun e => e.1 % 2 ^ 34)).eraseDups).filter lost
  let t := lines.foldl (fun t l => t.recallAll l) s
  { t with
    annex := t.annex.filter (fun e => !lost (e.1 % 2 ^ 34)), cat := t.cat.filter (fun e => !lost e.1)
    flight := t.flight.filter (fun i => !protocolOf lost i)
    qmap := (List.range 4).foldl (fun b q => if (Bank.find s.qmap q).getD q = xd then Bank.put b q 4 else b) t.qmap
    lostXd := t.lostXd ++ [xd]
    stations := t.stations &&& ~~~(BitVec.twoPow 8 (2 * xd) ||| BitVec.twoPow 8 (2 * xd + 1))
    hostLink := t.hostLink && decide (xd ≠ 0) }

/-- Speculative chunks that do not hold the Ensign are squashed (R224). -/
def State.squashWaiting (s : State) (ring : Nat) : State :=
  match (s.ring ring).region with
  | some r => if !r.assured && (r.find (r.ensignQ + 1)).isSome then s.squashFrom ring (r.ensignQ + 1) else s
  | none => s

/-- A line of the quarter of `xd` is locked by a commit or pinned by a handler's atomic (R222, R335). -/
def State.quarterHeld (s : State) (xd : Nat) : Bool :=
  (s.locks ++ s.pins).any (fun p => match p.1 with
    | .hbm l => s.quarterDie l == xd
    | .scratch _ _ => false)

/-- SWITCH_DIE_LOSS (R336, R382): it waits until no line of the lost quarter has a mirror write pending, is locked or
pinned, and for the end of a compute-drop (R381). A mirror write that is not yet acknowledged stays on its way with its
sequence number. A compute die that is cut off is full-dropped. -/
def execSwitchDieLoss (xd : Nat) (s : State) : Host.Outcome State Fault Refusal :=
  let i : Instr := .switchDieLoss xd
  if 4 ≤ xd ∨ s.lostXd.contains xd then .next (s.take i)
  else if !s.dropping.isEmpty || s.annex.any (fun e => e.2.unmirrored && s.quarterDie (e.1 % 2 ^ 34) == xd) || s.quarterHeld xd then .next (s.keep i)
  else
    let s := (s.take i).loseQuarter xd
    let s := (List.range 96).foldl State.squashWaiting s
    let cut := (List.range 12).filter (fun d => cutOff s.lostXd d && !s.fullDropped.contains d)
    let s := cut.foldl (fun s d => s.keep (.fullDrop d)) s
    .next (if s.up then s.fillCaps else s)

/-! ## Drops of dies (R383, R384, R300) -/

/-- The substitute of a compute-dropped die: the first die after it that is in service. -/
def State.substituteFor (s : State) (d : Nat) : Nat :=
  (((List.range 11).map (fun k => (d + 1 + k) % 12)).find? (fun x =>
    (Bank.find s.dropped x).isNone && !s.fullDropped.contains x)).getD d

/-- Substitutes after a change of the dies in service. -/
def State.setSubstitutes (s : State) : State := { s with dropped := s.dropped.map (fun e => (e.1, s.substituteFor e.1)) }

/-- Queued and held launches of a ring are removed without a signal (R300). -/
def State.removeLaunches (s : State) (ring reason : Nat) : State :=
  let g := s.ring ring
  let gone := g.queue ++ g.saved.map (·.launch)
  gone.foldl (fun s l => s.logEnd ring l.asid reason) (s.mapRing ring (fun g => { g with queue := [], saved := [] }))

/-- The launches of a ring are removed and its running one is ended with ABORT; whether the ring is free (R318, R298). -/
def State.clearRing (s : State) (ring reason : Nat) : State × Bool :=
  let s := s.removeLaunches ring reason
  if (s.ring ring).running.isNone then (s, true)
  else
    let (s, done, _) := (s.beginStop ring .command).stopTry ring
    if done || (s.ring ring).timedOut then (s.endRunning ring reason, true) else (s, false)

/-- The rings of a die. -/
def ringsOf (die : Nat) : List Nat := (List.range 8).map (die * 8 + ·)

/-- The ring cores of a die. -/
def coresOfDie (die : Nat) : List Nat := (List.range 64).map (die * 64 + ·)

/-- A core that is out of service: it keeps its dead-message areas. -/
def Core.off (n : Nat) (c : Core) : Core := { Core.reset n with dead := c.dead, lts := c.lts, fenced := true }

/-- A core of a dropped die is powered off: its far atomics move to the arrival queue of the core that stands in for it, and
everything else that it holds is refused (steps 2 to 4 of Table 23.3). -/
def State.powerOff (s : State) (n : Nat) : State :=
  let c := s.core n
  let m := s.standIn n
  (c.queue ++ c.overflow.flatMap (·.2)).foldl (fun s h =>
    match h with
    | .far r =>
      if m = n then s.refuse n h
      else s.mapCore m (fun c => { c with queue := c.queue ++ [.far { r with owner := m }] })
    | h => s.refuse n h) (s.setCore n (c.off n))

/-- Table 23.3 once the die's rings are free. -/
def State.dropCompute (s : State) (die reason : Nat) : State :=
  let s := ({ s with dropped := Bank.put s.dropped die die, dropping := s.dropping.filter (· != die)
                     restorable := s.restorable.filter (· != die) }).setSubstitutes
  let s := (coresOfDie die).foldl State.powerOff s
  let s := (ringsOf die).foldl (fun s g => s.mapRing g (fun x => { x with lastAsid := none, stopFor := none, stopped := false })) s
  { s with logDrop := s.logDrop ++ [LogRecord.drop die false (s.substitute die) reason] }

/-- COMPUTE_DROP (R383): it begins once no other recovery sequence is under way (R381), and waits until the rings of the die
are free. -/
def execComputeDrop (die : Nat) (s : State) : Host.Outcome State Fault Refusal :=
  let i : Instr := .computeDrop die
  if 12 ≤ die ∨ (Bank.find s.dropped die).isSome ∨ s.fullDropped.contains die ∨ s.recovery then .next (s.take i)
  else if s.inSequence && !s.dropping.contains die then .next (s.keep i)
  else
    let s := if s.dropping.contains die then s else { s with dropping := s.dropping ++ [die] }.notify die
    let (s, free) := (ringsOf die).foldl (fun (p : State × Bool) g =>
      let (s, b) := p.1.clearRing g 4
      (s, p.2 && b)) (s, true)
    if !free then .next (s.keep i)
    else .next ((s.take i).dropCompute die (bit ((coresOfDie die).any (fun n => (s.core n).fenced))))

/-- Steps that a full-drop leaves on their way: those of the management and the host's registers. -/
def outlivesDrop : Instr → Bool
  | .haltEvent _ => true
  | .registerWrite _ _ => true
  | .apbaseWrite _ => true
  | .policyWrite _ => true
  | .launchGo _ _ => true
  | .broadcastGo _ => true
  | .flush _ _ => true
  | .mailboxControlWrite _ _ _ => true
  | .sendWindowGo _ => true
  | .syncWindowRead _ => true
  | .valWrite _ _ => true
  | .addWrite _ _ => true
  | .switchDieLoss _ => true
  | .stationLoss _ => true
  | .computeDrop _ => true
  | .fullDrop _ => true
  | .temperatureReport _ _ => true
  | .powerBudget _ _ => true
  | .securityCounter _ => true
  | .spdmRequest _ => true
  | .readLog _ _ => true
  | .clearLog _ => true
  | .restoreDie _ => true
  | .powerLimit _ => true
  | .moduleReset => true
  | .bar2Resize _ => true
  | .linkRetraining _ _ => true
  | .firmwareImageUpdate _ => true
  | _ => false

/-- A core after a full-drop: a ring core starts afresh, a Curator core keeps its contexts. -/
def Core.afterDrop (n : Nat) (c : Core) : Core :=
  if isRingCore n then { Core.reset n with lts := c.lts, fenced := c.fenced }
  else { c with l1 := [], icache := [], tlb := [], queue := [], overflow := [], dead := [] }

/-- Memory of the whole package discarded, with the home map of the surviving dies (steps 2 and 3 of R384). -/
def State.discardMemory (s : State) : State :=
  { s with
    hbm := [], wts := [], rts := [], poison := [], homeMap := [], striped := [], locks := [], pins := [], annex := [], cat := [], slices := []
    mirrorSeq := [], mirrorDone := [], frames := [], vit := [], tickets := [], sync := [], mirror := [], combine := [], shoots := []
    images := [], spaces := [], corrections := [], bitErrors := [], tagErrors := [], areaCount := 0, peerOut := [], portHeld := [] }

/-- Host accesses in progress complete with errors (step 1). -/
def failedReads : List Instr → List Answer
  | [] => []
  | .hostBar2Read r _ _ :: t => .unsupported r.req :: failedReads t
  | .peerAccess p _ :: t => .peerError p.pkg :: failedReads t
  | _ :: t => failedReads t

/-- FULL_DROP (R384). It waits for the end of another recovery sequence (R381). The Curators have the event (R200), and the
new capacity is reported to the host. -/
def execFullDrop (die : Nat) (s : State) : Host.Outcome State Fault Refusal :=
  let i : Instr := .fullDrop die
  if 12 ≤ die ∨ s.fullDropped.contains die ∨ s.recovery then .next (s.take i)
  else if s.inSequence then .next (s.keep i)
  else
    let s := s.take i
    let s := (List.range 96).foldl (fun s g =>
      let s := s.removeLaunches g 4
      match (s.ring g).running with
      | some l => s.logEnd g l.asid 4
      | none => s) s
    let s := { s with
      answers := s.answers ++ failedReads s.flight, flight := s.flight.filter outlivesDrop
      fullDropped := s.fullDropped ++ [die], dropped := Bank.erase s.dropped die, dropping := s.dropping.filter (· != die)
      rings := s.rings.map (fun (e : Nat × Ring) => (e.1, { refcnt := e.2.refcnt, lastref := e.2.lastref, abtcnt := e.2.abtcnt }))
      cores := s.cores.map (fun (e : Nat × Core) => (e.1, e.2.afterDrop e.1)) }
    let s := (s.discardMemory).setSubstitutes
    let s := (coresOfDie die ++ [Config.ringCores + die]).foldl (fun s n => s.mapCore n (Core.off n)) s
    let s := { s with logDrop := s.logDrop ++ [LogRecord.drop die true die 0] }
    let s := s.survivors.foldl State.notify (s.reply (.capacity s.hbmLimit))
    .next (if s.up then s.fillCaps else s)

/-- RESTORE_DIE (R383): after a module reset, and when the die passes the bring-up tests. -/
def execRestoreDie (die : Nat) (s : State) : Host.Outcome State Fault Refusal :=
  .next (s.managed (.restoreDie die) (fun s =>
    if s.restorable.contains die && !s.faultyCompute.contains die && (Bank.find s.dropped die).isSome then
      let s := ({ s with dropped := Bank.erase s.dropped die, restorable := s.restorable.filter (· != die) }).setSubstitutes
      ((coresOfDie die).foldl (fun s n => s.mapCore n (fun c => { c with fenced := false })) s).notify die
    else s))

/-! ## Scrubbing and reports (R377–R379, R388) -/

/-- PATROL_SCRUB (R377, R378): the scrubber reads a place, which corrects or poisons what it meets there and raises no
cause; a place without an error stays as it is. -/
def execPatrolScrub (loc : Loc) (s : State) : Host.Outcome State Fault Refusal :=
  .next ((s.take (.patrolScrub loc)).meet (fun l => decide (l = loc)))

/-- FRAME_REPORT (R379). -/
def execFrameReport (frame : Nat) (s : State) : Host.Outcome State Fault Refusal :=
  let s := s.take (.frameReport frame)
  if 64 ≤ Bank.get 0 s.corrections frame then
    .next ({ s with reported := s.reported ++ [frame], corrections := Bank.set 0 s.corrections frame 0 }.logMachineEvent
      (s.homeOf (frame * 65536)) 5 (frame * 65536))
  else .next s

/-- All launches end (R388): queued and held ones are removed, counted and logged, and running ones are asked to end. -/
def State.endAll (s : State) : State :=
  (List.range 96).foldl (fun s g =>
    let s := s.removeLaunches g 3
    match (s.ring g).running with
    | some l => s.keep (.endLaunch g l.pkt.prio)
    | none => s) s

/-- TEMPERATURE_REPORT (R388): how far the budget falls at 95 °C is open (log 2). At each threshold the die's Curator has the
event (R200). -/
def execTemperatureReport (die celsius : Nat) (s : State) : Host.Outcome State Fault Refusal :=
  let s := s.take (.temperatureReport die celsius)
  if 12 ≤ die then .next s
  else
    let s := { s with temperature := Bank.set 0 s.temperature die celsius }
    let b := Bank.get 0 s.budget die
    let s := if 95 ≤ celsius ∧ 0 < b then
        let (k, s) := s.choose b
        { s with budget := Bank.set 0 s.budget die k }
      else s
    let cool := s.halfRate.filter (· != die)
    let s := { s with halfRate := if 105 ≤ celsius then cool ++ [die] else cool }
    let s := if 95 ≤ celsius then s.notify die else s
    if 115 ≤ celsius then .next (({ s with clockStopped := true }.endAll).logMachineEvent die 4 celsius) else .next s

/-- POWER_BUDGET (R390): the dies' budgets together stay within the cap. -/
def execPowerBudget (die watts : Nat) (s : State) : Host.Outcome State Fault Refusal :=
  let s := s.take (.powerBudget die watts)
  let others := (s.budget.filter (fun e => e.1 != die)).foldl (fun n e => n + e.2) 0
  .next (if die < 12 then { s with budget := Bank.set 0 s.budget die (Nat.min watts (s.powerCap - others)) }.notify die else s)

/-- POWER_LIMIT (Table 23.1, R390): 1,200–2,600 W. -/
def execPowerLimit (watts : Nat) (s : State) : Host.Outcome State Fault Refusal :=
  .next (s.managed (.powerLimit watts) (fun s => if 1200 ≤ watts ∧ watts ≤ 2600 then { s with powerCap := watts } else s))

/-! ## Bring-up and firmware (R386, R387, R389) -/

/-- The signed header of an image: its kind, security version, length and body digest (R386). -/
def imageHeader (i : FirmwareImage) : List Nat := [bit i.curator, i.version, i.length, i.digest]

/-- An image may run (R386): the signature over its header is good, its body has the digest of the header, and its security
version is not below the fused counter. -/
def State.imageOk (s : State) (i : FirmwareImage) : Bool :=
  Config.signatureGood (imageHeader i) i.signature && Config.bodyDigest i.body == i.digest && decide (s.security ≤ i.version)
    && decide (i.version < 64)

/-- Dies that fail their tests are dropped (step 4 of R389). -/
def State.bringUpTests (s : State) : State :=
  let full := (List.range 12).filter (fun d => s.faultyMemory.contains d && !s.fullDropped.contains d)
  let s := { s with fullDropped := s.fullDropped ++ full, dropped := full.foldl Bank.erase s.dropped }
  let comp := (List.range 12).filter (fun d => s.faultyCompute.contains d && !s.fullDropped.contains d && (Bank.find s.dropped d).isNone)
  let s := ({ s with dropped := comp.foldl (fun b d => Bank.put b d d) s.dropped }).setSubstitutes
  { s with logDrop := s.logDrop ++ full.map (fun d => LogRecord.drop d true d 2) ++ comp.map (fun d => LogRecord.drop d false (s.substitute d) 2) }

/-- Cores of dies out of service are off. -/
def State.offCores (s : State) : State :=
  let dead := s.dropped.flatMap (fun e => coresOfDie e.1) ++ s.fullDropped.flatMap (fun d => coresOfDie d ++ [Config.ringCores + d])
  dead.foldl (fun s n => s.mapCore n (Core.off n)) s

/-- POWER_ON (R389): images that fail leave the package in recovery. The Curator sets the package's number, its peer
window and its peer table, and the chain shows them (R355, R356, R8). -/
def execPowerOn (s : State) : Host.Outcome State Fault Refusal :=
  let s := s.take .powerOn
  if s.up ∨ s.recovery then .next s
  else if !(s.imageOk s.registrarImage && s.imageOk s.curatorImage) then .next { s with recovery := true }
  else
    let s := s.bringUpTests
    let s := { s with
      cores := s.cores.map (fun (e : Nat × Core) => (e.1, { e.2 with scratch := [], scratchPoison := [], active := {}, shadowPlane := {} }))
      rings := s.rings.map (fun (e : Nat × Ring) => (e.1, { e.2 with lastAsid := none }))
      homeMap := [], striped := [], qmap := [], vit := [], pkgNo := s.pkgAssigned, machineError := false, up := true
      exBase := s.exAssigned.1 * 0x20000000, exLen := s.exAssigned.2 * 0x20000000, peers := s.peersAssigned }
    .next (s.offCores).fillCaps

/-- FIRMWARE_IMAGE_UPDATE (R386): only in recovery; with both images good the bring-up may go on. -/
def execFirmwareImageUpdate (img : FirmwareImage) (s : State) : Host.Outcome State Fault Refusal :=
  let s := s.take (.firmwareImageUpdate img)
  if !s.recovery || !s.imageOk img then .next s
  else
    let s := if img.curator then { s with curatorImage := img } else { s with registrarImage := img }
    .next (if s.imageOk s.registrarImage && s.imageOk s.curatorImage then { s with recovery := false } else s)

/-- SECURITY_COUNTER (R386): after 24 hours without a machine error it rises to the version of an image that runs; an error
in them begins the hours again. -/
def execSecurityCounter (version : Nat) (s : State) : Host.Outcome State Fault Refusal :=
  let s := s.take (.securityCounter version)
  .next (if s.machineError then { s with machineError := false }
    else if s.up && (version == s.registrarImage.version || version == s.curatorImage.version) && decide (version < 64) then
    { s with security := Nat.max s.security version } else s)

/-- MODULE_RESET (R382, R383): power-on state again, but for what is fused, stored or outside the module. -/
def execModuleReset (s : State) : Host.Outcome State Fault Refusal :=
  let r := State.reset
  .next { r with
    agenda := s.agenda, choice := s.choice, choices := s.choices, hostMem := s.hostMem, hostPoison := s.hostPoison, pkgAssigned := s.pkgAssigned, answers := s.answers, dropped := s.dropped
    exAssigned := s.exAssigned, peersAssigned := s.peersAssigned
    fullDropped := s.fullDropped, restorable := s.dropped.map (·.1), faultyCompute := s.faultyCompute, faultyMemory := s.faultyMemory
    logMachine := s.logMachine, logLaunch := s.logLaunch, logRefusal := s.logRefusal, logDrop := s.logDrop, logDead := s.logDead
    security := s.security, registrarImage := s.registrarImage, curatorImage := s.curatorImage, recovery := s.recovery }

/-- A drop record as numbers. -/
def recordWords : LogRecord → List Nat
  | .drop d f sub r => [d, bit f, sub, r]
  | _ => []

/-- What a measurement block measures (Table 23.5). Block 4 changes only with an image or a fuse: the lock policy is the
Curator image's. -/
def State.measured (s : State) (block : Nat) : List Nat :=
  match block with
  | 2 => imageHeader s.registrarImage ++ [s.registrarImage.body]
  | 3 => imageHeader s.curatorImage ++ [s.curatorImage.body]
  | 4 => [s.security, s.curatorImage.digest]
  | 5 => s.logDrop.flatMap recordWords ++ s.homeMap.map (·.2)
  | 6 => s.capWords
  | _ => []

/-- The answer to an SPDM request (R387): a signed measurement, the certificate chain of slot 0, a signed challenge. -/
def State.attest (s : State) : SpdmReq → Option Answer
  | .measurement block nonce =>
    if 1 ≤ block ∧ block ≤ 6 then
      let d := Config.spdmDigest block (s.measured block)
      some (.measurement block d (Config.spdmSignature [block, nonce, d.toNat]))
    else none
  | .certificate slot => if slot = 0 then some (.certificate Config.certificateChain) else none
  | .challenge slot nonce =>
    if slot = 0 then
      let d := Config.spdmDigest 0 [Config.certificateChain]
      some (.challenge d (Config.spdmSignature [0, nonce, d.toNat]))
    else none

/-- SPDM_REQUEST (R387). -/
def execSpdmRequest (req : SpdmReq) (s : State) : Host.Outcome State Fault Refusal :=
  .next (s.managed (.spdmRequest req) (fun s => match s.attest req with
    | some a => s.reply a
    | none => s))

/-! ## The debugger (R371, R381) -/

/-- The main context stands at a point where a debugger may stop it (Table 18.6). -/
def Core.atHalt (c : Core) : Bool :=
  c.run.isNone && !c.fenced &&
    match c.main.wait with
    | some .halt => true
    | some w => !c.prv && !w.mustEnd
    | none => !c.prv

/-- The chunk of a core is speculative and holds the Ensign: the step of R187 comes before its stop (Table 18.6). -/
def State.stepsFirst (s : State) (n : Nat) : Bool :=
  match s.chunkOn n, (s.ring (ringOf n)).region with
  | some c, some r => c.spec && r.ensignQ == c.q && c.held.isNone
  | _, _ => false

/-- A core halted: interrupted instructions will execute again, and no trap register is written. -/
def Core.halt (c : Core) : Core :=
  { c with halted := true
           main := { c.main.fresh with wait := match c.main.wait with
             | some w => if w.kept ∨ w = .halt then some w else none
             | none => none } }

/-- The chunk of a core has a cause that it traps now that it holds the Ensign: the trap comes before a halt (R367). -/
def State.trapsFirst (s : State) (n : Nat) : Bool :=
  match s.chunkOn n, (s.ring (ringOf n)).region with
  | some c, some r => c.held.isSome && r.ensignQ == c.q
  | _, _ => false

/-- The speculative chunk of a core that does not hold the Ensign, which a halt squashes (Table 18.6). -/
def State.squashedBy (s : State) (n : Nat) : Option Nat :=
  match s.chunkOn n, (s.ring (ringOf n)).region with
  | some c, some r => if c.spec && r.ensignQ != c.q && c.st != .squashed && c.st != .placed then some c.q else none
  | _, _ => none

/-- One attempt to halt a core for a debugger (R371, R367, Table 18.6). A breakpoint of an address space marked for debugging
returns to U at its `brk` (Table 22.2). -/
def State.haltTry (s : State) (core : Nat) : State :=
  let s := if (s.core core).haltReq then s else (s.mapCore core (fun c => { c with haltReq := true })).notify (dieOf core)
  let c := s.core core
  if c.run.isNone && s.handling core && s.atBreakpoint core then
    (s.eretOn core).mapCore core (fun c => { c with halted := true })
  else if s.trapsFirst core then s
  else match s.squashedBy core with
    | some q => s.squashFrom (ringOf core) q
    | none =>
      if s.stepsFirst core then
        match s.chunkOn core with
        | some k => s.mapChunk (ringOf core) k.q (fun k => { k with stepFirst := true })
        | none => s
      else if c.atHalt then s.mapCore core Core.halt
      else s

/-- DEBUG_HALT (R371): asked for at once, in effect once both contexts have reached their points. -/
def execDebugHalt (core : Nat) (s : State) : Host.Outcome State Fault Refusal :=
  .next (s.managed (.debugHalt core) (fun s =>
    if Config.allCores ≤ core ∨ (s.core core).halted then s else s.haltTry core))

/-- RELEASE (R371): each context goes on from where it stopped. -/
def execRelease (core : Nat) (s : State) : Host.Outcome State Fault Refusal :=
  .next (s.managed (.release core) (fun s =>
    if Config.allCores ≤ core then s
    else
      let s := s.mapCore core (fun c => { c with halted := false, haltReq := false })
      if (s.core core).prv then s.post (.haltEvent core) else s))

/-- A plane of a core. -/
def Core.planeOf (c : Core) (active : Bool) : Plane := if active then c.active else c.shadowPlane

/-- KIND, format, stored rows, columns and group rows of a plane, a byte each (log 60). -/
def Plane.shapeWord (p : Plane) : Nat :=
  let kind := match p.kind with | .empty => 0 | .plain => 1 | .sparse2 => 2 | .sparse4 => 3 | .block => 4 | .aq => 5
  pack 8 [kind, p.fmt % 256, p.pk % 256, p.pn % 256, p.group % 256]

/-- What a debugger reads of a halted core. -/
def State.readSel (s : State) (n : Nat) : StateSel → BitVec 4096
  | .scalar h i => (((s.core n).ctx h).x (BitVec.ofNat 6 i)).setWidth 4096
  | .cond h i => BitVec.ofNat 4096 (bit (((s.core n).ctx h).kb (BitVec.ofNat 3 i)))
  | .vectorWord h i j => BitVec.ofNat 4096 (bits (((s.core n).ctx h).vr (BitVec.ofNat 5 i)).toNat (64 * j) 64)
  | .predWord h i j => BitVec.ofNat 4096 (bits (((s.core n).ctx h).pr (BitVec.ofNat 4 i)).toNat (64 * j) 64)
  | .pc h => (((s.core n).ctx h).pc).setWidth 4096
  | .system num =>
    match sysReg num with
    | some r => (({ s with cur := n, curH := false }).sysRead r).setWidth 4096
    | none => 0
  | .scratchByte off => (Bank.get 0 (s.core n).scratch off).setWidth 4096
  | .planeValue active row col => BitVec.ofNat 4096 (Bank.get 0 ((s.core n).planeOf active).vals (row * 64 + col))
  | .planePos active row col => BitVec.ofNat 4096 (Bank.get 0 ((s.core n).planeOf active).pos (row * 64 + col))
  | .planeDesc active g col => BitVec.ofNat 4096 (Bank.get 0 ((s.core n).planeOf active).desc (g * 64 + col))
  | .planeShape active => BitVec.ofNat 4096 ((s.core n).planeOf active).shapeWord

/-- A context of a core changed by `f`. -/
def State.mapSide (s : State) (n : Nat) (h : Bool) (f : Ctx → Ctx) : State := s.mapCore n (fun c => c.setCtx h (f (c.ctx h)))

/-- A plane changed by a debugger, its checksum column with it. -/
def Plane.poke (p : Plane) (f : Plane → Plane) : Plane := { f p with check := (f p).checks }

/-- A plane with KIND, format and shape as a word gives them; KIND 0 and any other value are EMPTY (log 60). -/
def Plane.shaped (p : Plane) (v : Nat) : Plane :=
  let kind : PlaneKind := match bits v 0 8 with | 1 => .plain | 2 => .sparse2 | 3 => .sparse4 | 4 => .block | 5 => .aq | _ => .empty
  { p with kind := kind, fmt := bits v 8 8, pk := bits v 16 8, pn := bits v 24 8, group := bits v 32 8 }

/-- A plane of a core changed by a debugger. -/
def Core.pokePlane (c : Core) (active : Bool) (f : Plane → Plane) : Core :=
  if active then { c with active := c.active.poke f } else { c with shadowPlane := c.shadowPlane.poke f }

/-- What a debugger writes of a halted core. RNDM takes 6 and 7 too, which round as 5: the manual gives a cause for them to
a `syswr` only (R20). DESIGN CHOICE (log 78). -/
def State.writeSel (s : State) (n : Nat) (v : Word) : StateSel → State
  | .scalar h i => s.mapSide n h (fun c => c.setX (BitVec.ofNat 6 i) v)
  | .cond h i => s.mapSide n h (fun c => c.setK (BitVec.ofNat 3 i) (v.getLsbD 0))
  | .vectorWord h i j => s.mapSide n h (fun c =>
      { c with v := Bank.set 0 c.v (i % 32) (putWord (c.vr (BitVec.ofNat 5 i)) (j % 64) v), vdirty := c.vdirty ||| BitVec.twoPow 32 (i % 32) })
  | .predWord h i j => s.mapSide n h (fun c => c.setP (BitVec.ofNat 4 i) (putWord (c.pr (BitVec.ofNat 4 i)) (j % 16) v))
  | .pc h => s.mapSide n h (fun c => { c with pc := v &&& ~~~1 })
  | .system num =>
    match sysReg num with
    | some r => { ({ s with cur := n, curH := false }).sysWrite r v with cur := s.cur, curH := s.curH }
    | none => s
  | .scratchByte off =>
    if off < Config.scratchBytes then
      s.mapCore n (fun c => c.agentWrite (off / 128) (BitVec.ofNat 1024 (v.toNat % 256 * 2 ^ (8 * (off % 128))))
        (BitVec.ofNat 1024 (maskBits (8 * (off % 128)) 8)) 0)
    else s
  | .planeValue active row col => s.mapCore n (fun c => c.pokePlane active (fun p =>
      { p with vals := Bank.set 0 p.vals (row % 64 * 64 + col % 64) v.toNat }))
  | .planePos active row col => s.mapCore n (fun c => c.pokePlane active (fun p =>
      { p with pos := Bank.set 0 p.pos (row % 64 * 64 + col % 64) v.toNat }))
  | .planeDesc active g col => s.mapCore n (fun c => c.pokePlane active (fun p =>
      { p with desc := Bank.set 0 p.desc (g % 64 * 64 + col % 64) v.toNat }))
  | .planeShape active => s.mapCore n (fun c => c.pokePlane active (fun p => p.shaped v.toNat))

/-- READ_STATE (Table 23.1): of a halted core only. -/
def execReadState (core : Nat) (sel : StateSel) (s : State) : Host.Outcome State Fault Refusal :=
  .next (s.managed (.readState core sel) (fun s =>
    if (s.core core).halted then s.reply (.state (s.readSel core sel)) else s))

/-- WRITE_STATE (Table 23.1): of a halted core only. -/
def execWriteState (core : Nat) (sel : StateSel) (value : BitVec 64) (s : State) : Host.Outcome State Fault Refusal :=
  .next (s.managed (.writeState core sel value) (fun s =>
    if (s.core core).halted then s.writeSel core value sel else s))

/-! ## The logs (Tables 23.1 and 23.2) -/

/-- The records of a log. -/
def State.logOf (s : State) : LogKind → List LogRecord
  | .machine => s.logMachine
  | .launch => s.logLaunch
  | .refusal => s.logRefusal
  | .drop => s.logDrop

/-- READ_LOG. -/
def execReadLog (log : LogKind) (index : Nat) (s : State) : Host.Outcome State Fault Refusal :=
  .next (s.managed (.readLog log index) (fun s => s.reply (.record (s.logOf log)[index]?)))

/-- CLEAR_LOG: the Drop log keeps every drop since manufacture. -/
def execClearLog (log : LogKind) (s : State) : Host.Outcome State Fault Refusal :=
  .next (s.managed (.clearLog log) (fun s => match log with
    | .machine => { s with logMachine := [] }
    | .launch => { s with logLaunch := [] }
    | .refusal => { s with logRefusal := [] }
    | .drop => s))

end Sys2Proof.Machine
end

