-- ==== Sys2Proof/Machine/Dispatch.lean ====
section
/-! DEFINITION. The meaning of every constructor of `Instr`. -/

namespace Sys2Proof.Machine
open Sys2Proof

/-- One step's effect: the meaning of `i` in state `s`. -/
def exec (i : Instr) (s : State) : Host.Outcome State Fault Refusal :=
  match i with
  | .syncMirrorUpdate die y value => Sys2Proof.Machine.execSyncMirrorUpdate die y value s
  | .ybarRelease core => Sys2Proof.Machine.execYbarRelease core s
  | .swaitReturn core => Sys2Proof.Machine.execSwaitReturn core s
  | .copyWrite core chan tid => Sys2Proof.Machine.execCopyWrite core chan tid s
  | .copyTransferComplete core chan tid => Sys2Proof.Machine.execCopyTransferComplete core chan tid s
  | .copyFault core chan tid cause => Sys2Proof.Machine.execCopyFault core chan tid cause s
  | .followOnCommand core chan tid => Sys2Proof.Machine.execFollowOnCommand core chan tid s
  | .copyRetranslate core chan tid => Sys2Proof.Machine.execCopyRetranslate core chan tid s
  | .cpywaitReturn core => Sys2Proof.Machine.execCpywaitReturn core s
  | .syncWordCount way asid off n => Sys2Proof.Machine.execSyncWordCount way asid off n s
  | .combineContribution c => Sys2Proof.Machine.execCombineContribution c s
  | .combineTimeout die line => Sys2Proof.Machine.execCombineTimeout die line s
  | .thawqReturn core => Sys2Proof.Machine.execThawqReturn core s
  | .joinComplete ring => Sys2Proof.Machine.execJoinComplete ring s
  | .chunkPlacement ring => Sys2Proof.Machine.execChunkPlacement ring s
  | .chunkStart ring q => Sys2Proof.Machine.execChunkStart ring q s
  | .liveInArrival ring q n value => Sys2Proof.Machine.execLiveInArrival ring q n value s
  | .versionProbe ring asker line => Sys2Proof.Machine.execVersionProbe ring asker line s
  | .probeAnswer ring asker line answer => Sys2Proof.Machine.execProbeAnswer ring asker line answer s
  | .storeBroadcast ring storer reader line count => Sys2Proof.Machine.execStoreBroadcast ring storer reader line count s
  | .squashNotice ring oldest q => Sys2Proof.Machine.execSquashNotice ring oldest q s
  | .squashDiscarded ring => Sys2Proof.Machine.execSquashDiscarded ring s
  | .broadcastAcknowledgement ring acker storer => Sys2Proof.Machine.execBroadcastAcknowledgement ring acker storer s
  | .ensignArrival ring q time => Sys2Proof.Machine.execEnsignArrival ring q time s
  | .commitComplete ring q => Sys2Proof.Machine.execCommitComplete ring q s
  | .messageArrival m => Sys2Proof.Machine.execMessageArrival m s
  | .handlerDispatch core => Sys2Proof.Machine.execHandlerDispatch core s
  | .handlerBudget core => Sys2Proof.Machine.execHandlerBudget core s
  | .farAtomicStep r => Sys2Proof.Machine.execFarAtomicStep r s
  | .farAtomicReply r answer => Sys2Proof.Machine.execFarAtomicReply r answer s
  | .remoteStorePacket p => Sys2Proof.Machine.execRemoteStorePacket p s
  | .remoteLoad r => Sys2Proof.Machine.execRemoteLoad r s
  | .mmrotPacket p => Sys2Proof.Machine.execMmrotPacket p s
  | .vtypeWrite rs => Sys2Proof.Machine.execVtypeWrite rs s
  | .seedWrite rs => Sys2Proof.Machine.execSeedWrite rs s
  | .leaseWrite rs => Sys2Proof.Machine.execLeaseWrite rs s
  | .rndmWrite rs => Sys2Proof.Machine.execRndmWrite rs s
  | .chkmodeWrite rs => Sys2Proof.Machine.execChkmodeWrite rs s
  | .haltEvent core => Sys2Proof.Machine.execHaltEvent core s
  | .ltsTick core => Sys2Proof.Machine.execLtsTick core s
  | .catalogueRd die line => Sys2Proof.Machine.execCatalogueRd die line s
  | .catalogueRfo die line => Sys2Proof.Machine.execCatalogueRfo die line s
  | .catalogueUpg die line => Sys2Proof.Machine.execCatalogueUpg die line s
  | .evictionNotice die line => Sys2Proof.Machine.execEvictionNotice die line s
  | .catalogueAnswer die line grant => Sys2Proof.Machine.execCatalogueAnswer die line grant s
  | .forwardedRead owner die line => Sys2Proof.Machine.execForwardedRead owner die line s
  | .invalidate holder line => Sys2Proof.Machine.execInvalidate holder line s
  | .recallLine holder line => Sys2Proof.Machine.execRecallLine holder line s
  | .freezeConvert holder line => Sys2Proof.Machine.execFreezeConvert holder line s
  | .mirrorWrite die line seq data mask wts => Sys2Proof.Machine.execMirrorWrite die line seq data mask wts s
  | .mirrorAck die line seq => Sys2Proof.Machine.execMirrorAck die line seq s
  | .switchDieLoss xd => Sys2Proof.Machine.execSwitchDieLoss xd s
  | .stationLoss station => Sys2Proof.Machine.execStationLoss station s
  | .sealComplete entry => Sys2Proof.Machine.execSealComplete entry s
  | .ticketComplete asid => Sys2Proof.Machine.execTicketComplete asid s
  | .launchGo req ring => Sys2Proof.Machine.execLaunchGo req ring s
  | .broadcastGo req => Sys2Proof.Machine.execBroadcastGo req s
  | .flush ring prios => Sys2Proof.Machine.execFlush ring prios s
  | .launchFenceClear ring id => Sys2Proof.Machine.execLaunchFenceClear ring id s
  | .launchMessage m => Sys2Proof.Machine.execLaunchMessage m s
  | .launchStart ring => Sys2Proof.Machine.execLaunchStart ring s
  | .launchComplete ring => Sys2Proof.Machine.execLaunchComplete ring s
  | .quantumExpiry ring => Sys2Proof.Machine.execQuantumExpiry ring s
  | .timeoutExpiry ring => Sys2Proof.Machine.execTimeoutExpiry ring s
  | .policyWrite value => Sys2Proof.Machine.execPolicyWrite value s
  | .registerWrite off value => Sys2Proof.Machine.execRegisterWrite off value s
  | .apbaseWrite value => Sys2Proof.Machine.execApbaseWrite value s
  | .hostBar2Read req off len => Sys2Proof.Machine.execHostBar2Read req off len s
  | .hostBar2Write req off data => Sys2Proof.Machine.execHostBar2Write req off data s
  | .hostReadCompletion core ask error => Sys2Proof.Machine.execHostReadCompletion core ask error s
  | .mailboxControlWrite cls word value => Sys2Proof.Machine.execMailboxControlWrite cls word value s
  | .mailboxMessage m => Sys2Proof.Machine.execMailboxMessage m s
  | .sendWindowGo req => Sys2Proof.Machine.execSendWindowGo req s
  | .syncWindowRead req => Sys2Proof.Machine.execSyncWindowRead req s
  | .valWrite req value => Sys2Proof.Machine.execValWrite req value s
  | .addWrite req value => Sys2Proof.Machine.execAddWrite req value s
  | .peerAccess src a => Sys2Proof.Machine.execPeerAccess src a s
  | .peerMessage pkg m => Sys2Proof.Machine.execPeerMessage pkg m s
  | .peerWriteAck id refused => Sys2Proof.Machine.execPeerWriteAck id refused s
  | .computeDrop die => Sys2Proof.Machine.execComputeDrop die s
  | .fullDrop die => Sys2Proof.Machine.execFullDrop die s
  | .patrolScrub loc => Sys2Proof.Machine.execPatrolScrub loc s
  | .frameReport frame => Sys2Proof.Machine.execFrameReport frame s
  | .temperatureReport die celsius => Sys2Proof.Machine.execTemperatureReport die celsius s
  | .powerBudget die watts => Sys2Proof.Machine.execPowerBudget die watts s
  | .powerOn => Sys2Proof.Machine.execPowerOn s
  | .securityCounter version => Sys2Proof.Machine.execSecurityCounter version s
  | .spdmRequest block => Sys2Proof.Machine.execSpdmRequest block s
  | .endLaunch ring prio => Sys2Proof.Machine.execEndLaunch ring prio s
  | .debugHalt core => Sys2Proof.Machine.execDebugHalt core s
  | .release core => Sys2Proof.Machine.execRelease core s
  | .readState core sel => Sys2Proof.Machine.execReadState core sel s
  | .writeState core sel value => Sys2Proof.Machine.execWriteState core sel value s
  | .readLog log index => Sys2Proof.Machine.execReadLog log index s
  | .clearLog log => Sys2Proof.Machine.execClearLog log s
  | .restoreDie die => Sys2Proof.Machine.execRestoreDie die s
  | .powerLimit watts => Sys2Proof.Machine.execPowerLimit watts s
  | .reservedEncoding len => Sys2Proof.Machine.execReservedEncoding len s
  | .moduleReset => Sys2Proof.Machine.execModuleReset s
  | .bar2Resize log2Size => Sys2Proof.Machine.execBar2Resize log2Size s
  | .linkRetraining width speed => Sys2Proof.Machine.execLinkRetraining width speed s
  | .peerCompletion id r => Sys2Proof.Machine.execPeerCompletion id r s
  | .faultPolicyWaitLimit core => Sys2Proof.Machine.execFaultPolicyWaitLimit core s
  | .firmwareImageUpdate img => Sys2Proof.Machine.execFirmwareImageUpdate img s
  | .add w rd rs1 rs2 => Sys2Proof.Machine.execAdd w rd rs1 rs2 s
  | .sub w rd rs1 rs2 => Sys2Proof.Machine.execSub w rd rs1 rs2 s
  | .and w rd rs1 rs2 => Sys2Proof.Machine.execAnd w rd rs1 rs2 s
  | .or w rd rs1 rs2 => Sys2Proof.Machine.execOr w rd rs1 rs2 s
  | .xor w rd rs1 rs2 => Sys2Proof.Machine.execXor w rd rs1 rs2 s
  | .andn w rd rs1 rs2 => Sys2Proof.Machine.execAndn w rd rs1 rs2 s
  | .sll w rd rs1 rs2 => Sys2Proof.Machine.execSll w rd rs1 rs2 s
  | .srl w rd rs1 rs2 => Sys2Proof.Machine.execSrl w rd rs1 rs2 s
  | .sra w rd rs1 rs2 => Sys2Proof.Machine.execSra w rd rs1 rs2 s
  | .rol w rd rs1 rs2 => Sys2Proof.Machine.execRol w rd rs1 rs2 s
  | .min w rd rs1 rs2 => Sys2Proof.Machine.execMin w rd rs1 rs2 s
  | .max w rd rs1 rs2 => Sys2Proof.Machine.execMax w rd rs1 rs2 s
  | .minu w rd rs1 rs2 => Sys2Proof.Machine.execMinu w rd rs1 rs2 s
  | .maxu w rd rs1 rs2 => Sys2Proof.Machine.execMaxu w rd rs1 rs2 s
  | .mul w rd rs1 rs2 => Sys2Proof.Machine.execMul w rd rs1 rs2 s
  | .mulh w rd rs1 rs2 => Sys2Proof.Machine.execMulh w rd rs1 rs2 s
  | .mulhu w rd rs1 rs2 => Sys2Proof.Machine.execMulhu w rd rs1 rs2 s
  | .mulhsu w rd rs1 rs2 => Sys2Proof.Machine.execMulhsu w rd rs1 rs2 s
  | .div w rd rs1 rs2 => Sys2Proof.Machine.execDiv w rd rs1 rs2 s
  | .divu w rd rs1 rs2 => Sys2Proof.Machine.execDivu w rd rs1 rs2 s
  | .rem w rd rs1 rs2 => Sys2Proof.Machine.execRem w rd rs1 rs2 s
  | .remu w rd rs1 rs2 => Sys2Proof.Machine.execRemu w rd rs1 rs2 s
  | .clz w rd rs1 => Sys2Proof.Machine.execClz w rd rs1 s
  | .ctz w rd rs1 => Sys2Proof.Machine.execCtz w rd rs1 s
  | .popc w rd rs1 => Sys2Proof.Machine.execPopc w rd rs1 s
  | .rev8 w rd rs1 => Sys2Proof.Machine.execRev8 w rd rs1 s
  | .bfxu rd rs1 pos len => Sys2Proof.Machine.execBfxu rd rs1 pos len s
  | .bfxs rd rs1 pos len => Sys2Proof.Machine.execBfxs rd rs1 pos len s
  | .bfi rd rs1 pos len => Sys2Proof.Machine.execBfi rd rs1 pos len s
  | .slli w rd rs1 n => Sys2Proof.Machine.execSlli w rd rs1 n s
  | .srli w rd rs1 n => Sys2Proof.Machine.execSrli w rd rs1 n s
  | .srai w rd rs1 n => Sys2Proof.Machine.execSrai w rd rs1 n s
  | .rori w rd rs1 n => Sys2Proof.Machine.execRori w rd rs1 n s
  | .addi rd rs1 imm => Sys2Proof.Machine.execAddi rd rs1 imm s
  | .andi rd rs1 imm => Sys2Proof.Machine.execAndi rd rs1 imm s
  | .ori rd rs1 imm => Sys2Proof.Machine.execOri rd rs1 imm s
  | .xori rd rs1 imm => Sys2Proof.Machine.execXori rd rs1 imm s
  | .li rd imm => Sys2Proof.Machine.execLi rd imm s
  | .lih rd imm => Sys2Proof.Machine.execLih rd imm s
  | .leaPc rd imm => Sys2Proof.Machine.execLeaPc rd imm s
  | .lea q rd rs1 rs2 => Sys2Proof.Machine.execLea q rd rs1 rs2 s
  | .keq w kd rs1 rs2 => Sys2Proof.Machine.execKeq w kd rs1 rs2 s
  | .kne w kd rs1 rs2 => Sys2Proof.Machine.execKne w kd rs1 rs2 s
  | .klt w kd rs1 rs2 => Sys2Proof.Machine.execKlt w kd rs1 rs2 s
  | .kge w kd rs1 rs2 => Sys2Proof.Machine.execKge w kd rs1 rs2 s
  | .kltu w kd rs1 rs2 => Sys2Proof.Machine.execKltu w kd rs1 rs2 s
  | .kgeu w kd rs1 rs2 => Sys2Proof.Machine.execKgeu w kd rs1 rs2 s
  | .kand kd ka kb => Sys2Proof.Machine.execKand kd ka kb s
  | .kor kd ka kb => Sys2Proof.Machine.execKor kd ka kb s
  | .kxor kd ka kb => Sys2Proof.Machine.execKxor kd ka kb s
  | .kset kd rs1 => Sys2Proof.Machine.execKset kd rs1 s
  | .sel rd k rs1 rs2 => Sys2Proof.Machine.execSel rd k rs1 rs2 s
  | .fadd sg rd rs1 rs2 => Sys2Proof.Machine.execFadd sg rd rs1 rs2 s
  | .fsub sg rd rs1 rs2 => Sys2Proof.Machine.execFsub sg rd rs1 rs2 s
  | .fmul sg rd rs1 rs2 => Sys2Proof.Machine.execFmul sg rd rs1 rs2 s
  | .fdiv sg rd rs1 rs2 => Sys2Proof.Machine.execFdiv sg rd rs1 rs2 s
  | .fsqrt sg rd rs1 => Sys2Proof.Machine.execFsqrt sg rd rs1 s
  | .fmin sg rd rs1 rs2 => Sys2Proof.Machine.execFmin sg rd rs1 rs2 s
  | .fmax sg rd rs1 rs2 => Sys2Proof.Machine.execFmax sg rd rs1 rs2 s
  | .fmacc sg rd rs1 rs2 => Sys2Proof.Machine.execFmacc sg rd rs1 rs2 s
  | .fmsac sg rd rs1 rs2 => Sys2Proof.Machine.execFmsac sg rd rs1 rs2 s
  | .fneg sg rd rs1 => Sys2Proof.Machine.execFneg sg rd rs1 s
  | .fabs sg rd rs1 => Sys2Proof.Machine.execFabs sg rd rs1 s
  | .kfeq sg kd rs1 rs2 => Sys2Proof.Machine.execKfeq sg kd rs1 rs2 s
  | .kflt sg kd rs1 rs2 => Sys2Proof.Machine.execKflt sg kd rs1 rs2 s
  | .kfle sg kd rs1 rs2 => Sys2Proof.Machine.execKfle sg kd rs1 rs2 s
  | .kfun sg kd rs1 rs2 => Sys2Proof.Machine.execKfun sg kd rs1 rs2 s
  | .fcvtSD rm rd rs1 => Sys2Proof.Machine.execFcvtSD rm rd rs1 s
  | .fcvtDS rd rs1 => Sys2Proof.Machine.execFcvtDS rd rs1 s
  | .fcvtLF sg rm rd rs1 => Sys2Proof.Machine.execFcvtLF sg rm rd rs1 s
  | .fcvtLuF sg rm rd rs1 => Sys2Proof.Machine.execFcvtLuF sg rm rd rs1 s
  | .fcvtFL sg rm rd rs1 => Sys2Proof.Machine.execFcvtFL sg rm rd rs1 s
  | .fcvtFLu sg rm rd rs1 => Sys2Proof.Machine.execFcvtFLu sg rm rd rs1 s
  | .fcvtWF sg rm rd rs1 => Sys2Proof.Machine.execFcvtWF sg rm rd rs1 s
  | .fcvtFW sg rm rd rs1 => Sys2Proof.Machine.execFcvtFW sg rm rd rs1 s
  | .beq rs1 rs2 off => Sys2Proof.Machine.execBeq rs1 rs2 off s
  | .bne rs1 rs2 off => Sys2Proof.Machine.execBne rs1 rs2 off s
  | .blt rs1 rs2 off => Sys2Proof.Machine.execBlt rs1 rs2 off s
  | .bge rs1 rs2 off => Sys2Proof.Machine.execBge rs1 rs2 off s
  | .bltu rs1 rs2 off => Sys2Proof.Machine.execBltu rs1 rs2 off s
  | .bgeu rs1 rs2 off => Sys2Proof.Machine.execBgeu rs1 rs2 off s
  | .bkt k off => Sys2Proof.Machine.execBkt k off s
  | .bkf k off => Sys2Proof.Machine.execBkf k off s
  | .jal rd off => Sys2Proof.Machine.execJal rd off s
  | .jalr rd rs1 imm => Sys2Proof.Machine.execJalr rd rs1 imm s
  | .loop rs1 off => Sys2Proof.Machine.execLoop rs1 off s
  | .loopi cnt off => Sys2Proof.Machine.execLoopi cnt off s
  | .ld sz reg base off => Sys2Proof.Machine.execLd sz reg base off s
  | .ldu sz reg base off => Sys2Proof.Machine.execLdu sz reg base off s
  | .st sz reg base off => Sys2Proof.Machine.execSt sz reg base off s
  | .ldo ord sc x sz reg base off => Sys2Proof.Machine.execLdo ord sc x sz reg base off s
  | .sto ord sc sz reg base off => Sys2Proof.Machine.execSto ord sc sz reg base off s
  | .amSwap d ord rd rs1 rs2 => Sys2Proof.Machine.execAmSwap d ord rd rs1 rs2 s
  | .amAdd d ord rd rs1 rs2 => Sys2Proof.Machine.execAmAdd d ord rd rs1 rs2 s
  | .amAnd d ord rd rs1 rs2 => Sys2Proof.Machine.execAmAnd d ord rd rs1 rs2 s
  | .amOr d ord rd rs1 rs2 => Sys2Proof.Machine.execAmOr d ord rd rs1 rs2 s
  | .amXor d ord rd rs1 rs2 => Sys2Proof.Machine.execAmXor d ord rd rs1 rs2 s
  | .amMin d ord rd rs1 rs2 => Sys2Proof.Machine.execAmMin d ord rd rs1 rs2 s
  | .amMax d ord rd rs1 rs2 => Sys2Proof.Machine.execAmMax d ord rd rs1 rs2 s
  | .amMinu d ord rd rs1 rs2 => Sys2Proof.Machine.execAmMinu d ord rd rs1 rs2 s
  | .amMaxu d ord rd rs1 rs2 => Sys2Proof.Machine.execAmMaxu d ord rd rs1 rs2 s
  | .amCas d ord rd rs1 rs2 => Sys2Proof.Machine.execAmCas d ord rd rs1 rs2 s
  | .farSwap d rd rs1 rs2 => Sys2Proof.Machine.execFarSwap d rd rs1 rs2 s
  | .farAdd d rd rs1 rs2 => Sys2Proof.Machine.execFarAdd d rd rs1 rs2 s
  | .farAnd d rd rs1 rs2 => Sys2Proof.Machine.execFarAnd d rd rs1 rs2 s
  | .farOr d rd rs1 rs2 => Sys2Proof.Machine.execFarOr d rd rs1 rs2 s
  | .farXor d rd rs1 rs2 => Sys2Proof.Machine.execFarXor d rd rs1 rs2 s
  | .farMin d rd rs1 rs2 => Sys2Proof.Machine.execFarMin d rd rs1 rs2 s
  | .farMax d rd rs1 rs2 => Sys2Proof.Machine.execFarMax d rd rs1 rs2 s
  | .farMinu d rd rs1 rs2 => Sys2Proof.Machine.execFarMinu d rd rs1 rs2 s
  | .farMaxu d rd rs1 rs2 => Sys2Proof.Machine.execFarMaxu d rd rs1 rs2 s
  | .farCas d rd rs1 rs2 => Sys2Proof.Machine.execFarCas d rd rs1 rs2 s
  | .yld y reg => Sys2Proof.Machine.execYld y reg s
  | .yst y reg => Sys2Proof.Machine.execYst y reg s
  | .yts y reg => Sys2Proof.Machine.execYts y reg s
  | .yfad y reg => Sys2Proof.Machine.execYfad y reg s
  | .ybar y reg => Sys2Proof.Machine.execYbar y reg s
  | .yldX rd rs1 => Sys2Proof.Machine.execYldX rd rs1 s
  | .ystX rs1 rs2 => Sys2Proof.Machine.execYstX rs1 rs2 s
  | .ytsX rd rs1 => Sys2Proof.Machine.execYtsX rd rs1 s
  | .yfadX rd rs1 rs2 => Sys2Proof.Machine.execYfadX rd rs1 rs2 s
  | .ybarX rs1 rs2 => Sys2Proof.Machine.execYbarX rs1 rs2 s
  | .swait rs1 rs2 => Sys2Proof.Machine.execSwait rs1 rs2 s
  | .fence ord sc => Sys2Proof.Machine.execFence ord sc s
  | .fenceX sc pa pb => Sys2Proof.Machine.execFenceX sc pa pb s
  | .vdrain => Sys2Proof.Machine.execVdrain s
  | .setvl ew rd rs1 => Sys2Proof.Machine.execSetvl ew rd rs1 s
  | .setvli ew rd uimm => Sys2Proof.Machine.execSetvli ew rd uimm s
  | .vadd pm pg vd vs1 vs2 => Sys2Proof.Machine.execVadd pm pg vd vs1 vs2 s
  | .vsub pm pg vd vs1 vs2 => Sys2Proof.Machine.execVsub pm pg vd vs1 vs2 s
  | .vmul pm pg vd vs1 vs2 => Sys2Proof.Machine.execVmul pm pg vd vs1 vs2 s
  | .vmulh pm pg vd vs1 vs2 => Sys2Proof.Machine.execVmulh pm pg vd vs1 vs2 s
  | .vand pm pg vd vs1 vs2 => Sys2Proof.Machine.execVand pm pg vd vs1 vs2 s
  | .vor pm pg vd vs1 vs2 => Sys2Proof.Machine.execVor pm pg vd vs1 vs2 s
  | .vxor pm pg vd vs1 vs2 => Sys2Proof.Machine.execVxor pm pg vd vs1 vs2 s
  | .vsll pm pg vd vs1 vs2 => Sys2Proof.Machine.execVsll pm pg vd vs1 vs2 s
  | .vsrl pm pg vd vs1 vs2 => Sys2Proof.Machine.execVsrl pm pg vd vs1 vs2 s
  | .vsra pm pg vd vs1 vs2 => Sys2Proof.Machine.execVsra pm pg vd vs1 vs2 s
  | .vmin pm pg vd vs1 vs2 => Sys2Proof.Machine.execVmin pm pg vd vs1 vs2 s
  | .vmax pm pg vd vs1 vs2 => Sys2Proof.Machine.execVmax pm pg vd vs1 vs2 s
  | .vminu pm pg vd vs1 vs2 => Sys2Proof.Machine.execVminu pm pg vd vs1 vs2 s
  | .vmaxu pm pg vd vs1 vs2 => Sys2Proof.Machine.execVmaxu pm pg vd vs1 vs2 s
  | .vsadd pm pg vd vs1 vs2 => Sys2Proof.Machine.execVsadd pm pg vd vs1 vs2 s
  | .vssub pm pg vd vs1 vs2 => Sys2Proof.Machine.execVssub pm pg vd vs1 vs2 s
  | .vaddVx pm pg vd vs1 rs => Sys2Proof.Machine.execVaddVx pm pg vd vs1 rs s
  | .vsubVx pm pg vd vs1 rs => Sys2Proof.Machine.execVsubVx pm pg vd vs1 rs s
  | .vmulVx pm pg vd vs1 rs => Sys2Proof.Machine.execVmulVx pm pg vd vs1 rs s
  | .vandVx pm pg vd vs1 rs => Sys2Proof.Machine.execVandVx pm pg vd vs1 rs s
  | .vsllVx pm pg vd vs1 rs => Sys2Proof.Machine.execVsllVx pm pg vd vs1 rs s
  | .vsrlVx pm pg vd vs1 rs => Sys2Proof.Machine.execVsrlVx pm pg vd vs1 rs s
  | .vsraVx pm pg vd vs1 rs => Sys2Proof.Machine.execVsraVx pm pg vd vs1 rs s
  | .vmvVx pm pg vd rs => Sys2Proof.Machine.execVmvVx pm pg vd rs s
  | .vfadd pm pg vd vs1 vs2 => Sys2Proof.Machine.execVfadd pm pg vd vs1 vs2 s
  | .vfsub pm pg vd vs1 vs2 => Sys2Proof.Machine.execVfsub pm pg vd vs1 vs2 s
  | .vfmul pm pg vd vs1 vs2 => Sys2Proof.Machine.execVfmul pm pg vd vs1 vs2 s
  | .vfdiv pm pg vd vs1 vs2 => Sys2Proof.Machine.execVfdiv pm pg vd vs1 vs2 s
  | .vfmin pm pg vd vs1 vs2 => Sys2Proof.Machine.execVfmin pm pg vd vs1 vs2 s
  | .vfmax pm pg vd vs1 vs2 => Sys2Proof.Machine.execVfmax pm pg vd vs1 vs2 s
  | .vfmacc pm pg vd vs1 vs2 => Sys2Proof.Machine.execVfmacc pm pg vd vs1 vs2 s
  | .vfmsac pm pg vd vs1 vs2 => Sys2Proof.Machine.execVfmsac pm pg vd vs1 vs2 s
  | .vfsqrt pm pg vd vs1 => Sys2Proof.Machine.execVfsqrt pm pg vd vs1 s
  | .vfneg pm pg vd vs1 => Sys2Proof.Machine.execVfneg pm pg vd vs1 s
  | .vfabs pm pg vd vs1 => Sys2Proof.Machine.execVfabs pm pg vd vs1 s
  | .vfaddVx pm pg vd vs1 rs => Sys2Proof.Machine.execVfaddVx pm pg vd vs1 rs s
  | .vfmulVx pm pg vd vs1 rs => Sys2Proof.Machine.execVfmulVx pm pg vd vs1 rs s
  | .vfmaccVx pm pg vd vs1 rs => Sys2Proof.Machine.execVfmaccVx pm pg vd vs1 rs s
  | .vfmvVx pm pg vd rs => Sys2Proof.Machine.execVfmvVx pm pg vd rs s
  | .vdeq aq8 grp pm pg vd vs1 vs2 => Sys2Proof.Machine.execVdeq aq8 grp pm pg vd vs1 vs2 s
  | .vquant aq8 grp pm pg vd vs1 vs2 => Sys2Proof.Machine.execVquant aq8 grp pm pg vd vs1 vs2 s
  | .vwmacc pm pg vdp vs1 vs2 => Sys2Proof.Machine.execVwmacc pm pg vdp vs1 vs2 s
  | .vwmaccu pm pg vdp vs1 vs2 => Sys2Proof.Machine.execVwmaccu pm pg vdp vs1 vs2 s
  | .vwmaccsu pm pg vdp vs1 vs2 => Sys2Proof.Machine.execVwmaccsu pm pg vdp vs1 vs2 s
  | .vfwmacc pm pg vdp vs1 vs2 => Sys2Proof.Machine.execVfwmacc pm pg vdp vs1 vs2 s
  | .vbfwmacc pm pg vdp vs1 vs2 => Sys2Proof.Machine.execVbfwmacc pm pg vdp vs1 vs2 s
  | .vwmul pm pg vdp vs1 vs2 => Sys2Proof.Machine.execVwmul pm pg vdp vs1 vs2 s
  | .vwmulu pm pg vdp vs1 vs2 => Sys2Proof.Machine.execVwmulu pm pg vdp vs1 vs2 s
  | .vfwmul pm pg vdp vs1 vs2 => Sys2Proof.Machine.execVfwmul pm pg vdp vs1 vs2 s
  | .vncvt pm pg vd vs1 => Sys2Proof.Machine.execVncvt pm pg vd vs1 s
  | .vnclip pm pg vd vs1 => Sys2Proof.Machine.execVnclip pm pg vd vs1 s
  | .vnclipu pm pg vd vs1 => Sys2Proof.Machine.execVnclipu pm pg vd vs1 s
  | .vfcvt pm pg vd vs1 fmt => Sys2Proof.Machine.execVfcvt pm pg vd vs1 fmt s
  | .vfcvtX pm pg vd vs1 => Sys2Proof.Machine.execVfcvtX pm pg vd vs1 s
  | .vfcvtF pm pg vd vs1 fmt => Sys2Proof.Machine.execVfcvtF pm pg vd vs1 fmt s
  | .vredsum pm pg vd vs1 vs2 => Sys2Proof.Machine.execVredsum pm pg vd vs1 vs2 s
  | .vredmax pm pg vd vs1 vs2 => Sys2Proof.Machine.execVredmax pm pg vd vs1 vs2 s
  | .vredmin pm pg vd vs1 vs2 => Sys2Proof.Machine.execVredmin pm pg vd vs1 vs2 s
  | .vredmaxu pm pg vd vs1 vs2 => Sys2Proof.Machine.execVredmaxu pm pg vd vs1 vs2 s
  | .vredminu pm pg vd vs1 vs2 => Sys2Proof.Machine.execVredminu pm pg vd vs1 vs2 s
  | .vfredsumO pm pg vd vs1 vs2 => Sys2Proof.Machine.execVfredsumO pm pg vd vs1 vs2 s
  | .vfredsumT pm pg vd vs1 vs2 => Sys2Proof.Machine.execVfredsumT pm pg vd vs1 vs2 s
  | .vfredmax pm pg vd vs1 vs2 => Sys2Proof.Machine.execVfredmax pm pg vd vs1 vs2 s
  | .vfredmin pm pg vd vs1 vs2 => Sys2Proof.Machine.execVfredmin pm pg vd vs1 vs2 s
  | .vscan pm pg vd vs1 vs2 => Sys2Proof.Machine.execVscan pm pg vd vs1 vs2 s
  | .vfscan pm pg vd vs1 vs2 => Sys2Proof.Machine.execVfscan pm pg vd vs1 vs2 s
  | .vrgather pm pg vd vs1 vs2 => Sys2Proof.Machine.execVrgather pm pg vd vs1 vs2 s
  | .vcompress pm pg vd vs1 => Sys2Proof.Machine.execVcompress pm pg vd vs1 s
  | .viota pm pg vd => Sys2Proof.Machine.execViota pm pg vd s
  | .vid pm pg vd => Sys2Proof.Machine.execVid pm pg vd s
  | .vslideup pm pg vd vs1 rs => Sys2Proof.Machine.execVslideup pm pg vd vs1 rs s
  | .vslidedn pm pg vd vs1 rs => Sys2Proof.Machine.execVslidedn pm pg vd vs1 rs s
  | .vslide1up pm pg vd vs1 rs => Sys2Proof.Machine.execVslide1up pm pg vd vs1 rs s
  | .vslide1dn pm pg vd vs1 rs => Sys2Proof.Machine.execVslide1dn pm pg vd vs1 rs s
  | .vmvXs rs vs1 => Sys2Proof.Machine.execVmvXs rs vs1 s
  | .vmvSx vd rs => Sys2Proof.Machine.execVmvSx vd rs s
  | .vexp2 pm pg vd vs1 => Sys2Proof.Machine.execVexp2 pm pg vd vs1 s
  | .vlog2 pm pg vd vs1 => Sys2Proof.Machine.execVlog2 pm pg vd vs1 s
  | .vrcp pm pg vd vs1 => Sys2Proof.Machine.execVrcp pm pg vd vs1 s
  | .vrsqrt pm pg vd vs1 => Sys2Proof.Machine.execVrsqrt pm pg vd vs1 s
  | .vsin pm pg vd vs1 => Sys2Proof.Machine.execVsin pm pg vd vs1 s
  | .vcos pm pg vd vs1 => Sys2Proof.Machine.execVcos pm pg vd vs1 s
  | .vtanh pm pg vd vs1 => Sys2Proof.Machine.execVtanh pm pg vd vs1 s
  | .verf pm pg vd vs1 => Sys2Proof.Machine.execVerf pm pg vd vs1 s
  | .vmseq pm pg pd vs1 vs2 => Sys2Proof.Machine.execVmseq pm pg pd vs1 vs2 s
  | .vmsne pm pg pd vs1 vs2 => Sys2Proof.Machine.execVmsne pm pg pd vs1 vs2 s
  | .vmslt pm pg pd vs1 vs2 => Sys2Proof.Machine.execVmslt pm pg pd vs1 vs2 s
  | .vmsle pm pg pd vs1 vs2 => Sys2Proof.Machine.execVmsle pm pg pd vs1 vs2 s
  | .vmsltu pm pg pd vs1 vs2 => Sys2Proof.Machine.execVmsltu pm pg pd vs1 vs2 s
  | .vmsleu pm pg pd vs1 vs2 => Sys2Proof.Machine.execVmsleu pm pg pd vs1 vs2 s
  | .vmfeq pm pg pd vs1 vs2 => Sys2Proof.Machine.execVmfeq pm pg pd vs1 vs2 s
  | .vmflt pm pg pd vs1 vs2 => Sys2Proof.Machine.execVmflt pm pg pd vs1 vs2 s
  | .vmfle pm pg pd vs1 vs2 => Sys2Proof.Machine.execVmfle pm pg pd vs1 vs2 s
  | .vmfun pm pg pd vs1 vs2 => Sys2Proof.Machine.execVmfun pm pg pd vs1 vs2 s
  | .pand pg pd pa pb => Sys2Proof.Machine.execPand pg pd pa pb s
  | .por pg pd pa pb => Sys2Proof.Machine.execPor pg pd pa pb s
  | .pxor pg pd pa pb => Sys2Proof.Machine.execPxor pg pd pa pb s
  | .pandn pg pd pa pb => Sys2Proof.Machine.execPandn pg pd pa pb s
  | .pnot pg pd pa => Sys2Proof.Machine.execPnot pg pd pa s
  | .pcut pg pd pa => Sys2Proof.Machine.execPcut pg pd pa s
  | .pfind pg rd pa => Sys2Proof.Machine.execPfind pg rd pa s
  | .ppopc pg rd pa => Sys2Proof.Machine.execPpopc pg rd pa s
  | .psetn pg pd rs => Sys2Proof.Machine.execPsetn pg pd rs s
  | .pany pg kd pa => Sys2Proof.Machine.execPany pg kd pa s
  | .vld pm pg v base b => Sys2Proof.Machine.execVld pm pg v base b s
  | .vlds pm pg v base rs => Sys2Proof.Machine.execVlds pm pg v base rs s
  | .vldx pm pg v base vi => Sys2Proof.Machine.execVldx pm pg v base vi s
  | .vldff pm pg v base b => Sys2Proof.Machine.execVldff pm pg v base b s
  | .vst pm pg v base b => Sys2Proof.Machine.execVst pm pg v base b s
  | .vsts pm pg v base rs => Sys2Proof.Machine.execVsts pm pg v base rs s
  | .vstx pm pg v base vi => Sys2Proof.Machine.execVstx pm pg v base vi s
  | .vstr pm pg v base b => Sys2Proof.Machine.execVstr pm pg v base b s
  | .vldbc pm pg v base => Sys2Proof.Machine.execVldbc pm pg v base s
  | .vldsr v base rs => Sys2Proof.Machine.execVldsr v base rs s
  | .mld rsa rsb => Sys2Proof.Machine.execMld rsa rsb s
  | .mswp => Sys2Proof.Machine.execMswp s
  | .mma rsc rsa rsb => Sys2Proof.Machine.execMma rsc rsa rsb s
  | .mmas rsc rsa rsb => Sys2Proof.Machine.execMmas rsc rsa rsb s
  | .mqma rsc rsa rsb => Sys2Proof.Machine.execMqma rsc rsa rsb s
  | .mmrot rsc rsa rsb => Sys2Proof.Machine.execMmrot rsc rsa rsb s
  | .mzero rsc rsb => Sys2Proof.Machine.execMzero rsc rsb s
  | .mcfg rsa => Sys2Proof.Machine.execMcfg rsa s
  | .cpyset c f rs1 => Sys2Proof.Machine.execCpyset c f rs1 s
  | .ack c rs1 => Sys2Proof.Machine.execAck c rs1 s
  | .cpygo c rd => Sys2Proof.Machine.execCpygo c rd s
  | .cpyst c rd => Sys2Proof.Machine.execCpyst c rd s
  | .cpywait c rs1 => Sys2Proof.Machine.execCpywait c rs1 s
  | .cpymm c rd rs1 => Sys2Proof.Machine.execCpymm c rd rs1 s
  | .fork rs1 => Sys2Proof.Machine.execFork rs1 s
  | .forka rs1 => Sys2Proof.Machine.execForka rs1 s
  | .cend => Sys2Proof.Machine.execCend s
  | .join => Sys2Proof.Machine.execJoin s
  | .fwd n => Sys2Proof.Machine.execFwd n s
  | .nspec => Sys2Proof.Machine.execNspec s
  | .frz rd rs1 rs2 => Sys2Proof.Machine.execFrz rd rs1 rs2 s
  | .thaw rd rs1 => Sys2Proof.Machine.execThaw rd rs1 s
  | .thawq rd rs1 => Sys2Proof.Machine.execThawq rd rs1 s
  | .seqld v rs1 => Sys2Proof.Machine.execSeqld v rs1 s
  | .seqst v rs1 => Sys2Proof.Machine.execSeqst v rs1 s
  | .send rs1 rs2 => Sys2Proof.Machine.execSend rs1 rs2 s
  | .sendv rs1 vs rs2 => Sys2Proof.Machine.execSendv rs1 vs rs2 s
  | .reply rs1 rs2 => Sys2Proof.Machine.execReply rs1 rs2 s
  | .hbind rs1 rs2 => Sys2Proof.Machine.execHbind rs1 rs2 s
  | .hend => Sys2Proof.Machine.execHend s
  | .sysrd num reg => Sys2Proof.Machine.execSysrd num reg s
  | .syswr num reg => Sys2Proof.Machine.execSyswr num reg s
  | .trap imm => Sys2Proof.Machine.execTrap imm s
  | .eret => Sys2Proof.Machine.execEret s
  | .brk imm => Sys2Proof.Machine.execBrk imm s
  | .halt => Sys2Proof.Machine.execHalt s
  | .nop => Sys2Proof.Machine.execNop s
  | .tlbinvPage rs => Sys2Proof.Machine.execTlbinvPage rs s
  | .tlbinvAsid rs => Sys2Proof.Machine.execTlbinvAsid rs s
  | .tlbinvAll rs => Sys2Proof.Machine.execTlbinvAll rs s
  | .stop rs => Sys2Proof.Machine.execStop rs s
  | .save rs => Sys2Proof.Machine.execSave rs s
  | .restore rs => Sys2Proof.Machine.execRestore rs s
  | .abort rs => Sys2Proof.Machine.execAbort rs s
  | .cclean rs => Sys2Proof.Machine.execCclean rs s
  | .cinv rs => Sys2Proof.Machine.execCinv rs s
  | .iinv => Sys2Proof.Machine.execIinv s
  | .cAddi rd imm => Sys2Proof.Machine.execCAddi rd imm s
  | .cLi rd imm => Sys2Proof.Machine.execCLi rd imm s
  | .cSlli rd n => Sys2Proof.Machine.execCSlli rd n s
  | .cSrli rd n => Sys2Proof.Machine.execCSrli rd n s
  | .cSrai rd n => Sys2Proof.Machine.execCSrai rd n s
  | .cAndi rd imm => Sys2Proof.Machine.execCAndi rd imm s
  | .cMv rd rs => Sys2Proof.Machine.execCMv rd rs s
  | .cAdd rd rs => Sys2Proof.Machine.execCAdd rd rs s
  | .cSub rd rs => Sys2Proof.Machine.execCSub rd rs s
  | .cAnd rd rs => Sys2Proof.Machine.execCAnd rd rs s
  | .cNop => Sys2Proof.Machine.execCNop s
  | .cJ off => Sys2Proof.Machine.execCJ off s
  | .cJr rs => Sys2Proof.Machine.execCJr rs s
  | .cHend => Sys2Proof.Machine.execCHend s
  | .cNspec => Sys2Proof.Machine.execCNspec s
  | .cCend => Sys2Proof.Machine.execCCend s
  | .cBrk => Sys2Proof.Machine.execCBrk s
  | .cBnez rs off => Sys2Proof.Machine.execCBnez rs off s
  | .cBeqz rs off => Sys2Proof.Machine.execCBeqz rs off s
  | .cBkt k off => Sys2Proof.Machine.execCBkt k off s
  | .cBkf k off => Sys2Proof.Machine.execCBkf k off s

end Sys2Proof.Machine
end

