-- ==== Sys2Proof/Machine/Regs.lean ====
section
/-! DEFINITION. The registers that an instruction names, for the limits of the handler context (R18) and the wait for
forwarded live-ins (R208). -/

namespace Sys2Proof
open Sys2Proof.Machine

/-- Eight registers from `r` (R189). -/
def eight (r : SReg) : List SReg := (List.range 8).map (fun i => r + BitVec.ofNat 6 i)

/-- Width of a format code (Table 3.12). -/
def codeWidth (fmt : BitVec 5) : Nat := ((fmtOf fmt.toNat).map Fmt.width).getD 0

/-- Scalar registers that an instruction reads or writes. -/
def Instr.scalarRegs : Instr → List SReg
  | .vtypeWrite rs => [rs]
  | .seedWrite rs => [rs]
  | .leaseWrite rs => [rs]
  | .rndmWrite rs => [rs]
  | .chkmodeWrite rs => [rs]
  | .add _ rd rs1 rs2 => [rd, rs1, rs2]
  | .sub _ rd rs1 rs2 => [rd, rs1, rs2]
  | .and _ rd rs1 rs2 => [rd, rs1, rs2]
  | .or _ rd rs1 rs2 => [rd, rs1, rs2]
  | .xor _ rd rs1 rs2 => [rd, rs1, rs2]
  | .andn _ rd rs1 rs2 => [rd, rs1, rs2]
  | .sll _ rd rs1 rs2 => [rd, rs1, rs2]
  | .srl _ rd rs1 rs2 => [rd, rs1, rs2]
  | .sra _ rd rs1 rs2 => [rd, rs1, rs2]
  | .rol _ rd rs1 rs2 => [rd, rs1, rs2]
  | .min _ rd rs1 rs2 => [rd, rs1, rs2]
  | .max _ rd rs1 rs2 => [rd, rs1, rs2]
  | .minu _ rd rs1 rs2 => [rd, rs1, rs2]
  | .maxu _ rd rs1 rs2 => [rd, rs1, rs2]
  | .mul _ rd rs1 rs2 => [rd, rs1, rs2]
  | .mulh _ rd rs1 rs2 => [rd, rs1, rs2]
  | .mulhu _ rd rs1 rs2 => [rd, rs1, rs2]
  | .mulhsu _ rd rs1 rs2 => [rd, rs1, rs2]
  | .div _ rd rs1 rs2 => [rd, rs1, rs2]
  | .divu _ rd rs1 rs2 => [rd, rs1, rs2]
  | .rem _ rd rs1 rs2 => [rd, rs1, rs2]
  | .remu _ rd rs1 rs2 => [rd, rs1, rs2]
  | .clz _ rd rs1 => [rd, rs1]
  | .ctz _ rd rs1 => [rd, rs1]
  | .popc _ rd rs1 => [rd, rs1]
  | .rev8 _ rd rs1 => [rd, rs1]
  | .bfxu rd rs1 _ _ => [rd, rs1]
  | .bfxs rd rs1 _ _ => [rd, rs1]
  | .bfi rd rs1 _ _ => [rd, rs1]
  | .slli _ rd rs1 _ => [rd, rs1]
  | .srli _ rd rs1 _ => [rd, rs1]
  | .srai _ rd rs1 _ => [rd, rs1]
  | .rori _ rd rs1 _ => [rd, rs1]
  | .addi rd rs1 _ => [rd, rs1]
  | .andi rd rs1 _ => [rd, rs1]
  | .ori rd rs1 _ => [rd, rs1]
  | .xori rd rs1 _ => [rd, rs1]
  | .li rd _ => [rd]
  | .lih rd _ => [rd]
  | .leaPc rd _ => [rd]
  | .lea _ rd rs1 rs2 => [rd, rs1, rs2]
  | .keq _ _ rs1 rs2 => [rs1, rs2]
  | .kne _ _ rs1 rs2 => [rs1, rs2]
  | .klt _ _ rs1 rs2 => [rs1, rs2]
  | .kge _ _ rs1 rs2 => [rs1, rs2]
  | .kltu _ _ rs1 rs2 => [rs1, rs2]
  | .kgeu _ _ rs1 rs2 => [rs1, rs2]
  | .kset _ rs1 => [rs1]
  | .sel rd _ rs1 rs2 => [rd, rs1, rs2]
  | .fadd _ rd rs1 rs2 => [rd, rs1, rs2]
  | .fsub _ rd rs1 rs2 => [rd, rs1, rs2]
  | .fmul _ rd rs1 rs2 => [rd, rs1, rs2]
  | .fdiv _ rd rs1 rs2 => [rd, rs1, rs2]
  | .fsqrt _ rd rs1 => [rd, rs1]
  | .fmin _ rd rs1 rs2 => [rd, rs1, rs2]
  | .fmax _ rd rs1 rs2 => [rd, rs1, rs2]
  | .fmacc _ rd rs1 rs2 => [rd, rs1, rs2]
  | .fmsac _ rd rs1 rs2 => [rd, rs1, rs2]
  | .fneg _ rd rs1 => [rd, rs1]
  | .fabs _ rd rs1 => [rd, rs1]
  | .kfeq _ _ rs1 rs2 => [rs1, rs2]
  | .kflt _ _ rs1 rs2 => [rs1, rs2]
  | .kfle _ _ rs1 rs2 => [rs1, rs2]
  | .kfun _ _ rs1 rs2 => [rs1, rs2]
  | .fcvtSD _ rd rs1 => [rd, rs1]
  | .fcvtDS rd rs1 => [rd, rs1]
  | .fcvtLF _ _ rd rs1 => [rd, rs1]
  | .fcvtLuF _ _ rd rs1 => [rd, rs1]
  | .fcvtFL _ _ rd rs1 => [rd, rs1]
  | .fcvtFLu _ _ rd rs1 => [rd, rs1]
  | .fcvtWF _ _ rd rs1 => [rd, rs1]
  | .fcvtFW _ _ rd rs1 => [rd, rs1]
  | .beq rs1 rs2 _ => [rs1, rs2]
  | .bne rs1 rs2 _ => [rs1, rs2]
  | .blt rs1 rs2 _ => [rs1, rs2]
  | .bge rs1 rs2 _ => [rs1, rs2]
  | .bltu rs1 rs2 _ => [rs1, rs2]
  | .bgeu rs1 rs2 _ => [rs1, rs2]
  | .jal rd _ => [rd]
  | .jalr rd rs1 _ => [rd, rs1]
  | .loop rs1 _ => [rs1]
  | .ld _ reg base _ => [reg, base]
  | .ldu _ reg base _ => [reg, base]
  | .st _ reg base _ => [reg, base]
  | .ldo _ _ _ _ reg base _ => [reg, base]
  | .sto _ _ _ reg base _ => [reg, base]
  | .amSwap _ _ rd rs1 rs2 => [rd, rs1, rs2]
  | .amAdd _ _ rd rs1 rs2 => [rd, rs1, rs2]
  | .amAnd _ _ rd rs1 rs2 => [rd, rs1, rs2]
  | .amOr _ _ rd rs1 rs2 => [rd, rs1, rs2]
  | .amXor _ _ rd rs1 rs2 => [rd, rs1, rs2]
  | .amMin _ _ rd rs1 rs2 => [rd, rs1, rs2]
  | .amMax _ _ rd rs1 rs2 => [rd, rs1, rs2]
  | .amMinu _ _ rd rs1 rs2 => [rd, rs1, rs2]
  | .amMaxu _ _ rd rs1 rs2 => [rd, rs1, rs2]
  | .amCas _ _ rd rs1 rs2 => [rd, rs1, rs2]
  | .farSwap _ rd rs1 rs2 => [rd, rs1, rs2]
  | .farAdd _ rd rs1 rs2 => [rd, rs1, rs2]
  | .farAnd _ rd rs1 rs2 => [rd, rs1, rs2]
  | .farOr _ rd rs1 rs2 => [rd, rs1, rs2]
  | .farXor _ rd rs1 rs2 => [rd, rs1, rs2]
  | .farMin _ rd rs1 rs2 => [rd, rs1, rs2]
  | .farMax _ rd rs1 rs2 => [rd, rs1, rs2]
  | .farMinu _ rd rs1 rs2 => [rd, rs1, rs2]
  | .farMaxu _ rd rs1 rs2 => [rd, rs1, rs2]
  | .farCas _ rd rs1 rs2 => [rd, rs1, rs2]
  | .yld _ reg => [reg]
  | .yst _ reg => [reg]
  | .yts _ reg => [reg]
  | .yfad _ reg => [reg]
  | .ybar _ reg => [reg]
  | .yldX rd rs1 => [rd, rs1]
  | .ystX rs1 rs2 => [rs1, rs2]
  | .ytsX rd rs1 => [rd, rs1]
  | .yfadX rd rs1 rs2 => [rd, rs1, rs2]
  | .ybarX rs1 rs2 => [rs1, rs2]
  | .swait rs1 rs2 => [rs1, rs2]
  | .setvl _ rd rs1 => [rd, rs1]
  | .setvli _ rd _ => [rd]
  | .vaddVx _ _ _ _ rs => [rs]
  | .vsubVx _ _ _ _ rs => [rs]
  | .vmulVx _ _ _ _ rs => [rs]
  | .vandVx _ _ _ _ rs => [rs]
  | .vsllVx _ _ _ _ rs => [rs]
  | .vsrlVx _ _ _ _ rs => [rs]
  | .vsraVx _ _ _ _ rs => [rs]
  | .vmvVx _ _ _ rs => [rs]
  | .vfaddVx _ _ _ _ rs => [rs]
  | .vfmulVx _ _ _ _ rs => [rs]
  | .vfmaccVx _ _ _ _ rs => [rs]
  | .vfmvVx _ _ _ rs => [rs]
  | .vslideup _ _ _ _ rs => [rs]
  | .vslidedn _ _ _ _ rs => [rs]
  | .vslide1up _ _ _ _ rs => [rs]
  | .vslide1dn _ _ _ _ rs => [rs]
  | .vmvXs rs _ => [rs]
  | .vmvSx _ rs => [rs]
  | .pfind _ rd _ => [rd]
  | .ppopc _ rd _ => [rd]
  | .psetn _ _ rs => [rs]
  | .vld _ _ _ base _ => [base]
  | .vlds _ _ _ base rs => [base, rs]
  | .vldx _ _ _ base _ => [base]
  | .vldff _ _ _ base _ => [base]
  | .vst _ _ _ base _ => [base]
  | .vsts _ _ _ base rs => [base, rs]
  | .vstx _ _ _ base _ => [base]
  | .vstr _ _ _ base _ => [base]
  | .vldbc _ _ _ base => [base]
  | .vldsr _ base rs => [base, rs]
  | .mld rsa rsb => [rsa, rsb]
  | .mma rsc rsa rsb => [rsc, rsa, rsb]
  | .mmas rsc rsa rsb => [rsc, rsa, rsb]
  | .mqma rsc rsa rsb => [rsc, rsa, rsb]
  | .mmrot rsc rsa rsb => [rsc, rsa, rsb]
  | .mzero rsc rsb => [rsc, rsb]
  | .mcfg rsa => [rsa]
  | .cpyset _ _ rs1 => [rs1]
  | .ack _ rs1 => [rs1]
  | .cpygo _ rd => [rd]
  | .cpyst _ rd => [rd]
  | .cpywait _ rs1 => [rs1]
  | .cpymm _ rd rs1 => [rd, rs1]
  | .fork rs1 => [rs1]
  | .forka rs1 => [rs1]
  | .frz rd rs1 rs2 => [rd, rs1, rs2]
  | .thaw rd rs1 => [rd, rs1]
  | .thawq rd rs1 => [rd, rs1]
  | .seqld _ rs1 => [rs1]
  | .seqst _ rs1 => [rs1]
  | .send rs1 rs2 => rs1 :: eight rs2
  | .sendv rs1 _ rs2 => [rs1, rs2]
  | .reply rs1 rs2 => rs1 :: eight rs2
  | .hbind rs1 rs2 => [rs1, rs2]
  | .sysrd _ reg => [reg]
  | .syswr _ reg => [reg]
  | .tlbinvPage rs => [rs]
  | .tlbinvAsid rs => [rs]
  | .tlbinvAll rs => [rs]
  | .stop rs => [rs]
  | .save rs => [rs]
  | .restore rs => [rs]
  | .abort rs => [rs]
  | .cclean rs => [rs]
  | .cinv rs => [rs]
  | .cAddi rd _ => [rd]
  | .cLi rd _ => [rd]
  | .cSlli rd _ => [rd]
  | .cSrli rd _ => [rd]
  | .cSrai rd _ => [rd]
  | .cAndi rd _ => [rd]
  | .cMv rd rs => [rd, rs]
  | .cAdd rd rs => [rd, rs]
  | .cSub rd rs => [rd, rs]
  | .cAnd rd rs => [rd, rs]
  | .cJr rs => [rs]
  | .cBnez rs _ => [rs]
  | .cBeqz rs _ => [rs]
  | _ => []

/-- Vector registers that an instruction names at element width `ew`, the second of a pair included (R14). -/
def Instr.vectorRegs (ew : Nat) : Instr → List VReg
  | .vadd _ _ vd vs1 vs2 => [vd, vs1, vs2]
  | .vsub _ _ vd vs1 vs2 => [vd, vs1, vs2]
  | .vmul _ _ vd vs1 vs2 => [vd, vs1, vs2]
  | .vmulh _ _ vd vs1 vs2 => [vd, vs1, vs2]
  | .vand _ _ vd vs1 vs2 => [vd, vs1, vs2]
  | .vor _ _ vd vs1 vs2 => [vd, vs1, vs2]
  | .vxor _ _ vd vs1 vs2 => [vd, vs1, vs2]
  | .vsll _ _ vd vs1 vs2 => [vd, vs1, vs2]
  | .vsrl _ _ vd vs1 vs2 => [vd, vs1, vs2]
  | .vsra _ _ vd vs1 vs2 => [vd, vs1, vs2]
  | .vmin _ _ vd vs1 vs2 => [vd, vs1, vs2]
  | .vmax _ _ vd vs1 vs2 => [vd, vs1, vs2]
  | .vminu _ _ vd vs1 vs2 => [vd, vs1, vs2]
  | .vmaxu _ _ vd vs1 vs2 => [vd, vs1, vs2]
  | .vsadd _ _ vd vs1 vs2 => [vd, vs1, vs2]
  | .vssub _ _ vd vs1 vs2 => [vd, vs1, vs2]
  | .vaddVx _ _ vd vs1 _ => [vd, vs1]
  | .vsubVx _ _ vd vs1 _ => [vd, vs1]
  | .vmulVx _ _ vd vs1 _ => [vd, vs1]
  | .vandVx _ _ vd vs1 _ => [vd, vs1]
  | .vsllVx _ _ vd vs1 _ => [vd, vs1]
  | .vsrlVx _ _ vd vs1 _ => [vd, vs1]
  | .vsraVx _ _ vd vs1 _ => [vd, vs1]
  | .vmvVx _ _ vd _ => [vd]
  | .vfadd _ _ vd vs1 vs2 => [vd, vs1, vs2]
  | .vfsub _ _ vd vs1 vs2 => [vd, vs1, vs2]
  | .vfmul _ _ vd vs1 vs2 => [vd, vs1, vs2]
  | .vfdiv _ _ vd vs1 vs2 => [vd, vs1, vs2]
  | .vfmin _ _ vd vs1 vs2 => [vd, vs1, vs2]
  | .vfmax _ _ vd vs1 vs2 => [vd, vs1, vs2]
  | .vfmacc _ _ vd vs1 vs2 => [vd, vs1, vs2]
  | .vfmsac _ _ vd vs1 vs2 => [vd, vs1, vs2]
  | .vfsqrt _ _ vd vs1 => [vd, vs1]
  | .vfneg _ _ vd vs1 => [vd, vs1]
  | .vfabs _ _ vd vs1 => [vd, vs1]
  | .vfaddVx _ _ vd vs1 _ => [vd, vs1]
  | .vfmulVx _ _ vd vs1 _ => [vd, vs1]
  | .vfmaccVx _ _ vd vs1 _ => [vd, vs1]
  | .vfmvVx _ _ vd _ => [vd]
  | .vdeq _ _ _ _ vd vs1 vs2 => [vd, vs1, vs2]
  | .vquant _ _ _ _ vd vs1 vs2 => [vd, vs1, vs2]
  | .vwmacc _ _ vdp vs1 vs2 => [vdp.setWidth 5 <<< 1, (vdp.setWidth 5 <<< 1) + 1, vs1, vs2]
  | .vwmaccu _ _ vdp vs1 vs2 => [vdp.setWidth 5 <<< 1, (vdp.setWidth 5 <<< 1) + 1, vs1, vs2]
  | .vwmaccsu _ _ vdp vs1 vs2 => [vdp.setWidth 5 <<< 1, (vdp.setWidth 5 <<< 1) + 1, vs1, vs2]
  | .vfwmacc _ _ vdp vs1 vs2 => [vdp.setWidth 5 <<< 1, (vdp.setWidth 5 <<< 1) + 1, vs1, vs2]
  | .vbfwmacc _ _ vdp vs1 vs2 => [vdp.setWidth 5 <<< 1, (vdp.setWidth 5 <<< 1) + 1, vs1, vs2]
  | .vwmul _ _ vdp vs1 vs2 => [vdp.setWidth 5 <<< 1, (vdp.setWidth 5 <<< 1) + 1, vs1, vs2]
  | .vwmulu _ _ vdp vs1 vs2 => [vdp.setWidth 5 <<< 1, (vdp.setWidth 5 <<< 1) + 1, vs1, vs2]
  | .vfwmul _ _ vdp vs1 vs2 => [vdp.setWidth 5 <<< 1, (vdp.setWidth 5 <<< 1) + 1, vs1, vs2]
  | .vncvt _ _ vd vs1 => [vd, vs1]
  | .vnclip _ _ vd vs1 => [vd, vs1]
  | .vnclipu _ _ vd vs1 => [vd, vs1]
  | .vfcvt _ _ vd vs1 fmt => if ew < codeWidth fmt then [vd, vs1, vd + 1] else [vd, vs1]
  | .vfcvtX _ _ vd vs1 => [vd, vs1]
  | .vfcvtF _ _ vd vs1 fmt => if ew < codeWidth fmt then [vd, vs1, vd + 1] else [vd, vs1]
  | .vredsum _ _ vd vs1 vs2 => [vd, vs1, vs2]
  | .vredmax _ _ vd vs1 vs2 => [vd, vs1, vs2]
  | .vredmin _ _ vd vs1 vs2 => [vd, vs1, vs2]
  | .vredmaxu _ _ vd vs1 vs2 => [vd, vs1, vs2]
  | .vredminu _ _ vd vs1 vs2 => [vd, vs1, vs2]
  | .vfredsumO _ _ vd vs1 vs2 => [vd, vs1, vs2]
  | .vfredsumT _ _ vd vs1 vs2 => [vd, vs1, vs2]
  | .vfredmax _ _ vd vs1 vs2 => [vd, vs1, vs2]
  | .vfredmin _ _ vd vs1 vs2 => [vd, vs1, vs2]
  | .vscan _ _ vd vs1 vs2 => [vd, vs1, vs2]
  | .vfscan _ _ vd vs1 vs2 => [vd, vs1, vs2]
  | .vrgather _ _ vd vs1 vs2 => [vd, vs1, vs2]
  | .vcompress _ _ vd vs1 => [vd, vs1]
  | .viota _ _ vd => [vd]
  | .vid _ _ vd => [vd]
  | .vslideup _ _ vd vs1 _ => [vd, vs1]
  | .vslidedn _ _ vd vs1 _ => [vd, vs1]
  | .vslide1up _ _ vd vs1 _ => [vd, vs1]
  | .vslide1dn _ _ vd vs1 _ => [vd, vs1]
  | .vmvXs _ vs1 => [vs1]
  | .vmvSx vd _ => [vd]
  | .vexp2 _ _ vd vs1 => [vd, vs1]
  | .vlog2 _ _ vd vs1 => [vd, vs1]
  | .vrcp _ _ vd vs1 => [vd, vs1]
  | .vrsqrt _ _ vd vs1 => [vd, vs1]
  | .vsin _ _ vd vs1 => [vd, vs1]
  | .vcos _ _ vd vs1 => [vd, vs1]
  | .vtanh _ _ vd vs1 => [vd, vs1]
  | .verf _ _ vd vs1 => [vd, vs1]
  | .vmseq _ _ _ vs1 vs2 => [vs1, vs2]
  | .vmsne _ _ _ vs1 vs2 => [vs1, vs2]
  | .vmslt _ _ _ vs1 vs2 => [vs1, vs2]
  | .vmsle _ _ _ vs1 vs2 => [vs1, vs2]
  | .vmsltu _ _ _ vs1 vs2 => [vs1, vs2]
  | .vmsleu _ _ _ vs1 vs2 => [vs1, vs2]
  | .vmfeq _ _ _ vs1 vs2 => [vs1, vs2]
  | .vmflt _ _ _ vs1 vs2 => [vs1, vs2]
  | .vmfle _ _ _ vs1 vs2 => [vs1, vs2]
  | .vmfun _ _ _ vs1 vs2 => [vs1, vs2]
  | .vld _ _ v _ _ => [v]
  | .vlds _ _ v _ _ => [v]
  | .vldx _ _ v _ vi => [v, vi]
  | .vldff _ _ v _ _ => [v]
  | .vst _ _ v _ _ => [v]
  | .vsts _ _ v _ _ => [v]
  | .vstx _ _ v _ vi => [v, vi]
  | .vstr _ _ v _ _ => [v]
  | .vldbc _ _ v _ => [v]
  | .vldsr v _ _ => [v]
  | .seqld v _ => [v]
  | .seqst v _ => [v]
  | .sendv _ vs _ => [vs]
  | _ => []

/-- Predicate registers that an instruction names. -/
def Instr.predRegs : Instr → List PReg
  | .vadd _ pg _ _ _ => [pg]
  | .vsub _ pg _ _ _ => [pg]
  | .vmul _ pg _ _ _ => [pg]
  | .vmulh _ pg _ _ _ => [pg]
  | .vand _ pg _ _ _ => [pg]
  | .vor _ pg _ _ _ => [pg]
  | .vxor _ pg _ _ _ => [pg]
  | .vsll _ pg _ _ _ => [pg]
  | .vsrl _ pg _ _ _ => [pg]
  | .vsra _ pg _ _ _ => [pg]
  | .vmin _ pg _ _ _ => [pg]
  | .vmax _ pg _ _ _ => [pg]
  | .vminu _ pg _ _ _ => [pg]
  | .vmaxu _ pg _ _ _ => [pg]
  | .vsadd _ pg _ _ _ => [pg]
  | .vssub _ pg _ _ _ => [pg]
  | .vaddVx _ pg _ _ _ => [pg]
  | .vsubVx _ pg _ _ _ => [pg]
  | .vmulVx _ pg _ _ _ => [pg]
  | .vandVx _ pg _ _ _ => [pg]
  | .vsllVx _ pg _ _ _ => [pg]
  | .vsrlVx _ pg _ _ _ => [pg]
  | .vsraVx _ pg _ _ _ => [pg]
  | .vmvVx _ pg _ _ => [pg]
  | .vfadd _ pg _ _ _ => [pg]
  | .vfsub _ pg _ _ _ => [pg]
  | .vfmul _ pg _ _ _ => [pg]
  | .vfdiv _ pg _ _ _ => [pg]
  | .vfmin _ pg _ _ _ => [pg]
  | .vfmax _ pg _ _ _ => [pg]
  | .vfmacc _ pg _ _ _ => [pg]
  | .vfmsac _ pg _ _ _ => [pg]
  | .vfsqrt _ pg _ _ => [pg]
  | .vfneg _ pg _ _ => [pg]
  | .vfabs _ pg _ _ => [pg]
  | .vfaddVx _ pg _ _ _ => [pg]
  | .vfmulVx _ pg _ _ _ => [pg]
  | .vfmaccVx _ pg _ _ _ => [pg]
  | .vfmvVx _ pg _ _ => [pg]
  | .vdeq _ _ _ pg _ _ _ => [pg]
  | .vquant _ _ _ pg _ _ _ => [pg]
  | .vwmacc _ pg _ _ _ => [pg]
  | .vwmaccu _ pg _ _ _ => [pg]
  | .vwmaccsu _ pg _ _ _ => [pg]
  | .vfwmacc _ pg _ _ _ => [pg]
  | .vbfwmacc _ pg _ _ _ => [pg]
  | .vwmul _ pg _ _ _ => [pg]
  | .vwmulu _ pg _ _ _ => [pg]
  | .vfwmul _ pg _ _ _ => [pg]
  | .vncvt _ pg _ _ => [pg]
  | .vnclip _ pg _ _ => [pg]
  | .vnclipu _ pg _ _ => [pg]
  | .vfcvt _ pg _ _ _ => [pg]
  | .vfcvtX _ pg _ _ => [pg]
  | .vfcvtF _ pg _ _ _ => [pg]
  | .vredsum _ pg _ _ _ => [pg]
  | .vredmax _ pg _ _ _ => [pg]
  | .vredmin _ pg _ _ _ => [pg]
  | .vredmaxu _ pg _ _ _ => [pg]
  | .vredminu _ pg _ _ _ => [pg]
  | .vfredsumO _ pg _ _ _ => [pg]
  | .vfredsumT _ pg _ _ _ => [pg]
  | .vfredmax _ pg _ _ _ => [pg]
  | .vfredmin _ pg _ _ _ => [pg]
  | .vscan _ pg _ _ _ => [pg]
  | .vfscan _ pg _ _ _ => [pg]
  | .vrgather _ pg _ _ _ => [pg]
  | .vcompress _ pg _ _ => [pg]
  | .viota _ pg _ => [pg]
  | .vid _ pg _ => [pg]
  | .vslideup _ pg _ _ _ => [pg]
  | .vslidedn _ pg _ _ _ => [pg]
  | .vslide1up _ pg _ _ _ => [pg]
  | .vslide1dn _ pg _ _ _ => [pg]
  | .vexp2 _ pg _ _ => [pg]
  | .vlog2 _ pg _ _ => [pg]
  | .vrcp _ pg _ _ => [pg]
  | .vrsqrt _ pg _ _ => [pg]
  | .vsin _ pg _ _ => [pg]
  | .vcos _ pg _ _ => [pg]
  | .vtanh _ pg _ _ => [pg]
  | .verf _ pg _ _ => [pg]
  | .vmseq _ pg pd _ _ => [pg, pd]
  | .vmsne _ pg pd _ _ => [pg, pd]
  | .vmslt _ pg pd _ _ => [pg, pd]
  | .vmsle _ pg pd _ _ => [pg, pd]
  | .vmsltu _ pg pd _ _ => [pg, pd]
  | .vmsleu _ pg pd _ _ => [pg, pd]
  | .vmfeq _ pg pd _ _ => [pg, pd]
  | .vmflt _ pg pd _ _ => [pg, pd]
  | .vmfle _ pg pd _ _ => [pg, pd]
  | .vmfun _ pg pd _ _ => [pg, pd]
  | .pand pg pd pa pb => [pg, pd, pa, pb]
  | .por pg pd pa pb => [pg, pd, pa, pb]
  | .pxor pg pd pa pb => [pg, pd, pa, pb]
  | .pandn pg pd pa pb => [pg, pd, pa, pb]
  | .pnot pg pd pa => [pg, pd, pa]
  | .pcut pg pd pa => [pg, pd, pa]
  | .pfind pg _ pa => [pg, pa]
  | .ppopc pg _ pa => [pg, pa]
  | .psetn pg pd _ => [pg, pd]
  | .pany pg _ pa => [pg, pa]
  | .vld _ pg _ _ _ => [pg]
  | .vlds _ pg _ _ _ => [pg]
  | .vldx _ pg _ _ _ => [pg]
  | .vldff _ pg _ _ _ => [pg]
  | .vst _ pg _ _ _ => [pg]
  | .vsts _ pg _ _ _ => [pg]
  | .vstx _ pg _ _ _ => [pg]
  | .vstr _ pg _ _ _ => [pg]
  | .vldbc _ pg _ _ => [pg]
  | _ => []

end Sys2Proof
end

