-- ==== Sys2Proof/Machine/Issue.lean ====
section
/-! DEFINITION. How a context issues its next instruction, which steps of the package may come next, and the state in
which the next step runs a given instruction. -/

namespace Sys2Proof.Machine
open Sys2Proof

/-! ## Which context may issue -/

/-- The main context of ring core `n` has a thread of its ring's launch: the ring thread, or a chunk (R3, R204, R205). -/
def State.hasThread (s : State) (n : Nat) : Bool :=
  let g := s.ring (ringOf n)
  g.running.isSome && !g.stopped &&
    match g.region with
    | none => n % 8 == 0
    | some r => (s.chunkOn n).isSome || (r.home == n && r.parked.isNone)

/-- A main context at U that a stop or a halt lets issue: a held cause still traps, before a halt once its chunk holds the
Ensign, the step of R187 still comes before a halt, and younger chunks of an assured region wait (R230, R316, R367,
R371). -/
def State.notStopping (s : State) (n : Nat) : Bool :=
  let c := s.core n
  let chunk := s.chunkOn n
  let held := (chunk.map (fun k => k.held.isSome)).getD false
  let steps := (chunk.map (fun k => k.stepFirst)).getD false
  let traps := match chunk, (s.ring (ringOf n)).region with
    | some k, some r => k.held.isSome && r.ensignQ == k.q
    | _, _ => false
  let younger := match chunk, (s.ring (ringOf n)).region with
    | some k, some r => r.youngerStopped && decide (r.ensignQ < k.q)
    | _, _ => false
  (!c.haltReq || steps || traps) && (!c.stopReq || held) && !younger

/-- The arithmetic clock stands still: it has been told to stop, and every launch has ended (R388). -/
def State.clockOff (s : State) : Bool := s.clockStopped && s.rings.all (fun e => e.2.running.isNone)

/-- A context may issue an instruction. -/
def State.mayIssue (s : State) (n : Nat) (h : Bool) : Bool :=
  let c := s.core n
  decide (n < Config.allCores) && s.up && !s.clockOff && c.awake && (c.ctx h).wait.isNone &&
    (if h then c.run.isSome else (!isRingCore n || s.hasThread n) && (c.prv || s.notStopping n))

/-! ## Issue (R49, R208, R243, R366) -/

/-- The parcels of the instruction at pc; the second is 0 for an instruction of one parcel (R49). -/
def fetchParcels : M (Nat × Nat) := do
  let pc := (← getCtx).pc
  match ← fetchParcel pc.toNat with
  | .error f => raise f.1 f.2
  | .ok p0 =>
    if parcelLength p0 = 2 then return (p0, 0)
    match ← fetchParcel (pc + 2).toNat with
    | .error f => raise f.1 f.2
    | .ok p1 => return (p0, p1)

/-- A handler may execute 512 instructions (R243). -/
def budgetCheck : M Unit := do
  let s ← getState
  if s.curH && !s.ctx.issued then
    match s.me.run with
    | some r => if 512 ≤ r.count then raiseHere .handlerBudget
    | none => pure ()

/-- The instruction counts towards the handler's budget, once (R243). -/
def budgetCount : M Unit := modState (fun s =>
  if s.curH && !s.ctx.issued then
    s.mapCore s.cur (fun c => { c with run := c.run.map (fun r => { r with count := r.count + 1 }) })
  else s)

/-- A chunk with a held cause traps in place of its next instruction (R226), and one that has to perform the step of R187
first does so (R234). -/
def chunkPreface : M Unit := do
  let s ← getState
  match s.chunk with
  | none => pure ()
  | some c =>
    if !s.me.prv then
      match c.held with
      | some h =>
        heldTrap h
        endIn (← getState)
      | none =>
        if c.stepFirst then
          awaitEnsign
          modState (fun s => s.mapMyChunk (fun c => { c with stepFirst := false }))
          endIn (← getState)

/-- Answers to version probes are the previous instruction's (R212). -/
def freshProbes : M Unit := modState (fun s =>
  if s.ctx.issued then s else s.mapMyChunk (fun c => { c with probe := [], probing := none }))

/-- Everything that comes before the decoded instruction (steps 1 to 3 of Table 22.3). -/
def prelude : M (Nat × Nat) := do
  chunkPreface
  budgetCheck
  freshProbes
  let p ← fetchParcels
  budgetCount
  return p

/-- The element width at which an instruction names its registers. A conversion whose configuration R122 does not allow has
no source width, so it names no second register; 64 is the greatest width. -/
def State.regWidth (s : State) : Instr → Nat
  | .vfcvtF _ _ _ _ _ => if s.ctx.vill || !intWidths.contains (widthOf s.ctx.ew) then 64 else widthOf s.ctx.ew
  | _ => if s.ctx.vill then 64 else widthOf s.ctx.ew

/-- A register that the handler context does not have is named (R18). -/
def beyondHandler (s : State) (i : Instr) : Bool :=
  s.curH && ((i.vectorRegs (s.regWidth i)).any (fun v => decide (3 < v.toNat)) || i.predRegs.any (fun p => decide (1 < p.toNat)))

/-- A control transfer in the sense of R94. -/
def transfersControl : Instr → Bool
  | .beq _ _ _ => true
  | .bne _ _ _ => true
  | .blt _ _ _ => true
  | .bge _ _ _ => true
  | .bltu _ _ _ => true
  | .bgeu _ _ _ => true
  | .bkt _ _ => true
  | .bkf _ _ => true
  | .jal _ _ => true
  | .jalr _ _ _ => true
  | .loop _ _ => true
  | .loopi _ _ => true
  | .cJ _ => true
  | .cJr _ => true
  | .cBnez _ _ => true
  | .cBeqz _ _ => true
  | .cBkt _ _ => true
  | .cBkf _ _ => true
  | .hend => true
  | .cHend => true
  | .cend => true
  | .cCend => true
  | .join => true
  | .fork _ => true
  | .forka _ => true
  | .trap _ => true
  | .eret => true
  | .brk _ => true
  | .cBrk => true
  | .halt => true
  | _ => false

/-- An instruction that runs at S only (R19, R62). -/
def needsS : Instr → Bool
  | .eret => true
  | .halt => true
  | .tlbinvPage _ => true
  | .tlbinvAsid _ => true
  | .tlbinvAll _ => true
  | .stop _ => true
  | .save _ => true
  | .restore _ => true
  | .abort _ => true
  | .cinv _ => true
  | .sysrd num _ => num.getLsbD 11
  | .syswr num _ => num.getLsbD 11
  | _ => false

/-- The instruction fails an earlier check than those of its own: privilege, or the loop-end hazard (steps 6 and 7 of
Table 22.3). -/
def failsEarlier (s : State) (i : Instr) : Bool := (needsS i && !s.atS) || (transfersControl i && s.ctx.atLoopEnd)

/-- An instruction other than `join` has been reached at the address after a fork (R181): the region is abandoned. -/
def notJoin (s : State) (i : Instr) : Bool :=
  !s.curH && decide (i ≠ .join) && !failsEarlier s i &&
    match s.me.seq with
    | some sq => sq.complete && sq.joinPc == s.ctx.pc
    | none =>
      match s.region with
      | some r => s.chunk.isNone && r.home == s.cur && r.joinPc == s.ctx.pc
      | none => false

/-- The fork-state cause of R181. -/
def State.abandonFork (s : State) : State :=
  let s := s.raise .forkState s.ctx.pc false
  if s.me.seq.isSome then s.mapCore s.cur (fun c => { c with seq := none }) else s.abandon (ringOf s.cur)

/-- A live-in that `fwd` or `cend` passes on. -/
def passesOn (l : List LiveIn) : Instr → List LiveIn
  | .cend => l
  | .cCend => l
  | .fwd n => (l[n.toNat]?).toList
  | _ => []

/-- The live-ins, by number, that the instruction reads or writes and that have not arrived (R208). -/
def awaitsLiveIns (s : State) (i : Instr) : List Nat :=
  if s.curH || s.me.prv then []
  else
    let all := match s.region with | some r => r.frec.lives | none => []
    ((s.awaited s.cur).filter (fun p =>
      (passesOn all i).contains p.2
        || if p.2.vec then (i.vectorRegs (s.regWidth i)).any (fun v => v.toNat == p.2.reg)
           else i.scalarRegs.any (fun r => r.toNat == p.2.reg))).map (·.1)

/-- A decoded instruction of `len` bytes: register limits, then R181 after the checks that come before it, then the wait for
live-ins, then its meaning. -/
def runDecoded (i : Instr) (len : Nat) (s : State) : Host.Outcome State Fault Refusal :=
  if beyondHandler s i then exec (.reservedEncoding len) s
  else if notJoin s i then .next s.abandonFork
  else if awaitsLiveIns s i ≠ [] then finish (stallForLiveIn (awaitsLiveIns s i)) s
  else exec i s

/-- The current context's next instruction, once its parcels are there. -/
noncomputable def runParcels (p : Nat × Nat) (s : State) : Host.Outcome State Fault Refusal :=
  match decodeParcels p.1 p.2 with
  | .instr i len => runDecoded i len s
  | .permanentlyIllegal len => exec (.reservedEncoding len) s
  | .reserved len => exec (.reservedEncoding len) s
  | .truncated => exec (.reservedEncoding 2) s

/-- One context issues its next instruction. -/
noncomputable def issue (n : Nat) (h : Bool) (s : State) : Host.Outcome State Fault Refusal :=
  if !s.mayIssue n h then .next s
  else
    let s := s.checkUnit n Upset.ofScalar
    if (s.core n).fenced then .next s
    else match prelude { s with cur := n, curH := h } with
      | .error t => .next t
      | .ok (p, t) => runParcels p t

/-! ## What the package does next, when no schedule says so -/

/-- A step that changes the state. -/
def State.moves (s : State) (i : Instr) : Bool :=
  match exec i s with
  | .next t => decide (t ≠ s)
  | _ => true

/-- Steps of a ring whose conditions are looked at. -/
def ringEvents (s : State) (g : Nat) : List Instr :=
  let r := s.ring g
  let region := match r.region with
    | none => []
    | some x => [Instr.squashDiscarded g] ++ x.chunks.map (fun c => Instr.commitComplete g c.q) ++ [Instr.joinComplete g, .chunkPlacement g]
        ++ x.chunks.map (fun c => Instr.chunkStart g c.q)
  region ++ (List.range r.queue.length).map (fun k => Instr.launchFenceClear g k)
    ++ (if r.stopFor = some .preempt ∨ (r.stopFor.isSome ∧ !r.stopped) ∨ s.preemptor g = some 3 ∨ (s.policyQuantum = 0 ∧ (s.preemptor g).isSome) then [.quantumExpiry g] else [])
    ++ [Instr.launchComplete g, .launchStart g]

/-- The step that ends a wait of a context. -/
def waitEvents (n : Nat) (h : Bool) : Option Wait → List Instr
  | some (.ybar _ _) => [.ybarRelease n]
  | some (.swait _ _) => [.swaitReturn n]
  | some (.cpywait _ _) => [.cpywaitReturn n]
  | some (.thawq _ _) => [.thawqReturn n]
  | some (.remoteLoad (.host _) _ _ _ _) => [.hostReadCompletion n (.context h) false]
  | _ => []

/-- Steps of the transfers of a core, oldest transfer of each channel first. -/
def copyEvents (n : Nat) (c : Core) : List Instr :=
  c.chans.flatMap (fun e => e.2.transfers.flatMap (fun t =>
    [.copyRetranslate n e.1 t.tid, .copyWrite n e.1 t.tid, .followOnCommand n e.1 t.tid, .copyTransferComplete n e.1 t.tid]))

/-- Steps of a core whose conditions are looked at. -/
def coreEvents (s : State) (n : Nat) : List Instr :=
  let c := s.core n
  waitEvents n false c.main.wait ++ waitEvents n true c.hnd.wait ++ copyEvents n c ++ [Instr.handlerDispatch n]
    ++ (if s.policyReturns n || s.endsAtOnce n then [.faultPolicyWaitLimit n] else [])
    ++ (if c.haltReq || (s.handling n && s.atBreakpoint n) then [.debugHalt n] else [])

/-- Every step whose condition may hold, in the default order. -/
def State.candidates (s : State) : List Instr :=
  (if s.up || s.recovery then [] else [.powerOn]) ++ s.flight ++ s.rings.flatMap (fun e => ringEvents s e.1)
    ++ s.cores.flatMap (fun e => coreEvents s e.1)
    ++ (s.corrections.filter (fun e => decide (64 ≤ e.2))).map (fun e => Instr.frameReport e.1)

/-- The default order issues a main context: a Curator core's once it has been given a page table, and a ring core's at
S once TVEC holds the entry of the Curator's firmware, which the manual does not give (log 1). -/
def Core.issuesByDefault (n : Nat) (c : Core) : Bool :=
  if isRingCore n then !c.prv || decide (c.tvec ≠ 0) else decide (c.ptbase ≠ 0)

/-- Contexts in the default order (log 1). -/
def State.contexts (s : State) : List (Nat × Bool) :=
  s.cores.flatMap (fun e => (if e.2.issuesByDefault e.1 then [(e.1, false)] else []) ++ [(e.1, true)])

/-- The place of a context in the default order. -/
def turnOf (c : Nat × Bool) : Nat := 2 * c.1 + bit c.2

/-- The context whose turn it is. -/
def State.nextContext (s : State) : Option (Nat × Bool) :=
  let may := s.contexts.filter (fun c => s.mayIssue c.1 c.2)
  match may.find? (fun c => decide (s.turn ≤ turnOf c)) with
  | some c => some c
  | none => may.head?

/-! ## The host's word -/

/-- Where `withFetchWord` places its instruction. -/
def wordAt : Nat := 0x10000

/-- A page table that maps the first 512 MiB onto themselves (Tables 18.3 and 18.4): a root, two tables, and a leaf with
every right. -/
def bootTables (b : Bank Byte) : Bank Byte :=
  writeBytes (writeBytes (writeBytes b 0x20000 8 0x30001) 0x30000 8 0x40001) 0x40000 8 0x3F

/-- Lines that hold the instruction and its page table. -/
def bootLine (line : Nat) : Bool := [512, 1024, 1536, 2048].contains line

/-- A launch that runs on ring 0. -/
def bootLaunch : Launch :=
  { pkt := ⟨BitVec.ofNat 64 wordAt, 0, 0, 0, 0, 0, false, false, 0, 0, []⟩, asid := 1 }

/-- Core 0 about to fetch the instruction. -/
def bootCore (c : Core) : Core :=
  { c with
    main := { c.main.fresh with pc := BitVec.ofNat 64 wordAt, wait := none, loops := [] }
    asid := 1, ptbase := 0x20, tlb := [], icache := [], prv := false, stopReq := false, haltReq := false, halted := false
    stopped := false, fenced := false, seq := none, upset := none }

/-- The instruction's bytes and its page table in device memory. -/
def State.bootMemory (s : State) (w : Nat) : State :=
  { s with
    hbm := bootTables (writeBytes s.hbm wordAt 4 w)
    annex := s.annex.filter (fun e => !bootLine (e.1 % 2 ^ 34)), poison := s.poison.filter (fun e => !bootLine (e.1 / 8)) }

/-- The package about to run core 0's next instruction, which is `w` with the bits above `nbits` zero. -/
def State.placeWord (s : State) (nbits w : Nat) : State :=
  let s := s.bootMemory (w % 2 ^ nbits)
  let s := s.mapCore 0 bootCore
  let s := s.mapRing 0 (fun g => { g with running := some bootLaunch, region := none, stopFor := none, stopped := false })
  { s with up := true, clockStopped := false, homeMap := [], striped := [], agenda := [.run 0 false] }

end Sys2Proof.Machine
end

