-- ==== Sys2Proof/Machine/Step.lean ====
section
/-! DEFINITION. One step of the package. -/

namespace Sys2Proof.Machine
open Sys2Proof

/-- What the head of the agenda asks for. -/
noncomputable def perform (a : Act) (s : State) : Host.Outcome State Fault Refusal :=
  match a with
  | .run n h => issue n h s
  | .event i => exec i s

/-- One step: the head of the agenda; with none, the first step of the package that changes the state; with none, the
next instruction of the context whose turn it is; with none, nothing (log 1). -/
noncomputable def step (s : State) : Host.Outcome State Fault Refusal :=
  match s.agenda with
  | a :: t => perform a { s with agenda := t }
  | [] =>
    match s.candidates.find? s.moves with
    | some i => exec i s
    | none =>
      match s.nextContext with
      | some c => issue c.1 c.2 { s with turn := turnOf c + 1 }
      | none => .next s

/-- The state in which the next step runs the instruction `w`. -/
def State.withFetchWord (s : State) (nbits w : Nat) : State := s.placeWord nbits w

end Sys2Proof.Machine
end

