-- ==== Sys2Proof/Safety.lean ====
section
/-! DEFINITION. The terms in which claims are stated: the bytes a state holds, the canonical form of its memory, what an
instruction that completes changes and leaves, and what a run that keeps to the package's own steps is. -/

namespace Sys2Proof.Machine
open Sys2Proof

/-! ## Memory -/

/-- The byte at a place, as an observer at order rlx and scope pkg reads it. A peer's bytes are not this package's. -/
def State.byteAt (s : State) : Loc → Byte
  | .hbm pa => BitVec.ofNat 8 (s.currentBytes pa 1)
  | .scratch n off => Bank.get 0 (s.core n).scratch off
  | .host a => Bank.get 0 s.hostMem a
  | .peer _ _ => 0

/-- Device memory, host memory and every scratchpad, those of held launches among them, are in canonical form: addresses
strictly rising, and no byte listed that an unlisted address reads as. -/
def Memory.wf (s : State) : Bool :=
  let pads (l : List Core) : Bool := l.all (fun c => Bank.wf 0 c.scratch)
  Bank.wf 0 s.hbm && Bank.wf 0 s.hostMem && pads (s.cores.map (·.2))
    && s.rings.all (fun g => g.2.saved.all (fun v => pads v.cores)) && s.images.all (fun v => pads v.cores)

/-! ## Invariants -/

/-- The live-ins of a record name different registers, each one that a live-in may name (R178, Table 9.4). -/
def ForkRec.legal (f : ForkRec) : Prop :=
  f.lives.Pairwise (fun a b => a.vec ≠ b.vec ∨ a.reg ≠ b.reg)
    ∧ ∀ l ∈ f.lives, l.reg < (if l.vec then 32 else 64) ∧ (l.vec = false → l.reg ≠ 0 ∧ ¬(8 ≤ l.reg ∧ l.reg ≤ 13))

/-- Every region, open or held, has a legal record; cores, Annex lines, Vitrine entries and Catalogue entries are listed
once each, in rising order of their numbers. -/
structure State.Legal (s : State) : Prop where
  cores : (s.cores.map (·.1)).Pairwise (· < ·)
  annex : (s.annex.map (·.1)).Pairwise (· < ·)
  vit : (s.vit.map (·.1)).Pairwise (· < ·)
  cat : (s.cat.map (·.1)).Pairwise (· < ·)
  records : ∀ g ∈ s.rings, ∀ r, g.2.region = some r → r.frec.legal
  held : ∀ g ∈ s.rings, ∀ v ∈ g.2.saved, ∀ r, v.region = some r → r.frec.legal
  images : ∀ v ∈ s.images, ∀ r, v.region = some r → r.frec.legal

/-! ## Completion and frames -/

/-- The instruction completes, and `P` holds of the state it leaves. -/
def Completes (i : Instr) (s : State) (P : State → Prop) : Prop := ∃ t, exec i s = .next t ∧ P t

/-- Only the current context has changed; every byte of memory reads as before. -/
structure OnlyContext (s t : State) : Prop where
  package : t = s.setCtx t.ctx
  memory : ∀ l, t.byteAt l = s.byteAt l

/-- X(rd) := v (nothing when rd is s0), FFLAGS takes `fl`, SEED becomes `seed`, and the program counter moves on by an
instruction of `len` bytes (R93). Nothing else changes. -/
structure WritesX (s t : State) (rd : SReg) (v : Word) (fl : Flags) (seed : BitVec 32) (len : Word) : Prop where
  value : t.ctx.x rd = if rd = 0 then 0 else v
  others : ∀ r, r ≠ rd → t.ctx.x r = s.ctx.x r
  context : t.ctx = { s.ctx with s := t.ctx.s, fflags := s.ctx.fflags ||| fl, seed := seed, pc := (s.ctx.retire len).pc,
                                 loops := (s.ctx.retire len).loops, issued := false, stamped := false }
  outside : OnlyContext s t

/-- kd := b, FFLAGS takes `fl`, and the program counter moves on. Nothing else changes. -/
structure WritesK (s t : State) (kd : KReg) (b : Bool) (fl : Flags) : Prop where
  value : t.ctx.kb kd = b
  others : ∀ n, n ≠ kd → t.ctx.kb n = s.ctx.kb n
  context : t.ctx = { s.ctx with k := t.ctx.k, fflags := s.ctx.fflags ||| fl, pc := (s.ctx.retire 4).pc,
                                 loops := (s.ctx.retire 4).loops, issued := false, stamped := false }
  outside : OnlyContext s t

/-- vd is written as a completed write (P := VL, D := 1, VDIRTY; R15, R20), VSTART := 0, FFLAGS takes `fl`, SEED becomes
`seed`, and the program counter moves on. No other vector register and nothing else of the context changes. -/
structure VecWritten (c d : Ctx) (vd : VReg) (fl : Flags) (seed : BitVec 32) : Prop where
  progress : Bank.get 0 d.prog vd.toNat = c.vl.toNat
  others : ∀ n, n ≠ vd → d.vr n = c.vr n ∧ Bank.get 0 d.prog n.toNat = Bank.get 0 c.prog n.toNat
  context : d = { c with v := d.v, prog := d.prog, done := c.done ||| BitVec.twoPow 32 vd.toNat,
                         vdirty := c.vdirty ||| BitVec.twoPow 32 vd.toNat, vstart := 0, fflags := c.fflags ||| fl, seed := seed,
                         pc := (c.retire 4).pc, loops := (c.retire 4).loops, issued := false, stamped := false }

/-- So is the even pair vd, vd + 1 (R14). -/
structure PairWritten (c d : Ctx) (vd : VReg) (fl : Flags) (seed : BitVec 32) : Prop where
  progress : Bank.get 0 d.prog vd.toNat = c.vl.toNat ∧ Bank.get 0 d.prog (vd + 1).toNat = c.vl.toNat
  others : ∀ n, n ≠ vd → n ≠ vd + 1 → d.vr n = c.vr n ∧ Bank.get 0 d.prog n.toNat = Bank.get 0 c.prog n.toNat
  context : d = { c with v := d.v, prog := d.prog,
                         done := c.done ||| BitVec.twoPow 32 vd.toNat ||| BitVec.twoPow 32 (vd + 1).toNat,
                         vdirty := c.vdirty ||| BitVec.twoPow 32 vd.toNat ||| BitVec.twoPow 32 (vd + 1).toNat, vstart := 0,
                         fflags := c.fflags ||| fl, seed := seed, pc := (c.retire 4).pc, loops := (c.retire 4).loops,
                         issued := false, stamped := false }

/-- pd is written, VSTART := 0, FFLAGS takes `fl`, and the program counter moves on. Nothing else of the context changes. -/
structure PredWritten (c d : Ctx) (pd : PReg) (fl : Flags) : Prop where
  others : ∀ n, n ≠ pd → d.pr n = c.pr n
  context : d = { c with p := d.p, vstart := 0, fflags := c.fflags ||| fl, pc := (c.retire 4).pc, loops := (c.retire 4).loops,
                         issued := false, stamped := false }

/-- An element-wise instruction computes element `i` of its vector (R123, R124). -/
def Ctx.computes (c : Ctx) (pm : Bool) (pg : PReg) (first i : Nat) : Bool :=
  decide (Nat.max first c.vstart.toNat ≤ i) && decide (i < c.vl.toNat) && c.active pm pg i

/-- SEED before element `n` of an element-wise instruction whose results are `f i u`, u being the generator's next output
(R35, R36). -/
def Ctx.seedAt (c : Ctx) (pm : Bool) (pg : PReg) (first : Nat) (f : Nat → BitVec 32 → FRes) : Nat → BitVec 32
  | 0 => c.seed
  | n + 1 =>
    let u := c.seedAt pm pg first f n
    if c.computes pm pg first n && (f n (lfsrNext u)).rand then lfsrNext u else u

/-- Result of element `i`. -/
def Ctx.resultAt (c : Ctx) (pm : Bool) (pg : PReg) (first : Nat) (f : Nat → BitVec 32 → FRes) (i : Nat) : FRes :=
  f i (lfsrNext (c.seedAt pm pg first f i))

/-- FFLAGS of the elements computed. -/
def Ctx.flagsOf (c : Ctx) (pm : Bool) (pg : PReg) (first : Nat) (f : Nat → BitVec 32 → FRes) : Flags :=
  ((List.range c.vl.toNat).filter (c.computes pm pg first)).foldl (fun a i => a ||| (c.resultAt pm pg first f i).flags) 0

/-- What an element `i` of width `w` becomes: its result where it is computed; where it is inactive from VSTART to below
VL, its old value `old` under PM = 0 and zero under PM = 1; and its old value elsewhere (R16, R123, R124). -/
def Ctx.elementAt (c : Ctx) (pm : Bool) (pg : PReg) (first : Nat) (w : Nat) (f : Nat → BitVec 32 → FRes) (old i : Nat) : Nat :=
  if c.computes pm pg first i then (c.resultAt pm pg first f i).code % 2 ^ w
  else if pm = true ∧ Nat.max first c.vstart.toNat ≤ i ∧ i < c.vl.toNat then 0 else old

/-- A register that an instruction has written at width 6 has bits [4095:4080] zero (R12). -/
def TopClear (w : Nat) (x : BitVec 4096) : Prop := w = 6 → x.extractLsb' 4080 16 = 0

/-- vd takes the results of an element-wise instruction. -/
def ElementsWritten (c d : Ctx) (pm : Bool) (pg : PReg) (first : Nat) (vd : VReg) (w : Nat) (f : Nat → BitVec 32 → FRes) : Prop :=
  VecWritten c d vd (c.flagsOf pm pg first f) (c.seedAt pm pg first f c.vl.toNat)
    ∧ (∀ i < vlmax w, elem w (d.vr vd) i = c.elementAt pm pg first w f (elem w (c.vr vd) i) i) ∧ TopClear w (d.vr vd)

/-- An even pair takes them: elements below VLMAX in vd, the others in vd + 1. -/
def PairElementsWritten (c d : Ctx) (pm : Bool) (pg : PReg) (vd : VReg) (w : Nat) (f : Nat → BitVec 32 → FRes) : Prop :=
  PairWritten c d vd (c.flagsOf pm pg 0 f) (c.seedAt pm pg 0 f c.vl.toNat)
    ∧ (∀ i < vlmax w, elem w (d.vr vd) i = c.elementAt pm pg 0 w f (elem w (c.vr vd) i) i)
    ∧ ∀ i < vlmax w, elem w (d.vr (vd + 1)) i = c.elementAt pm pg 0 w f (elem w (c.vr (vd + 1)) i) (vlmax w + i)

/-- The vector configuration is legal with EW one of `widths` (R122), and no upset of the hardware is at hand (R374). -/
def State.vectorReady (s : State) (widths : List Nat) : Prop :=
  s.ctx.vill = false ∧ s.ctx.ew.toNat ≤ 5 ∧ widthOf s.ctx.ew ∈ widths ∧ s.me.upset = none

/-- An instruction that touches only its context completes, and `P` holds of the old and the new context. -/
def GivesCtx (i : Instr) (s : State) (P : Ctx → Ctx → Prop) : Prop := Completes i s (fun t => P s.ctx t.ctx ∧ OnlyContext s t)

/-- X(rd) := v by an instruction of `len` bytes that touches nothing else. -/
def GivesX (i : Instr) (s : State) (rd : SReg) (v : Word) (len : Word) : Prop :=
  Completes i s (fun t => WritesX s t rd v 0 s.ctx.seed len)

/-- Two states, or two parts of them, agree in all that `e` keeps: `e` blanks what may differ. -/
def Same {α : Type} (e : α → α) (s t : α) : Prop := e t = e s

/-- Only the program counter and the loop stack of the current context have changed (R89, R93): to `pc` and `loops`. -/
structure Moves (s t : State) (pc : Word) (loops : List LoopEntry) : Prop where
  context : t.ctx = { s.ctx with pc := pc, loops := loops, issued := false, stamped := false }
  outside : OnlyContext s t

/-! ## Scratchpad accesses -/

/-- The registers of a core: all of it but its scratchpad, its cached lines and translations, and its logical time. -/
def Core.regs (c : Core) : Core :=
  { c with scratch := [], scratchWts := [], scratchRts := [], scratchPoison := [], l1 := [], icache := [], tlb := [], lts := 0 }

/-- A context that has completed an instruction of four bytes: `c` with the program counter and the loop stack moved on
(R93). -/
def Ctx.completed (c : Ctx) : Ctx :=
  { c with pc := (c.retire 4).pc, loops := (c.retire 4).loops, issued := false, stamped := false }

/-- The current context becomes `c`, and no register of any core, no ring, no device or host memory and no other part of
the package changes: what an access of the own scratchpad leaves. -/
structure ScratchAccess (s t : State) (c : Ctx) : Prop where
  registers : ∀ n, (t.core n).regs = ((s.setCtx c).core n).regs
  outside : Same (fun x : State => { x with cores := [] }) s t

/-- X(rd) := v is all that an access of the own scratchpad changes in the registers, beside the program counter. -/
structure LoadsX (s t : State) (rd : SReg) (v : Word) : Prop where
  value : t.ctx.x rd = if rd = 0 then 0 else v
  others : ∀ r, r ≠ rd → t.ctx.x r = s.ctx.x r
  access : ScratchAccess s t { s.ctx.completed with s := t.ctx.s }

/-- `n` bytes of a scratchpad, little-endian. -/
def State.scratchBits (s : State) (core off n : Nat) : BitVec (8 * n) := BitVec.ofNat _ (readBytes (s.core core).scratch off n)

/-- Byte `off` of window `w` of the current core's own scratchpad lies at address `ea` (Tables 2.5 and 12.1), the core is a
ring core, and what it executes is no speculative chunk. -/
def State.ownPlace (s : State) (ea : Word) (w off : Nat) : Prop :=
  isRingCore s.cur = true ∧ s.speculative = false ∧ w < 8 ∧ off < Config.scratchBytes
    ∧ ea.toNat = Config.ownScratch + w * 0x100000 + off

/-- A read of line `line` of the current core's scratchpad meets no poison and no error of the memory (R377, R380). -/
def State.cleanLine (s : State) (line : Nat) : Prop :=
  s.bitErrors = [] ∧ ∀ g < 8, Bank.get false s.me.scratchPoison (line * 8 + g) = false

/-- After a store of `data` at offset `off` of core `n`'s scratchpad: those bytes read as stored, and every other byte of
memory reads as before. -/
def Stored (s t : State) (n off len : Nat) (data : Nat) : Prop :=
  (∀ i < len, t.byteAt (.scratch n (off + i)) = BitVec.ofNat 8 (data / 256 ^ i))
    ∧ ∀ l, (∀ i < len, l ≠ .scratch n (off + i)) → t.byteAt l = s.byteAt l

/-- `w` bits of a scratchpad from bit `b` after byte `off`, the lowest bit of the lowest byte first (R12, R144). -/
def State.scratchField (s : State) (core off b w : Nat) : Nat :=
  bits (readBytes (s.core core).scratch (off + b / 8) ((b % 8 + w + 7) / 8)) (b % 8) w

/-- So it is of the whole scratchpad. -/
def State.clean (s : State) : Prop := s.bitErrors = [] ∧ ∀ g < 32768, Bank.get false s.me.scratchPoison g = false

/-- A load of the own scratchpad: the context becomes `d`, every other register and byte of the package stays. -/
def GivesLoad (i : Instr) (s : State) (P : Ctx → Ctx → Prop) : Prop :=
  Completes i s (fun t => P s.ctx t.ctx ∧ ScratchAccess s t t.ctx ∧ ∀ l, t.byteAt l = s.byteAt l)

/-- A vector store to the own scratchpad: VSTART := 0 and the program counter moves on; byte `o` of the scratchpad becomes
`new o`; every other byte, and every register, stays. Rings and steps on their way change only by the broadcast of a
chunk's stores (R217). -/
def GivesStore (i : Instr) (s : State) (new : Nat → Byte) : Prop :=
  Completes i s (fun t => (∀ o < Config.scratchBytes, t.byteAt (.scratch s.cur o) = new o)
    ∧ (∀ l, (∀ o < Config.scratchBytes, l ≠ .scratch s.cur o) → t.byteAt l = s.byteAt l)
    ∧ (∀ k, (t.core k).regs = ((s.setCtx { s.ctx.completed with vstart := 0 }).core k).regs)
    ∧ Same (fun x : State => { x with cores := [], rings := [], flight := [] }) s t
    ∧ (s.chunk = none → t.rings = s.rings ∧ t.flight = s.flight))

/-- Core `n`'s overflow area of an address space holds nothing that acts on a line of its scratchpad (R260). -/
def State.nothingHeld (s : State) (n asid line : Nat) : Prop :=
  ∀ l, Bank.find (s.core n).overflow asid = some l → ∀ h ∈ l, ∀ m, heldPlace h ≠ some (line, m)

/-- Reads of memory and look-ups of tags meet no error, and no operation of core `n` fails its check (R375, R377, R379). -/
def State.sound (s : State) (n : Nat) : Prop := (s.core n).upset = none ∧ s.bitErrors = [] ∧ s.tagErrors = []

/-! ## Runs -/

/-- Steps that something outside the package, the passage of time or an upset brings about, at any moment: the host, a
peer, the management controller, a debugger, a timer, an Annex that evicts. -/
def comesFromOutside : Instr → Bool
  | .evictionNotice _ _ => true | .switchDieLoss _ => true | .stationLoss _ => true | .launchGo _ _ => true
  | .broadcastGo _ => true | .flush _ _ => true | .quantumExpiry _ => true | .timeoutExpiry _ => true
  | .policyWrite _ => true | .registerWrite _ _ => true | .apbaseWrite _ => true | .hostBar2Read r _ _ => r.held.isNone
  | .hostBar2Write r _ _ => r.held.isNone | .mailboxControlWrite _ _ _ => true | .sendWindowGo _ => true
  | .syncWindowRead r => r.held.isNone
  | .valWrite _ _ => true | .addWrite _ _ => true | .peerAccess p _ => p.held.isNone | .peerMessage _ _ => true
  | .peerWriteAck _ _ => true | .peerCompletion _ _ => true | .computeDrop _ => true | .fullDrop _ => true
  | .patrolScrub _ => true | .temperatureReport _ _ => true | .powerBudget _ _ => true | .powerOn => true
  | .securityCounter _ => true | .spdmRequest _ => true | .endLaunch _ _ => true | .debugHalt _ => true
  | .release _ => true | .readState _ _ => true | .writeState _ _ _ => true | .readLog _ _ => true | .clearLog _ => true
  | .restoreDie _ => true | .powerLimit _ => true | .moduleReset => true | .bar2Resize _ => true
  | .linkRetraining _ _ => true | .faultPolicyWaitLimit _ => true | .firmwareImageUpdate _ => true | .ltsTick _ => true
  | _ => false

/-- A read of host memory that is on its way may come back with an error status (R351). -/
def State.readFails (s : State) : Instr → Bool
  | .hostReadCompletion core ask true => s.flight.contains (.hostReadCompletion core ask false)
  | _ => false

/-- The package may take this step now: an instruction of a context that may issue, a step on its way, a step whose
condition is looked at, or one from outside. An agenda that names no other is a schedule of the package (log 1). -/
def State.offers (s : State) : Act → Bool
  | .run n h => s.mayIssue n h
  | .event i => s.flight.contains i || s.candidates.contains i || comesFromOutside i || s.readFails i

/-- A safe run: each step is one that the package offers. -/
inductive SafeRun : State → State → Prop where
  | here (s : State) : SafeRun s s
  | step {s t u : State} : SafeRun s t → (∀ a ∈ t.agenda.head?, t.offers a = true) → step t = .next u → SafeRun s u

end Sys2Proof.Machine
end

