-- ==== Sys2Proof/Certificates/Slice0/Obligations.lean ====
section
/-! DEFINITION. The statements about the package, one `def Obligations.<Name> : Prop` each, in the order of
OBLIGATIONS.json. -/

open Sys2Proof Sys2Proof.Machine

/-- ALU, MUL and BIT instructions with two register sources (Table 5.2, R78, R79): the result of each at width 64 and,
of a `.w` form, at width 32 and sign-extended (R76); a shift takes b modulo the width, and a zero divisor gives −1 or
the dividend. No flag, no other register and no byte of memory changes. clz, ctz, popc and rev8 (Table 5.2), at width 64
or at width 32 of a `.w` form: the count of zero bits above the highest one bit, or below the lowest (the whole width
for 0), the count of one bits, and the bytes in reverse order. -/
def Obligations.AluResult : Prop :=
  (∀ (s : State) (w : Bool) (rd rs1 rs2 : SReg),
  let a := s.ctx.x rs1
  let b := s.ctx.x rs2
  let c := lowWord a
  let d := lowWord b
  let gives (i : Instr) (r : Word) (r32 : BitVec 32) := GivesX i s rd (if w then sextWord r32 else r) 4
  gives (.add w rd rs1 rs2) (a + b) (c + d)
  ∧ gives (.sub w rd rs1 rs2) (a - b) (c - d)
  ∧ gives (.and w rd rs1 rs2) (a &&& b) (c &&& d)
  ∧ gives (.or w rd rs1 rs2) (a ||| b) (c ||| d)
  ∧ gives (.xor w rd rs1 rs2) (a ^^^ b) (c ^^^ d)
  ∧ gives (.andn w rd rs1 rs2) (a &&& ~~~b) (c &&& ~~~d)
  ∧ gives (.sll w rd rs1 rs2) (a <<< (b.toNat % 64)) (c <<< (d.toNat % 32))
  ∧ gives (.srl w rd rs1 rs2) (a >>> (b.toNat % 64)) (c >>> (d.toNat % 32))
  ∧ gives (.sra w rd rs1 rs2) (a.sshiftRight (b.toNat % 64)) (c.sshiftRight (d.toNat % 32))
  ∧ gives (.rol w rd rs1 rs2) (a.rotateLeft b.toNat) (c.rotateLeft d.toNat)
  ∧ gives (.min w rd rs1 rs2) (if a.sle b then a else b) (if c.sle d then c else d)
  ∧ gives (.max w rd rs1 rs2) (if a.sle b then b else a) (if c.sle d then d else c)
  ∧ gives (.minu w rd rs1 rs2) (if a ≤ b then a else b) (if c ≤ d then c else d)
  ∧ gives (.maxu w rd rs1 rs2) (if a ≤ b then b else a) (if c ≤ d then d else c)
  ∧ gives (.mul w rd rs1 rs2) (a * b) (c * d)
  ∧ gives (.mulh w rd rs1 rs2) ((a.signExtend 128 * b.signExtend 128).extractLsb' 64 64)
      ((c.signExtend 64 * d.signExtend 64).extractLsb' 32 32)
  ∧ gives (.mulhu w rd rs1 rs2) ((a.setWidth 128 * b.setWidth 128).extractLsb' 64 64)
      ((c.setWidth 64 * d.setWidth 64).extractLsb' 32 32)
  ∧ gives (.mulhsu w rd rs1 rs2) ((a.signExtend 128 * b.setWidth 128).extractLsb' 64 64)
      ((c.signExtend 64 * d.setWidth 64).extractLsb' 32 32)
  ∧ gives (.div w rd rs1 rs2) (if b = 0 then BitVec.allOnes 64 else a.sdiv b) (if d = 0 then BitVec.allOnes 32 else c.sdiv d)
  ∧ gives (.divu w rd rs1 rs2) (if b = 0 then BitVec.allOnes 64 else a / b) (if d = 0 then BitVec.allOnes 32 else c / d)
  ∧ gives (.rem w rd rs1 rs2) (a.srem b) (c.srem d)
  ∧ gives (.remu w rd rs1 rs2) (a % b) (c % d))
  ∧ (∀ (s : State) (w : Bool) (rd rs1 : SReg),
  let a := s.ctx.x rs1
  let n := if w then 32 else 64
  (∃ m ≤ n, GivesX (.clz w rd rs1) s rd (BitVec.ofNat 64 m) 4
      ∧ (∀ i, n - m ≤ i → i < n → a.getLsbD i = false) ∧ (m < n → a.getLsbD (n - 1 - m) = true))
  ∧ (∃ m ≤ n, GivesX (.ctz w rd rs1) s rd (BitVec.ofNat 64 m) 4
      ∧ (∀ i < m, a.getLsbD i = false) ∧ (m < n → a.getLsbD m = true))
  ∧ GivesX (.popc w rd rs1) s rd (BitVec.ofNat 64 ((List.range n).countP a.getLsbD)) 4
  ∧ ∃ v, GivesX (.rev8 w rd rs1) s rd v 4 ∧ (w = true → v = sextWord (lowWord v))
      ∧ ∀ i < n / 8, v.extractLsb' (8 * i) 8 = a.extractLsb' (n - 8 - 8 * i) 8)

/-- Bit fields, shifts by an immediate, immediate operations, li, lih, lea.pc, lea and sel (R80–R83, R85). A field of
`len` + 1 bits from `pos` is taken zero- or sign-extended, or inserted. The compact register forms (Table 3.15) do what
their full forms do, and the program counter moves on by 2; nop, c.nop and vdrain change no register (R64, R199). -/
def Obligations.ImmediateResult : Prop :=
  (∀ (s : State) (w : Bool) (rd rs1 rs2 : SReg) (n pos len : BitVec 6)
    (imm : BitVec 12) (imm18 : BitVec 18) (q : BitVec 2) (k : KReg),
  let a := s.ctx.x rs1
  let c := lowWord a
  let gives (i : Instr) (r : Word) (r32 : BitVec 32) := GivesX i s rd (if w then sextWord r32 else r) 4
  gives (.slli w rd rs1 n) (a <<< n.toNat) (c <<< (n.toNat % 32))
  ∧ gives (.srli w rd rs1 n) (a >>> n.toNat) (c >>> (n.toNat % 32))
  ∧ gives (.srai w rd rs1 n) (a.sshiftRight n.toNat) (c.sshiftRight (n.toNat % 32))
  ∧ gives (.rori w rd rs1 n) (a.rotateRight n.toNat) (c.rotateRight n.toNat)
  ∧ (∃ v, GivesX (.bfxu rd rs1 pos len) s rd v 4
      ∧ ∀ i < 64, v.getLsbD i = (decide (i ≤ len.toNat) && a.getLsbD (pos.toNat + i)))
  ∧ (∃ v, GivesX (.bfxs rd rs1 pos len) s rd v 4
      ∧ ∀ i < 64, v.getLsbD i = a.getLsbD (pos.toNat + Nat.min i len.toNat))
  ∧ (∃ v, GivesX (.bfi rd rs1 pos len) s rd v 4
      ∧ ∀ i < 64, v.getLsbD i = if pos.toNat ≤ i ∧ i ≤ pos.toNat + len.toNat then a.getLsbD (i - pos.toNat)
          else (s.ctx.x rd).getLsbD i)
  ∧ GivesX (.addi rd rs1 imm) s rd (a + imm.signExtend 64) 4
  ∧ GivesX (.andi rd rs1 imm) s rd (a &&& imm.signExtend 64) 4
  ∧ GivesX (.ori rd rs1 imm) s rd (a ||| imm.signExtend 64) 4
  ∧ GivesX (.xori rd rs1 imm) s rd (a ^^^ imm.signExtend 64) 4
  ∧ GivesX (.li rd imm18) s rd (imm18.signExtend 64) 4
  ∧ GivesX (.lih rd imm18) s rd ((s.ctx.x rd).extractLsb' 0 46 ++ imm18) 4
  ∧ GivesX (.leaPc rd imm18) s rd (s.ctx.pc + imm18.signExtend 64) 4
  ∧ GivesX (.lea q rd rs1 rs2) s rd (a + s.ctx.x rs2 * (1 <<< q.toNat)) 4
  ∧ GivesX (.sel rd k rs1 rs2) s rd (if s.ctx.kb k then a else s.ctx.x rs2) 4)
  ∧ (∀ (s : State) (rd rs : SReg) (x : BitVec 4),
  let d := s.ctx.x rd
  let a := s.ctx.x rs
  GivesX (.cAddi rd x) s rd (d + x.signExtend 64) 2
  ∧ GivesX (.cLi rd x) s rd (x.signExtend 64) 2
  ∧ GivesX (.cSlli rd x) s rd (d <<< x.toNat) 2
  ∧ GivesX (.cSrli rd x) s rd (d >>> x.toNat) 2
  ∧ GivesX (.cSrai rd x) s rd (d.sshiftRight x.toNat) 2
  ∧ GivesX (.cAndi rd x) s rd (d &&& x.signExtend 64) 2
  ∧ GivesX (.cMv rd rs) s rd a 2
  ∧ GivesX (.cAdd rd rs) s rd (d + a) 2
  ∧ GivesX (.cSub rd rs) s rd (d - a) 2
  ∧ GivesX (.cAnd rd rs) s rd (d &&& a) 2
  ∧ GivesX .cNop s 0 0 2
  ∧ GivesX .nop s 0 0 4)

/-- Condition-bit instructions (Table 5.6, R84): kd takes the truth of the comparison, of bits [31:0] for a `.w` form,
or of the Boolean operation. Floating-point compares (R87): kd is the truth of the comparison, which is false with a NaN
except for kfun; NV rises for a signalling NaN, and for any NaN of kflt and kfle. -/
def Obligations.CompareResult : Prop :=
  (∀ (s : State) (w : Bool) (kd ka kb : KReg) (rs1 rs2 : SReg),
  let a := s.ctx.x rs1
  let b := s.ctx.x rs2
  let c := lowWord a
  let d := lowWord b
  let gives (i : Instr) (v : Bool) := Completes i s (fun t => WritesK s t kd v 0)
  gives (.keq w kd rs1 rs2) (if w then c == d else a == b)
  ∧ gives (.kne w kd rs1 rs2) (if w then c != d else a != b)
  ∧ gives (.klt w kd rs1 rs2) (if w then c.slt d else a.slt b)
  ∧ gives (.kge w kd rs1 rs2) (!if w then c.slt d else a.slt b)
  ∧ gives (.kltu w kd rs1 rs2) (if w then c.ult d else a.ult b)
  ∧ gives (.kgeu w kd rs1 rs2) (!if w then c.ult d else a.ult b)
  ∧ gives (.kand kd ka kb) (s.ctx.kb ka && s.ctx.kb kb)
  ∧ gives (.kor kd ka kb) (s.ctx.kb ka || s.ctx.kb kb)
  ∧ gives (.kxor kd ka kb) (s.ctx.kb ka ^^ s.ctx.kb kb)
  ∧ gives (.kset kd rs1) (a != 0))
  ∧ (∀ (s : State) (sg : Bool) (kd : KReg) (rs1 rs2 : SReg),
  let f := scalarFmt sg
  let x (r : SReg) : FVal := f.decode (if sg then (lowWord (s.ctx.x r)).toNat else (s.ctx.x r).toNat)
  let a := x rs1
  let b := x rs2
  let nan := a.isNan || b.isNan
  let quiet : Flags := if a = .nan true ∨ b = .nan true then flagNV else 0
  let any : Flags := if nan then flagNV else 0
  let gives (i : Instr) (v : Bool) (fl : Flags) := Completes i s (fun t => WritesK s t kd v fl)
  gives (.kfeq sg kd rs1 rs2) (decide (FVal.cmp a b = some 0)) quiet
  ∧ gives (.kflt sg kd rs1 rs2) (decide (FVal.cmp a b = some (-1))) any
  ∧ gives (.kfle sg kd rs1 rs2) (decide (FVal.cmp a b = some (-1) ∨ FVal.cmp a b = some 0)) any
  ∧ gives (.kfun sg kd rs1 rs2) nan quiet
  ∧ (nan = false → FVal.cmp a b = some (-1) ∨ FVal.cmp a b = some 0 ∨ FVal.cmp a b = some 1)
  ∧ (nan = true → FVal.cmp a b = none))

/-- Scalar floating-point arithmetic and conversions (Tables 5.7, 5.8, R86, R88): rd takes the code of the result, an FP32
code in bits [31:0] with zeros above (R76), FFLAGS takes the flags of the operation (R38), and SEED moves on by one output
when the rounding took one (R34). -/
def Obligations.FpResult : Prop := ∀ (s : State) (sg : Bool) (rm : BitVec 3) (rd rs1 rs2 : SReg),
  let f := scalarFmt sg
  let md := (rndOf s.ctx.rndm).plain
  let mr := (rndField rm s.ctx.rndm).plain
  let x (r : SReg) : Nat := if sg then (lowWord (s.ctx.x r)).toNat else (s.ctx.x r).toNat
  let gives (i : Instr) (r : FRes) := Completes i s (fun t => WritesX s t rd (BitVec.ofNat 64 r.code) r.flags s.ctx.seed 4)
  let toInt (i : Instr) (lo hi : Int) := Completes i s (fun t =>
    let r := toInteger mr lo hi (f.decode (x rs1))
    WritesX s t rd (BitVec.ofInt 64 r.1) r.2 s.ctx.seed 4)
  gives (.fadd sg rd rs1 rs2) (f.add md (x rs1) (x rs2))
  ∧ gives (.fsub sg rd rs1 rs2) (f.sub md (x rs1) (x rs2))
  ∧ gives (.fmul sg rd rs1 rs2) (f.mul md (x rs1) (x rs2))
  ∧ gives (.fdiv sg rd rs1 rs2) (f.div md (x rs1) (x rs2))
  ∧ gives (.fmin sg rd rs1 rs2) (f.minmax false (x rs1) (x rs2))
  ∧ gives (.fmax sg rd rs1 rs2) (f.minmax true (x rs1) (x rs2))
  ∧ gives (.fmacc sg rd rs1 rs2) (f.macc md (x rd) (x rs1) (x rs2))
  ∧ gives (.fmsac sg rd rs1 rs2) (f.msac md (x rd) (x rs1) (x rs2))
  ∧ gives (.fsqrt sg rd rs1) (f.sqrt md (x rs1))
  ∧ (∃ v, Completes (.fneg sg rd rs1) s (fun t => WritesX s t rd v 0 s.ctx.seed 4)
      ∧ ∀ i < 64, v.getLsbD i = (decide (i < f.width) && ((s.ctx.x rs1).getLsbD i ^^ decide (i = f.width - 1))))
  ∧ (∃ v, Completes (.fabs sg rd rs1) s (fun t => WritesX s t rd v 0 s.ctx.seed 4)
      ∧ ∀ i < 64, v.getLsbD i = (decide (i < f.width - 1) && (s.ctx.x rs1).getLsbD i))
  ∧ (let r := convert fp64 fp32 (rndField rm s.ctx.rndm) (lfsrNext s.ctx.seed) (s.ctx.x rs1).toNat
     Completes (.fcvtSD rm rd rs1) s (fun t =>
      WritesX s t rd (BitVec.ofNat 64 r.code) r.flags (if r.rand then lfsrNext s.ctx.seed else s.ctx.seed) 4))
  ∧ gives (.fcvtDS rd rs1) (convert fp32 fp64 .rne 0 (lowWord (s.ctx.x rs1)).toNat)
  ∧ toInt (.fcvtLF sg rm rd rs1) (-2 ^ 63) (2 ^ 63 - 1)
  ∧ toInt (.fcvtLuF sg rm rd rs1) 0 (2 ^ 64 - 1)
  ∧ toInt (.fcvtWF sg rm rd rs1) (-2 ^ 31) (2 ^ 31 - 1)
  ∧ gives (.fcvtFL sg rm rd rs1) (f.ofInteger mr (s.ctx.x rs1).toInt)
  ∧ gives (.fcvtFLu sg rm rd rs1) (f.ofInteger mr (s.ctx.x rs1).toNat)
  ∧ gives (.fcvtFW sg rm rd rs1) (f.ofInteger mr (lowWord (s.ctx.x rs1)).toInt)

/-- Rounding a number that a format of Table 2.1 represents gives that number's own code and raises no flag, under every
rounding mode and whatever the generator puts out (R33, R34, R37, R38). -/
def Obligations.RoundingIsExactOnRepresentable : Prop :=
  ∀ f ∈ [fp64, fp32, bf16, fp16, fp8e4m3, fp8e5m2, fp6e3m2, fp6e2m3, fp4e2m1], ∀ (md : Rnd) (u : BitVec 32),
    ∀ x < 2 ^ f.width, (f.decode x).isNan = false → f.round md u (f.decode x) = ⟨x, 0, false⟩

/-- Conditional branches away from a live END (R89, R94, R95): the program counter moves to P plus the offset in parcels
and the loop entries whose range does not hold the target are removed, or the instruction completes as any other. Jumps
away from a live END (R89, R95): the link register takes P + 4, the program counter the target, with bit 0 cleared where
a register gives it; a jump that links to s0 removes the loop entries that do not hold the target, a call removes none. -/
def Obligations.ControlTransferResult : Prop :=
  (∀ (s : State) (rs1 rs2 rs : SReg) (k : KReg) (off : BitVec 11) (off20 : BitVec 20)
    (off5 : BitVec 5) (off8 : BitVec 8), s.ctx.atLoopEnd = false →
  let a := s.ctx.x rs1
  let b := s.ctx.x rs2
  let goes (i : Instr) (len : Word) (taken : Bool) (disp : Word) :=
    let dest := s.ctx.pc + 2 * disp
    Completes i s (fun t => if taken then Moves s t dest (keepLoops s.ctx.loops dest) else Moves s t (s.ctx.pc + len) s.ctx.loops)
  goes (.beq rs1 rs2 off) 4 (a == b) (off.signExtend 64)
  ∧ goes (.bne rs1 rs2 off) 4 (a != b) (off.signExtend 64)
  ∧ goes (.blt rs1 rs2 off) 4 (a.slt b) (off.signExtend 64)
  ∧ goes (.bge rs1 rs2 off) 4 (!a.slt b) (off.signExtend 64)
  ∧ goes (.bltu rs1 rs2 off) 4 (a.ult b) (off.signExtend 64)
  ∧ goes (.bgeu rs1 rs2 off) 4 (!a.ult b) (off.signExtend 64)
  ∧ goes (.bkt k off20) 4 (s.ctx.kb k) (off20.signExtend 64)
  ∧ goes (.bkf k off20) 4 (!s.ctx.kb k) (off20.signExtend 64)
  ∧ goes (.cBnez rs off5) 2 (s.ctx.x rs != 0) (off5.signExtend 64)
  ∧ goes (.cBeqz rs off5) 2 (s.ctx.x rs == 0) (off5.signExtend 64)
  ∧ goes (.cBkt k off8) 2 (s.ctx.kb k) (off8.signExtend 64)
  ∧ goes (.cBkf k off8) 2 (!s.ctx.kb k) (off8.signExtend 64))
  ∧ (∀ (s : State) (rd rs1 : SReg) (off : BitVec 18) (imm : BitVec 12) (off11 : BitVec 11),
    s.ctx.atLoopEnd = false →
  let goes (i : Instr) (rd : SReg) (tgt : Word) := Completes i s (fun t =>
    t = s.setCtx { s.ctx with s := t.ctx.s, pc := tgt, issued := false, stamped := false,
                              loops := if rd = 0 then keepLoops s.ctx.loops tgt else s.ctx.loops }
    ∧ t.ctx.x rd = (if rd = 0 then 0 else s.ctx.pc + 4) ∧ (∀ r, r ≠ rd → t.ctx.x r = s.ctx.x r)
    ∧ ∀ l, t.byteAt l = s.byteAt l)
  goes (.jal rd off) rd (s.ctx.pc + 2 * off.signExtend 64)
  ∧ goes (.jalr rd rs1 imm) rd ((s.ctx.x rs1 + imm.signExtend 64) &&& ~~~1)
  ∧ goes (.cJ off11) 0 (s.ctx.pc + 2 * off11.signExtend 64)
  ∧ goes (.cJr rs1) 0 (s.ctx.x rs1 &&& ~~~1))

/-- loop and loopi (R92), with fewer than two entries or a zero count, where the parcel at END is fetched without a
fault: a count of zero skips the body; otherwise the entry START = P + 4, END, COUNT is pushed and the program counter
moves on by 4. A third entry, or one that ends after the outer one, raises loop-nesting with TVAL = END. The loop-end
step (R93) of an instruction at the END of the innermost of its live entries: the count falls by 1; while it is not 0
the program counter returns to START; at 0 the entry retires, and an outer entry that ends at the same address is
stepped at once; an instruction elsewhere moves the program counter on by its length. A control transfer at a live
entry's END raises loop-end-hazard with its own address in TVAL, and executes nothing (R94). -/
def Obligations.LoopResult : Prop :=
  (∀ (s u : State) (rs1 : SReg) (cnt off : BitVec 12) (p : Nat),
    s.ctx.atLoopEnd = false →
  let stop := s.ctx.pc + 2 * off.setWidth 64
  fetchParcel stop.toNat s = .ok (.ok p, u) →
  let goes (i : Instr) (n : Word) :=
    if n = 0 then
      exec i s = .next (u.setCtx { s.ctx with pc := stop + (if bits p 14 2 = 3 then 4 else 2), issued := false, stamped := false })
    else if s.ctx.loops.length = 0 ∨ (s.ctx.loops.length = 1 ∧ ∀ l ∈ s.ctx.loops, stop ≤ l.stop) then
      exec i s = .next (u.setCtx { s.ctx with pc := s.ctx.pc + 4, issued := false, stamped := false,
                                              loops := s.ctx.loops ++ [⟨s.ctx.pc + 4, stop, n⟩] })
    else exec i s = .next (u.raise .loopNesting stop false)
  goes (.loop rs1 off) (s.ctx.x rs1) ∧ goes (.loopi cnt off) (cnt.setWidth 64))
  ∧ (∀ (c : Ctx) (len : Word) (o e : LoopEntry),
  let after (pc : Word) (l : List LoopEntry) : Ctx := { c with pc := pc, loops := l }
  let next (l : LoopEntry) : LoopEntry := { l with count := l.count - 1 }
  (c.atLoopEnd = false → c.retire len = after (c.pc + len) c.loops)
  ∧ (c.loops = [e] → e.stop = c.pc → c.retire len = if e.count = 1 then after (c.pc + len) [] else after e.start [next e])
  ∧ (c.loops = [o, e] → e.stop = c.pc → c.retire len =
      if e.count ≠ 1 then after e.start [o, next e]
      else if o.stop ≠ c.pc then after (c.pc + len) [o]
      else if o.count ≠ 1 then after o.start [next o] else after (c.pc + len) []))
  ∧ (∀ (s : State) (rd rs1 rs2 : SReg) (cnt off imm : BitVec 12) (off11 : BitVec 11)
    (off18 : BitVec 18) (off20 : BitVec 20) (k : KReg) (off5 : BitVec 5) (off8 : BitVec 8),
    s.ctx.atLoopEnd = true →
  (∀ i ∈ [Instr.beq rs1 rs2 off11, .bne rs1 rs2 off11, .blt rs1 rs2 off11, .bge rs1 rs2 off11, .bltu rs1 rs2 off11,
      .bgeu rs1 rs2 off11, .bkt k off20, .bkf k off20, .jal rd off18, .jalr rd rs1 imm, .loop rs1 off, .loopi cnt off,
      .cJ off11, .cJr rs1, .cBnez rs1 off5, .cBeqz rs1 off5, .cBkt k off8, .cBkf k off8, .hend, .cHend, .cend, .cCend, .join,
      .fork rs1, .forka rs1, .trap imm, .brk imm, .cBrk],
    exec i s = .next (s.raise .loopEndHazard s.ctx.pc false))
  ∧ (s.atS = true → ∀ i ∈ [Instr.eret, .halt], exec i s = .next (s.raise .loopEndHazard s.ctx.pc false)))

/-- ld, ldu and ldo from the own scratchpad (R97–R100), from a line that no commit holds locked (R222) and, for order sc,
with the earlier stores performed (R100): the bytes at ea, little-endian, sign- or zero-extended, go to
rd. No other register and no byte of memory changes. The line's lease end rises to at least the core's logical time plus
LEASE, and the logical time to the line's write timestamp (R270, R392); an sc load raises it by 1 first (R269). st and
sto to window 0 of the own scratchpad (R97–R101): the low bytes of the register are stored at ea, little-endian, and no
other byte of memory and no register changes. The line's write timestamp becomes the greater of the core's logical time
and the lease end plus 1, and is the core's logical time then (R270, R392). -/
def Obligations.ScratchAccessResult : Prop :=
  (∀ (s : State) (sz : BitVec 2) (reg base : SReg) (off10 : BitVec 10) (ord : BitVec 2)
    (sc : BitVec 3) (x : Bool) (off4 : BitVec 4) (w off : Nat),
  let n : Nat := 2 ^ sz.toNat
  let line := off / 128
  let loads (i : Instr) (disp : Word) (sx : Bool) (ord : BitVec 2) :=
    s.ownPlace (s.ctx.x base + disp * n) w off → off + n ≤ windowLim w → off % n = 0 → s.cleanLine line →
    s.lockedBy (.scratch s.cur line) none = false → (2 ≤ ord.toNat → s.mirrorsDone (dieOf s.cur) = true) →
    Completes i s (fun t => ∃ v : Word, LoadsX s t reg v ∧ (∀ l, t.byteAt l = s.byteAt l)
      ∧ (∀ i < n, v.extractLsb' (8 * i) 8 = s.byteAt (.scratch s.cur (off + i)))
      ∧ (∀ i, 8 * n ≤ i → i < 64 → v.getLsbD i = (sx && v.getLsbD (8 * n - 1)))
      ∧ (let now := s.me.lts + if ord = 3 ∧ s.ctx.stamped = false then 1 else 0
         t.me.lts = Nat.max now (Bank.get 0 s.me.scratchWts line)
         ∧ Bank.get 0 t.me.scratchRts line = Nat.max (Bank.get 0 s.me.scratchRts line) (now + s.me.lease.toNat)))
  loads (.ld sz reg base off10) (off10.signExtend 64) true 0
  ∧ loads (.ldu sz reg base off10) (off10.signExtend 64) false 0
  ∧ loads (.ldo ord sc x sz reg base off4) (off4.signExtend 64) x ord)
  ∧ (∀ (s : State) (sz : BitVec 2) (reg base : SReg) (off10 : BitVec 10) (ord : BitVec 2)
    (sc : BitVec 3) (off4 : BitVec 4) (off : Nat),
  let n : Nat := 2 ^ sz.toNat
  let line := off / 128
  let stores (i : Instr) (disp : Word) (ord : BitVec 2) :=
    s.ownPlace (s.ctx.x base + disp * n) 0 off → off % n = 0 → s.lockedBy (.scratch s.cur line) none = false →
    (2 ≤ ord.toNat → s.mirrorsDone (dieOf s.cur) = true) →
    Completes i s (fun t => Stored s t s.cur off n (s.ctx.x reg).toNat
      ∧ (∀ k, (t.core k).regs = ((s.setCtx s.ctx.completed).core k).regs)
      ∧ Same (fun x : State => { x with cores := [], rings := [], flight := [] }) s t
      ∧ (s.chunk = none → t.rings = s.rings ∧ t.flight = s.flight)
      ∧ (let now := s.me.lts + if ord = 3 ∧ s.ctx.stamped = false then 1 else 0
         t.me.lts = Nat.max now (Bank.get 0 s.me.scratchRts line + 1) ∧ Bank.get 0 t.me.scratchWts line = t.me.lts))
  stores (.st sz reg base off10) (off10.signExtend 64) 0
  ∧ stores (.sto ord sc sz reg base off4) (off4.signExtend 64) ord)

/-- Local atomics on window 0 of the own scratchpad (R103–R105, Table 6.4): rd takes the old value, a 32-bit one
sign-extended, and the location the new one; a cas whose comparison fails leaves it. An atomic of a handler that writes
pins its line for that core, once (R247); no other agent's atomic changes a pin. -/
def Obligations.AtomicScratch : Prop := ∀ (s : State) (d : Bool) (ord : BitVec 2) (rd rs1 rs2 : SReg) (off : Nat),
  let n : Nat := if d then 8 else 4
  let line := off / 128
  s.ownPlace (s.ctx.x rs1) 0 off → off % n = 0 → s.lockedBy (.scratch s.cur line) none = false → s.cleanLine line →
  (2 ≤ ord.toNat → s.mirrorsDone (dieOf s.cur) = true) →
  let old := s.scratchBits s.cur off n
  let own : LineId × Nat := (.scratch s.cur line, s.cur)
  let acts (i : Instr) (new : (k : Nat) → BitVec k → BitVec k → BitVec k → BitVec k) (writes : Bool := true) :=
    Completes i s (fun t =>
      t.ctx.x rd = (if rd = 0 then 0 else old.signExtend 64) ∧ (∀ r, r ≠ rd → t.ctx.x r = s.ctx.x r)
      ∧ Stored s t s.cur off n (new _ old ((s.ctx.x rs2).setWidth _) ((s.ctx.x rd).setWidth _)).toNat
      ∧ (∀ k, (t.core k).regs = ((s.setCtx { s.ctx.completed with s := t.ctx.s }).core k).regs)
      ∧ Same (fun x : State => { x with cores := [], rings := [], flight := [], pins := [] }) s t
      ∧ (s.chunk = none → t.rings = s.rings ∧ t.flight = s.flight)
      ∧ t.pins = (if s.curH && writes then own :: s.pins.erase own else s.pins))
  acts (.amSwap d ord rd rs1 rs2) (fun _ _ b _ => b)
  ∧ acts (.amAdd d ord rd rs1 rs2) (fun _ m b _ => m + b)
  ∧ acts (.amAnd d ord rd rs1 rs2) (fun _ m b _ => m &&& b)
  ∧ acts (.amOr d ord rd rs1 rs2) (fun _ m b _ => m ||| b)
  ∧ acts (.amXor d ord rd rs1 rs2) (fun _ m b _ => m ^^^ b)
  ∧ acts (.amMin d ord rd rs1 rs2) (fun _ m b _ => if m.sle b then m else b)
  ∧ acts (.amMax d ord rd rs1 rs2) (fun _ m b _ => if m.sle b then b else m)
  ∧ acts (.amMinu d ord rd rs1 rs2) (fun _ m b _ => if m ≤ b then m else b)
  ∧ acts (.amMaxu d ord rd rs1 rs2) (fun _ m b _ => if m ≤ b then b else m)
  ∧ acts (.amCas d ord rd rs1 rs2) (fun _ m b c => if m = c then b else m) (decide (old = (s.ctx.x rd).setWidth _))

/-- Causes of scalar accesses, with the address in TVAL. A load, store or atomic whose address is not a multiple of its
size raises misaligned-access, whatever it reaches (R98, R103, R106). A store, an atomic or a far atomic to a window of
the own scratchpad other than 0 raises alias-window-write, and a load that reaches beyond the window's limit raises
alias-window-range (R46, Table 2.5). An access through a held translation that does not grant it raises load-protection
or store-protection, R asked of a load, W of a store, both of an atomic, and U of each at U (R307); one whose walk finds
the root entry not valid raises load-translation or store-translation (R306), if the page at CAPS is not meant (R8). -/
def Obligations.MisalignedAccess : Prop := ∀ (s : State) (sz : BitVec 2) (reg base rd rs1 rs2 : SReg) (off10 : BitVec 10)
    (ord : BitVec 2) (sc : BitVec 3) (x d : Bool) (off4 : BitVec 4),
  let n : Nat := 2 ^ sz.toNat
  let k := if d then 8 else 4
  let traps' (i : Instr) (c : Cause) (ea : Word) := exec i s = .next (s.raise c ea false)
  let traps (i : Instr) (ea : Word) := traps' i .misalignedAccess ea
  (∀ disp ea : Word, ea = s.ctx.x base + disp * n → ea.toNat % n ≠ 0 →
    (disp = off10.signExtend 64 →
      traps (.ld sz reg base off10) ea ∧ traps (.ldu sz reg base off10) ea ∧ traps (.st sz reg base off10) ea)
    ∧ (disp = off4.signExtend 64 → traps (.ldo ord sc x sz reg base off4) ea ∧ traps (.sto ord sc sz reg base off4) ea))
  ∧ ((s.ctx.x rs1).toNat % k ≠ 0 →
      (∀ i ∈ [Instr.amSwap d ord rd rs1 rs2, .amAdd d ord rd rs1 rs2, .amAnd d ord rd rs1 rs2, .amOr d ord rd rs1 rs2,
          .amXor d ord rd rs1 rs2, .amMin d ord rd rs1 rs2, .amMax d ord rd rs1 rs2, .amMinu d ord rd rs1 rs2,
          .amMaxu d ord rd rs1 rs2, .amCas d ord rd rs1 rs2], traps i (s.ctx.x rs1))
      ∧ (rd = 0 ∨ s.curH = false →
        ∀ i ∈ [Instr.farSwap d rd rs1 rs2, .farAdd d rd rs1 rs2, .farAnd d rd rs1 rs2, .farOr d rd rs1 rs2,
          .farXor d rd rs1 rs2, .farMin d rd rs1 rs2, .farMax d rd rs1 rs2, .farMinu d rd rs1 rs2,
          .farMaxu d rd rs1 rs2, .farCas d rd rs1 rs2], traps i (s.ctx.x rs1)))
  ∧ (let loads := [(Instr.ld sz reg base off10, s.ctx.x base + off10.signExtend 64 * n),
      (.ldu sz reg base off10, s.ctx.x base + off10.signExtend 64 * n), (.ldo ord sc x sz reg base off4, s.ctx.x base + off4.signExtend 64 * n)]
    let stores := [(Instr.st sz reg base off10, s.ctx.x base + off10.signExtend 64 * n),
      (.sto ord sc sz reg base off4, s.ctx.x base + off4.signExtend 64 * n)]
    let local' := [Instr.amSwap d ord rd rs1 rs2, .amAdd d ord rd rs1 rs2, .amAnd d ord rd rs1 rs2, .amOr d ord rd rs1 rs2,
      .amXor d ord rd rs1 rs2, .amMin d ord rd rs1 rs2, .amMax d ord rd rs1 rs2, .amMinu d ord rd rs1 rs2,
      .amMaxu d ord rd rs1 rs2, .amCas d ord rd rs1 rs2]
    let far := [Instr.farSwap d rd rs1 rs2, .farAdd d rd rs1 rs2, .farAnd d rd rs1 rs2, .farOr d rd rs1 rs2,
      .farXor d rd rs1 rs2, .farMin d rd rs1 rs2, .farMax d rd rs1 rs2, .farMinu d rd rs1 rs2,
      .farMaxu d rd rs1 rs2, .farCas d rd rs1 rs2]
    -- an instruction, its address, its size, and whether it reads and writes
    let each (P : Instr → Word → Nat → Bool → Bool → Prop) :=
      (∀ p ∈ loads, P p.1 p.2 n true false) ∧ (∀ p ∈ stores, P p.1 p.2 n false true)
      ∧ (∀ i ∈ local', P i (s.ctx.x rs1) k true true)
      ∧ (rd = 0 ∨ s.curH = false → ∀ i ∈ far, P i (s.ctx.x rs1) k true true)
    each (fun i ea size reads writes => ea.toNat % size = 0 →
      (∀ w off, s.ownPlace ea w off →
        (writes = true → w ≠ 0 → exec i s = .next ((s.mapCore s.cur id).raise .awWrite ea false))
        ∧ (writes = false → windowLim w < off + size → exec i s = .next ((s.mapCore s.cur id).raise .awRange ea false)))
      ∧ (ea.toNat < Config.untranslated →
        (∀ e, tlbFind s.me.tlb s.me.asid.toNat ea.toNat = some e →
          ¬((s.atS = true ∨ e.pte.testBit 5 = true) ∧ (reads = true → e.pte.testBit 2 = true)
            ∧ (writes = true → e.pte.testBit 3 = true)) →
          traps' i (if writes then .storeProtection else .loadProtection) ea)
        ∧ (let root := s.me.ptbase.toNat * 4096 + 8 * (ea.toNat / 2 ^ 55)
           tlbFind s.me.tlb s.me.asid.toNat ea.toNat = none → s.atCaps ea.toNat = false → s.me.upset = none →
           s.bitErrors = [] → root < s.hbmLimit → s.seenPoisoned (dieOf s.cur) root 8 = false →
           s.seenBytes (dieOf s.cur) root 8 % 2 = 0 →
          traps' i (if writes then .storeTranslation else .loadTranslation) ea))))

/-- Accesses of device memory by a core of the line's home die, whose page grants them and whose translation needs no
retry: the line is not locked, not frozen and not combined, no other die holds it, the core has no copy of it, and, for
order rel or sc, the earlier stores are performed at the scope (R100). A load, at any order, delivers the bytes at their
home, extended; the line's lease end rises to at least the core's logical time plus LEASE, and the logical time to the
line's write timestamp. A store writes its bytes there and no other byte; the line's write timestamp becomes the greater
of the core's logical time and the lease end plus 1. An sc operation raises the logical time by 1 first. A local atomic
returns the old value and stores the new one, a cas whose comparison fails leaving it; one of a handler that writes pins
its line (R97–R105, R247, R269, R270, R326, Table 6.4). -/
def Obligations.DeviceMemoryAccess : Prop := ∀ (s : State) (sz : BitVec 2) (reg base rd rs1 rs2 : SReg) (off10 : BitVec 10)
    (ord : BitVec 2) (sc : BitVec 3) (x d : Bool) (off4 : BitVec 4) (pa : Nat) (tlb : List TlbEntry),
  let n : Nat := 2 ^ sz.toNat
  let k : Nat := if d then 8 else 4
  let line := pa / 128
  let reaches (a : Access) (ea : Word) :=
    resolveAt s s.cur s.me.tlb s.me.asid.toNat s.me.ptbase.toNat s.atS a ea.toNat = .ok (.hbm pa, tlb)
  s.chunk = none → s.sound s.cur →
  s.homeLine line = dieOf s.cur → (s.catEntry line).st = .none → s.mpDie line = none → (∀ e ∈ s.me.l1, e.1 ≠ line) →
  s.lockedBy (.hbm line) none = false → s.combines (dieOf s.cur) line = false → s.frame (line * 128) = .plain →
  (s.annexLine (dieOf s.cur) line).st = .i →
  let now (ord : BitVec 2) := s.me.lts + if ord = 3 ∧ s.ctx.stamped = false then 1 else 0
  let after (ord : BitVec 2) (sc : BitVec 3) := 2 ≤ ord.toNat → sc.toNat < 3 ∨ s.mirrorsDone (dieOf s.cur) = true
  let written (t : State) (len v : Nat) := (∀ i < len, t.byteAt (.hbm (pa + i)) = BitVec.ofNat 8 (v / 256 ^ i))
    ∧ ∀ l, (∀ i < len, l ≠ .hbm (pa + i)) → t.byteAt l = s.byteAt l
  let loads (i : Instr) (disp : Word) (sx : Bool) (ord : BitVec 2) (sc : BitVec 3) :=
    let ea := s.ctx.x base + disp * n
    ea.toNat % n = 0 → pa % n = 0 → reaches .load ea → poisoned s.poison pa n = false → after ord sc →
    Completes i s (fun t => ∃ v : Word,
      t.ctx.x reg = (if reg = 0 then 0 else v) ∧ (∀ r, r ≠ reg → t.ctx.x r = s.ctx.x r)
      ∧ (∀ i < n, v.extractLsb' (8 * i) 8 = s.byteAt (.hbm (pa + i)))
      ∧ (∀ i, 8 * n ≤ i → i < 64 → v.getLsbD i = (sx && v.getLsbD (8 * n - 1)))
      ∧ (∀ l, t.byteAt l = s.byteAt l)
      ∧ (∀ k, (t.core k).regs = ((s.setCtx { s.ctx.completed with s := t.ctx.s }).core k).regs)
      ∧ Same (fun x : State => { x with cores := [], rts := [], slices := [], annexClock := 0, choice := [], choices := 0 }) s t
      ∧ Bank.get 0 t.rts line = Nat.max (s.homeRts line) (now ord + s.me.lease.toNat)
      ∧ t.me.lts = Nat.max (now ord) (s.homeWts line))
  let stores (i : Instr) (disp : Word) (ord : BitVec 2) (sc : BitVec 3) :=
    let ea := s.ctx.x base + disp * n
    ea.toNat % n = 0 → pa % n = 0 → reaches .store ea → after ord sc →
    Completes i s (fun t => written t n (s.ctx.x reg).toNat
      ∧ (∀ k, (t.core k).regs = ((s.setCtx s.ctx.completed).core k).regs)
      ∧ Same (fun x : State => { x with cores := [], hbm := [], wts := [], rts := [], poison := [], slices := [], annexClock := 0 }) s t
      ∧ Bank.get 0 t.wts line = Nat.max (now ord) (s.homeRts line + 1) ∧ t.me.lts = Bank.get 0 t.wts line)
  let old : BitVec (8 * k) := BitVec.ofNat _ (readBytes s.hbm pa k)
  let own : LineId × Nat := (.hbm line, s.cur)
  let acts (i : Instr) (new : (k : Nat) → BitVec k → BitVec k → BitVec k → BitVec k) (writes : Bool := true) :=
    (s.ctx.x rs1).toNat % k = 0 → pa % k = 0 → reaches .modify (s.ctx.x rs1) → poisoned s.poison pa k = false → after ord 3 →
    Completes i s (fun t =>
      t.ctx.x rd = (if rd = 0 then 0 else old.signExtend 64) ∧ (∀ r, r ≠ rd → t.ctx.x r = s.ctx.x r)
      ∧ written t k (new _ old ((s.ctx.x rs2).setWidth _) ((s.ctx.x rd).setWidth _)).toNat
      ∧ (∀ k, (t.core k).regs = ((s.setCtx { s.ctx.completed with s := t.ctx.s }).core k).regs)
      ∧ Same (fun x : State => { x with cores := [], hbm := [], wts := [], rts := [], poison := [], slices := [], annexClock := 0,
                                        pins := [] }) s t
      ∧ t.pins = (if s.curH && writes then own :: s.pins.erase own else s.pins))
  (loads (.ld sz reg base off10) (off10.signExtend 64) true 0 0 ∧ loads (.ldu sz reg base off10) (off10.signExtend 64) false 0 0
    ∧ loads (.ldo ord sc x sz reg base off4) (off4.signExtend 64) x ord sc)
  ∧ (stores (.st sz reg base off10) (off10.signExtend 64) 0 0 ∧ stores (.sto ord sc sz reg base off4) (off4.signExtend 64) ord sc)
  ∧ acts (.amSwap d ord rd rs1 rs2) (fun _ _ b _ => b)
  ∧ acts (.amAdd d ord rd rs1 rs2) (fun _ m b _ => m + b)
  ∧ acts (.amAnd d ord rd rs1 rs2) (fun _ m b _ => m &&& b)
  ∧ acts (.amOr d ord rd rs1 rs2) (fun _ m b _ => m ||| b)
  ∧ acts (.amXor d ord rd rs1 rs2) (fun _ m b _ => m ^^^ b)
  ∧ acts (.amMin d ord rd rs1 rs2) (fun _ m b _ => if m.sle b then m else b)
  ∧ acts (.amMax d ord rd rs1 rs2) (fun _ m b _ => if m.sle b then b else m)
  ∧ acts (.amMinu d ord rd rs1 rs2) (fun _ m b _ => if m ≤ b then m else b)
  ∧ acts (.amMaxu d ord rd rs1 rs2) (fun _ m b _ => if m ≤ b then b else m)
  ∧ acts (.amCas d ord rd rs1 rs2) (fun _ m b c => if m = c then b else m) (decide (old = (s.ctx.x rd).setWidth _))

/-- Far atomics at their issuer (R106, R107, R246): the request goes to the owner of the location, with the operands and
the core's logical time; an atomic without a result completes at once, and one with a result waits for the reply. A far
atomic at its owner and back (R106–R108, R246, R247): a request whose owner is idle, serves its address space and holds
nothing of it back is performed there at once, as one indivisible operation, on a scratchpad location or on one of device
memory that the owner translates to the same page and whose line its die may write; the old value is sent back if it is asked
for, and no other byte and no register changes. The reply completes the waiting instruction with the old value, or raises the
owner's cause with the address in TVAL. -/
def Obligations.FarAtomicResult : Prop :=
  (∀ (s : State) (d : Bool) (rd rs1 rs2 : SReg) (loc : Loc) (g : Target)
    (tlb : List TlbEntry),
  let ea := s.ctx.x rs1
  (rd = 0 ∨ s.curH = false) → s.chunk = none → ea.toNat % (if d then 8 else 4) = 0 → s.me.upset = none → s.bitErrors = [] →
  resolveAt s s.cur s.me.tlb s.me.asid.toNat s.me.ptbase.toNat s.atS .modify ea.toNat = .ok (g, tlb) →
  ((∃ pa, g = .hbm pa ∧ loc = .hbm pa) ∨ (∃ off, g = .own 0 off ∧ loc = .scratch s.cur off)
    ∨ (∃ core off, g = .remote core 0 off ∧ loc = .scratch core off)) →
  let goes (i : Instr) (fn : Nat) (cmp : Word) := Completes i s (fun t =>
    t.flight = s.flight ++ [Instr.farAtomicStep ⟨s.cur, s.curH, s.owner loc, s.me.asid.toNat, s.me.lts, ea, loc, s.ctx.x rs2, cmp,
      BitVec.ofNat 4 fn, d, decide (rd ≠ 0), rd, none, none⟩]
    ∧ (∀ k, (t.core k).regs = ((s.setCtx (if rd = 0 then s.ctx.completed else
        { s.ctx with wait := some (.farReply rd), issued := true })).core k).regs)
    ∧ (∀ l, t.byteAt l = s.byteAt l) ∧ Same (fun x : State => { x with cores := [], flight := [] }) s t)
  goes (.farSwap d rd rs1 rs2) 0 0 ∧ goes (.farAdd d rd rs1 rs2) 1 0 ∧ goes (.farAnd d rd rs1 rs2) 2 0
  ∧ goes (.farOr d rd rs1 rs2) 3 0 ∧ goes (.farXor d rd rs1 rs2) 4 0 ∧ goes (.farMin d rd rs1 rs2) 5 0
  ∧ goes (.farMax d rd rs1 rs2) 6 0 ∧ goes (.farMinu d rd rs1 rs2) 7 0 ∧ goes (.farMaxu d rd rs1 rs2) 8 0
  ∧ goes (.farCas d rd rs1 rs2) 9 (s.ctx.x rd))
  ∧ (∀ (s : State) (r : FarReq), let n := r.owner
      let c := s.core n
      let k := if r.dbl then 8 else 4
      s.flight.find? (sameRoute none r.src n) = some (.farAtomicStep r) → s.flight.takeWhile (fun j => decide (j ≠ .farAtomicStep r)) = [] →
      r.peer = none → isRingCore n = true → Bank.find s.dropped (dieOf n) = none → s.runsAsid n r.asid = true →
      c.atBoundary = true → c.queue = [] → (∀ l, Bank.find c.overflow r.asid = some l → l = []) → c.prv = false →
      r.fn.toNat < 10 → s.bitErrors = [] → s.tagErrors = [] →
    let new (old : BitVec (8 * k)) : Nat := (if r.fn = 9 ∧ old ≠ r.cmp.setWidth _ then old
      else atomicOp r.fn.toNat _ old (r.b.setWidth _)).toNat
    let ends (old : BitVec (8 * k)) (t : State) :=
      t.flight = s.flight.erase (.farAtomicStep r) ++ (if r.reply then [.farAtomicReply r (.old (old.signExtend 64))] else [])
      ∧ (∀ j, (t.core j).regs = (s.core j).regs) ∧ r.stamp ≤ (t.core n).lts
    (∀ off, r.loc = .scratch n off → off % k = 0 → off < Config.scratchBytes → s.lockedBy (.scratch n (off / 128)) none = false →
        Bank.get false c.scratchPoison (off / 16) = false →
      let old := s.scratchBits n off k
      Completes (.farAtomicStep r) s (fun t => Stored s t n off k (new old) ∧ ends old t
        ∧ Same (fun x : State => { x with cores := [], flight := [] }) s t))
    ∧ (∀ pa e, let line := pa / 128
        r.loc = .hbm pa → tlbFind c.tlb r.asid r.ea.toNat = some e → leafTarget s e r.ea.toNat = .ok (.hbm pa) → pa % k = 0 →
        s.homeLine line = dieOf n → (s.catEntry line).st = .none → s.mpDie line = none →
        s.lockedBy (.hbm line) none = false → s.combines (dieOf n) line = false → s.frame pa = .plain →
        (s.annexLine (dieOf n) line).st = .i → poisoned s.poison pa k = false →
      let old : BitVec (8 * k) := BitVec.ofNat _ (readBytes s.hbm pa k)
      Completes (.farAtomicStep r) s (fun t => (∀ i < k, t.byteAt (.hbm (pa + i)) = BitVec.ofNat 8 (new old / 256 ^ i))
        ∧ (∀ l, (∀ i < k, l ≠ .hbm (pa + i)) → t.byteAt l = s.byteAt l) ∧ ends old t
        ∧ Same (fun x : State => { x with cores := [], flight := [], hbm := [], wts := [], rts := [], poison := [],
                                          slices := [], annexClock := 0 }) s t)))
  ∧ (∀ (s : State) (r : FarReq) (rd : SReg) (a : FarAnswer), ((s.core r.src).ctx r.hnd).wait = some (.farReply rd) →
      let u : State := { s.take (.farAtomicReply r a) with cur := r.src, curH := r.hnd }
      let c := u.ctx
      exec (.farAtomicReply r a) s = .next (match a with
        | .old v => u.setCtx ({ c with wait := none }.setX rd v).completed
        | .failed cause => (u.setCtx { c with wait := none }).raise cause r.ea false))

/-- Sync registers (R110–R111), of a register that exists, by an agent that is no speculative chunk and whose die has no
mirror write pending: yld reads the die's mirror; yst, yts and yfad change the register at its home and in the die's own
mirror, send the value to every other die's mirror, and yts and yfad return the old value. No other sync register
changes, nor a mirror of another die before the value arrives there. SYNC_MIRROR_UPDATE (R17, R111): the update that is
first on its way to a die reaches that die's mirror, and no other register or mirror changes. -/
def Obligations.SyncRegisterResult : Prop :=
  (∀ (s : State) (y : BitVec 16) (reg rd rs1 rs2 : SReg) (n : Nat),
    s.speculative = false → s.noSync n = false →
  let die := dieOf s.cur
  let old := s.syncAt n
  let kept (t : State) := ∀ k, (t.core k).regs = ((s.setCtx { s.ctx.completed with s := t.ctx.s }).core k).regs
  let loads (i : Instr) (rd : SReg) := Completes i s (fun t =>
    t.ctx.x rd = (if rd = 0 then 0 else s.mirrorAt die n) ∧ (∀ r, r ≠ rd → t.ctx.x r = s.ctx.x r)
    ∧ kept t ∧ Same (fun x : State => { x with cores := [] }) s t)
  let updates (i : Instr) (rd : SReg) (new : Word) := s.mirrorsDone die = true → Completes i s (fun t =>
    t.ctx.x rd = (if rd = 0 then 0 else old) ∧ (∀ r, r ≠ rd → t.ctx.x r = s.ctx.x r) ∧ kept t
    ∧ Same (fun x : State => { x with cores := [], sync := [], mirror := [], flight := [] }) s t
    ∧ t.syncAt n = new ∧ (∀ m, m ≠ n → t.syncAt m = s.syncAt m) ∧ t.mirrorAt die n = new
    ∧ (∀ d < 12, d ≠ die → d ≠ syncHome n →
        .syncMirrorUpdate d n new ∈ t.flight ∧ ∀ m, m < 65536 → t.mirrorAt d m = s.mirrorAt d m))
  (n = y.toNat → loads (.yld y reg) reg ∧ updates (.yst y reg) 0 (s.ctx.x reg)
    ∧ updates (.yts y reg) reg (if old = 0 then 1 else old) ∧ updates (.yfad y reg) reg (old + s.ctx.x reg))
  ∧ (n = (s.ctx.x rs1).toNat % 65536 → loads (.yldX rd rs1) rd ∧ updates (.ystX rs1 rs2) 0 (s.ctx.x rs2)
    ∧ updates (.ytsX rd rs1) rd (if old = 0 then 1 else old) ∧ updates (.yfadX rd rs1 rs2) rd (old + s.ctx.x rs2)))
  ∧ (∀ (s : State) (die y : Nat) (v : Word), y < 65536 → die < 12 → syncHome y ≠ die →
    s.flight.find? (mirrorUpdateTo die) = some (.syncMirrorUpdate die y v) →
  Completes (.syncMirrorUpdate die y v) s (fun t => t.mirrorAt die y = v
    ∧ (∀ d m, d < 12 → m < 65536 → ¬(d = die ∧ m = y) → t.mirrorAt d m = s.mirrorAt d m)
    ∧ t.flight = s.flight.erase (.syncMirrorUpdate die y v)
    ∧ Same (fun x : State => { x with mirror := [], flight := [] }) s t))

/-- Barriers (R112, R113) in a main context, for N ≠ 0: phase 1 adds 1 to the register; the instruction completes when
that reaches the next multiple of N above the old value, and otherwise waits for it. YBAR_RELEASE completes a waiting
barrier of a core that is awake as soon as the die's mirror has reached the multiple, and changes nothing else. Sync
words (R116, R249). swait on a word of window 0 returns at once with k0 = POISON when GEN has reached g, by (GEN − g)
mod 2^32 < 2^31, or POISON is set, and waits otherwise; SWAIT_RETURN completes it under the same condition. The word is
the core's own scratchpad's when no chunk runs there; a chunk reads its own version of it, or an older one of its core
(State.swaitCore), which R116 does not say: that is the MODEL'S CHOICE (log 48). SYNC_WORD_COUNT, unless an item that
the overflow area still holds comes before it (R260), adds bytes to COUNT: each full TARGET takes TARGET from it and
advances GEN by 1; a word with TARGET 0 or POISON does not count. -/
def Obligations.BarrierResult : Prop :=
  ((∀ (s : State) (y : BitVec 16) (reg rs1 rs2 : SReg) (m : Nat), s.curH = false → s.speculative = false → s.noSync m = false →
      s.mirrorsDone (dieOf s.cur) = true →
    let old := s.syncAt m
    let bars (i : Instr) (n : Word) := n ≠ 0 →
      let goal : Word := BitVec.ofNat 64 ((old.toNat / n.toNat + 1) * n.toNat)
      Completes i s (fun t => t.syncAt m = old + 1
        ∧ (∀ k, (t.core k).regs = ((s.setCtx (if goal ≤ old + 1 then s.ctx.completed else
            { s.ctx with wait := some (.ybar m goal), issued := true })).core k).regs)
        ∧ Same (fun x : State => { x with cores := [], sync := [], mirror := [], flight := [] }) s t)
    (m = y.toNat → bars (.ybar y reg) (s.ctx.x reg))
    ∧ (m = (s.ctx.x rs1).toNat % 65536 → bars (.ybarX rs1 rs2) (s.ctx.x rs2)))
  ∧ ∀ (s : State) (core m : Nat) (goal : Word), (s.core core).main.wait = some (.ybar m goal) → (s.core core).awake = true →
      goal ≤ s.mirrorAt (dieOf core) m →
    Completes (.ybarRelease core) s (fun t => (t.core core).main = { (s.core core).main.completed with wait := none }
      ∧ (∀ k, k ≠ core → t.core k = s.core k)
      ∧ Same (fun c : Core => { c.regs with main := {} }) (s.core core) (t.core core)
      ∧ Same (fun x : State => { x with cores := [], cur := 0, curH := false }) s t))
  ∧ (let word (c : Core) (off : Nat) : Nat := readBytes c.scratch off 4
  let poison (c : Core) (off : Nat) : Bool := decide (word c (off + 12) % 2 = 1)
  let reached (c : Core) (off : Nat) (g : BitVec 32) : Bool := decide (BitVec.ofNat 32 (word c (off + 8)) - g < 0x80000000#32)
  (∀ (s : State) (rs1 rs2 : SReg) (off : Nat), s.curH = false → s.ownPlace (s.ctx.x rs1) 0 off → off % 16 = 0 →
    let g := lowWord (s.ctx.x rs2)
    let c := s.swaitCore s.cur off
    (s.chunk = none → c = s.me)
    ∧ Completes (.swait rs1 rs2) s (fun t =>
      ScratchAccess s t (if reached c off g || poison c off then s.ctx.completed.setK 0 (poison c off)
        else { s.ctx with wait := some (.swait off g), issued := true }) ∧ ∀ l, t.byteAt l = s.byteAt l))
  ∧ (∀ (s : State) (core off : Nat) (g : BitVec 32), (s.core core).main.wait = some (.swait off g) →
    let c := s.swaitCore core off
    (s.chunkOn core = none → c = s.core core)
    ∧ ((reached c off g || poison c off) = true → Completes (.swaitReturn core) s (fun t =>
      (t.core core).main = { ((s.core core).main.completed.setK 0 (poison c off)) with wait := none }
      ∧ (∀ k, k ≠ core → t.core k = s.core k)
      ∧ Same (fun c : Core => { c.regs with main := {} }) (s.core core) (t.core core)
      ∧ Same (fun x : State => { x with cores := [], cur := 0, curH := false }) s t ∧ ∀ l, t.byteAt l = s.byteAt l)))
  ∧ ∀ (s : State) (way : CountWay) (asid off n : Nat), let core := way.core
       s.lockedBy (.scratch core (off / 128)) none = false → s.runsAsid core asid = true →
      s.heldBefore core (.count way asid off n) = false → off % 16 = 0 →
    let c := s.core core
    let tgt := word c off
    let total := word c (off + 4) + n
    let counts : Bool := decide (tgt ≠ 0) && !poison c off
    Completes (.syncWordCount way asid off n) s (fun t =>
      word (t.core core) (off + 4) = (if counts then total % tgt else word c (off + 4))
      ∧ word (t.core core) (off + 8) = (if counts then (word c (off + 8) + total / tgt) % 2 ^ 32 else word c (off + 8))
      ∧ (∀ l, (∀ i < 8, l ≠ .scratch core (off + 4 + i)) → t.byteAt l = s.byteAt l)
      ∧ (∀ k, (t.core k).regs = (s.core k).regs)
      ∧ t.flight = s.flight.erase (.syncWordCount way asid off n)
      ∧ Same (fun x : State => { x with cores := [], flight := [] }) s t))

/-- Fences (R117–R120): a fence whose earlier accesses are performed completes and changes no register and no byte. An
acquire drops the core's copies of lines that are not frozen, a release does not, and an sc fence raises the logical time
by 1 (R269). vdrain changes nothing. -/
def Obligations.FenceResult : Prop :=
  (∀ (s : State) (ord : BitVec 2) (sc : BitVec 3), (ord = 3 → s.speculative = false) →
      (ord ≠ 1 → s.speculative = false → sc.toNat < 3 ∨ s.mirrorsDone (dieOf s.cur) = true) →
    Completes (.fence ord sc) s (fun t => ScratchAccess s t s.ctx.completed ∧ (∀ l, t.byteAt l = s.byteAt l)
      ∧ t.me.l1 = (if ord = 2 then s.me.l1 else s.me.l1.filter (fun e => e.2.frozen))
      ∧ t.me.lts = s.me.lts + if ord = 3 ∧ s.ctx.stamped = false then 1 else 0))
  ∧ (∀ (s : State) (sc : BitVec 3) (pa pb : BitVec 7), s.speculative = false →
      (∀ p < 7, pa.getLsbD p = true → pathDone s sc p = true) →
    Completes (.fenceX sc pa pb) s (fun t => ScratchAccess s t s.ctx.completed ∧ (∀ l, t.byteAt l = s.byteAt l)
      ∧ t.me.l1 = (if pb.getLsbD 0 then s.me.l1.filter (fun e => e.2.frozen) else s.me.l1)))
  ∧ ∀ s : State, GivesX .vdrain s 0 0 4

/-- send, sendv and reply (R188–R190, R192). A well-formed destination word sends one message with the class, core, reply
request and reply class that the word names (Table 9.7), the core's address space and logical time, and eight registers
from rs2 or the first X(rs2) bytes of a vector register as its payload; it goes to the network, to a host mailbox, to a
peer package, or to the launch agent of a head core for class 63. reply answers the message of the running handler on its
reply class, once, against its token; every reply goes to the network as a message, one with reply class 63 to a head core
among them, which R190 does not say: that is the MODEL'S CHOICE (log 42). No register and no byte of memory changes. -/
def Obligations.SendResult : Prop := ∀ (s : State) (rs1 rs2 : SReg) (vs : VReg),
  let w := s.ctx.x rs1
  let kept (t : State) := ScratchAccess { s with flight := t.flight, peerSent := t.peerSent } t s.ctx.completed
    ∧ ∀ l, t.byteAt l = s.byteAt l
  let sent (t : State) (m : Msg) :=
    (∀ p, m.toPeer = some p → t.peerSent = s.peerSent ++ [(p, m)] ∧ t.flight = s.flight)
    ∧ (m.toPeer = none → t.peerSent = s.peerSent ∧ t.flight = s.flight ++ [
        if m.toHost then .mailboxMessage m
        else if m.cls = 63 ∧ m.dst < 768 ∧ m.dst % 8 = 0 then .launchMessage m else .messageArrival m])
  let named (m : Msg) := m.src = s.cur ∧ m.host = false ∧ m.peer = none ∧ m.asid = s.me.asid.toNat ∧ m.stamp = s.me.lts
    ∧ m.dst = (w.extractLsb' 0 16).toNat ∧ m.cls = (w.extractLsb' 16 6).toNat ∧ m.toHost = w.getLsbD 22
    ∧ m.toPeer = (if w.getLsbD 23 then some (w.extractLsb' 32 10).toNat else none)
    ∧ m.re = w.getLsbD 24 ∧ m.rclass = (w.extractLsb' 25 6).toNat
  let words (m : Msg) := m.len = 64 ∧ m.vec = false ∧ m.payload.toNat < 2 ^ 512
    ∧ ∀ i < 8, m.payload.extractLsb' (64 * i) 64 = s.ctx.x (rs2 + BitVec.ofNat 6 i)
  (destOk w.toNat s.atS s.pkgNo = true → s.speculative = false →
    Completes (.send rs1 rs2) s (fun t => kept t ∧ ∃ m, named m ∧ words m ∧ sent t m)
    ∧ (let len := (s.ctx.x rs2).toNat
       1 ≤ len → len ≤ 512 → (s.curH = true → vs.toNat < 4) →
        Completes (.sendv rs1 vs rs2) s (fun t => kept t ∧ ∃ m, named m ∧ sent t m ∧ m.len = len ∧ m.vec = true
          ∧ ∀ i < 4096, m.payload.getLsbD i = (decide (i < 8 * len) && (s.ctx.vr vs).getLsbD i))))
  ∧ ∀ h, s.curH = true → s.me.run = some h → w ≠ 0 → w = h.token → h.replied = false → h.msg.peer = none →
    Completes (.reply rs1 rs2) s (fun t => (∃ m, words m ∧ m.src = s.cur ∧ m.dst = h.msg.src ∧ m.cls = h.msg.rclass
        ∧ m.toHost = false ∧ m.re = false ∧ m.asid = s.me.asid.toNat ∧ t.flight = s.flight ++ [Instr.messageArrival m])
      ∧ t.me = { s.me with hnd := s.ctx.completed, run := some { h with replied := true } }
      ∧ (∀ k, k ≠ s.cur → t.core k = s.core k) ∧ Same (fun x : State => { x with cores := [], flight := [] }) s t)

/-- hbind and hend (R191, R247): hbind enters a handler's even address for a class 0–63 and changes no other class;
hend, in a handler and away from a live END, ends the handler, discards the handler context's registers and the pins it
holds, and leaves the main context as it is. HANDLER_DISPATCH and HANDLER_BUDGET (R23, R241, R243–R245). At a dispatch
boundary, with no stop asked for (R240), the oldest queued message whose class is bound, class 63 at a head core excepted
(R294), starts the handler, and the messages before it, whose classes are not bound, stay in the queue: s1 its class, s2 the
sender, s3 its stamp, s4 the token (0 when no reply is expected), s5 its length, s8–s15 or v0 its payload, every other
register as at handler entry, and the program counter at the entry address; the core's logical time rises to the stamp, and
no other register and no byte of memory changes. A handler that would issue a 513th instruction is aborted: its dead-message
record, with the handler-budget cause, is written to the next slot of the core's area in device memory and PROD rises by 1
(R244, R369, R370, Table 22.4). -/
def Obligations.HandlerResult : Prop :=
  ((∀ (s : State) (rs1 rs2 : SReg), (s.ctx.x rs1).toNat ≤ 63 → (s.ctx.x rs2).getLsbD 0 = false → s.speculative = false →
    Completes (.hbind rs1 rs2) s (fun t => Bank.get 0 t.me.classes (s.ctx.x rs1).toNat = s.ctx.x rs2
      ∧ (∀ c, c ≠ (s.ctx.x rs1).toNat → Bank.get 0 t.me.classes c = Bank.get 0 s.me.classes c)
      ∧ t.me = { (s.setCtx s.ctx.completed).me with classes := t.me.classes }
      ∧ (∀ k, k ≠ s.cur → t.core k = s.core k) ∧ Same (fun x : State => { x with cores := [] }) s t))
  ∧ ∀ s : State, s.curH = true → s.ctx.atLoopEnd = false → ∀ i ∈ [Instr.hend, .cHend], Completes i s (fun t =>
      t.me = { s.me with run := none, hnd := (Core.reset s.cur).hnd }
      ∧ t.pins = s.pins.filter (fun p => p.2 != s.cur)
      ∧ (∀ k, k ≠ s.cur → t.core k = s.core k) ∧ Same (fun x : State => { x with cores := [], pins := [] }) s t))
  ∧ ((∀ (s : State) (n : Nat) (m : Msg) (older rest : List Held), let c := s.core n
    c.atBoundary = true → c.stopReq = false → c.queue = older ++ .msg m :: rest →
    (∀ h ∈ older, ∃ u, h = .msg u ∧ (Bank.get 0 c.classes u.cls = 0 ∨ launchClass n h = true)) →
    launchClass n (.msg m) = false → Bank.get 0 c.classes m.cls ≠ 0 → (∀ l, Bank.find c.overflow m.asid = some l → l = []) →
    Completes (.handlerDispatch n) s (fun t => let d := t.core n
      (∃ token, d.run = some { msg := m, token := token } ∧ (m.re = false → token = 0) ∧ (m.re = true → token ≠ 0)
        ∧ d.hnd.x 4 = token)
      ∧ d.hnd.pc = Bank.get 0 c.classes m.cls ∧ d.hnd.x 1 = BitVec.ofNat 64 m.cls ∧ d.hnd.x 2 = senderWord m
      ∧ d.hnd.x 3 = BitVec.ofNat 64 m.stamp ∧ d.hnd.x 5 = BitVec.ofNat 64 m.len
      ∧ (m.vec = false → ∀ i < 8, d.hnd.x (BitVec.ofNat 6 (8 + i)) = m.payload.extractLsb' (64 * i) 64)
      ∧ (m.vec = true → ∀ i < 4096, (d.hnd.vr 0).getLsbD i = (decide (i < 8 * m.len) && m.payload.getLsbD i))
      ∧ (∀ r : SReg, r = 0 ∨ r = 6 ∨ r = 7 ∨ 16 ≤ r → d.hnd.x r = 0)
      ∧ d.hnd = { (Core.reset n).hnd with pc := d.hnd.pc, s := d.hnd.s, v := d.hnd.v }
      ∧ d.queue = older ++ rest ∧ d.lts = Nat.max c.lts m.stamp
      ∧ Same (fun k : Core => { k.regs with run := none, hnd := {}, queue := [], tokens := 0 }) c d
      ∧ (∀ l, t.byteAt l = s.byteAt l)
      ∧ (∀ k, k ≠ n → t.core k = s.core k) ∧ Same (fun x : State => { x with cores := [] }) s t))
  ∧ (∀ (s : State) (n a : Nat) (h : HandlerRun), let c := s.core n
      let m := h.msg
      let slot := deadSlot a (s.deadProd a)
      let record : DeadRecord :=
        { sender := senderWord m, stamp := m.stamp, tval := c.hnd.pc, pc := c.hnd.pc, len := m.len, cls := m.cls,
          code := Cause.handlerBudget.code, re := false, refused := false, replied := h.replied, notRun := false,
          count := h.count, payload := m.payload }
      c.run = some h → 512 ≤ h.count → c.hnd.issued = false → c.hnd.wait = none → m.re = false →
      Bank.find c.dead m.asid = some a → (∀ i < Config.deadBytes, s.mpDie ((a + i) / 128) = none) →
      (s.deadProd a + 2 ^ 32 - s.deadCons a) % 2 ^ 32 ≠ 56 →
    Completes (.handlerBudget n) s (fun t => let d := t.core n
      d.run = none ∧ d.hnd = (Core.reset n).hnd ∧ Same (fun k : Core => { k with run := none, hnd := {} }) c d
      ∧ (∀ i < 576, t.byteAt (.hbm (slot + i)) = BitVec.ofNat 8 (record.image / 256 ^ i))
      ∧ (∀ i < 4, t.byteAt (.hbm (a + i)) = BitVec.ofNat 8 ((s.deadProd a + 1) / 256 ^ i))
      ∧ (∀ l, (∀ i < 576, l ≠ .hbm (slot + i)) → (∀ i < 4, l ≠ .hbm (a + i)) → t.byteAt l = s.byteAt l)
      ∧ t.pins = s.pins.filter (fun p => p.2 != n) ∧ (∀ k, k ≠ n → t.core k = s.core k)
      ∧ Same (fun x : State => { x with cores := [], pins := [], hbm := [], wts := [], rts := [], poison := [], annex := [],
                                        cat := [], combine := [] }) s t)))

/-- MESSAGE_ARRIVAL (R237–R240): a message of the package, none of its sender to the same core before it, at a core of a
die in service. When the core's ring runs the message's address space and its arrival queue takes it, and the overflow area
holds none that the queue would take, it joins the queue. Otherwise it joins the end of its address space's overflow area, if
that has room. Either way its acceptance is an event for a main context at S (R200). That areas are lists of items, and that
an item takes 16 bytes and its payload in whole 16-byte units of the 64 KiB, is the MODEL'S CHOICE (log 20, log 21). -/
def Obligations.MessageArrivalResult : Prop := ∀ (s : State) (m : Msg) (n : Nat), m.dst = n →
    s.flight.find? (sameRoute none m.src n) = some (.messageArrival m) → m.host = false → m.peer = none → isRingCore n = true →
    Bank.find s.dropped (dieOf n) = none → (s.core n).upset = none →
  let c := s.core n
  let room := ∀ l, Bank.find c.overflow m.asid = some l → ∀ h ∈ l, c.mayEnter h = false
  let others (t : State) := (∀ k, k ≠ n → t.core k = s.core k)
    ∧ Same (fun x : State => { x with cores := [], flight := [] }) s t
  (s.runsAsid n m.asid = true → c.mayEnter (.msg m) = true → room →
    Completes (.messageArrival m) s (fun t => t.core n = { c with queue := c.queue ++ [.msg m] } ∧ others t
      ∧ t.flight = s.flight.erase (.messageArrival m) ++ (if c.prv then [.haltEvent n] else [])))
  ∧ (∀ area, (s.runsAsid n m.asid = true → c.mayEnter (.msg m) = true → ¬room) → Bank.find c.overflow m.asid = some area →
      areaUsed area + 16 + (m.len + 15) / 16 * 16 ≤ 65536 →
    Completes (.messageArrival m) s (fun t =>
      t.core n = { c with overflow := Bank.put c.overflow m.asid (area ++ [.msg m]) } ∧ others t
      ∧ t.flight = s.flight.erase (.messageArrival m) ++ (if c.prv then [.haltEvent n] else [])))

/-- Packets at a scratchpad (R149, R255, R260, R266): a packet whose place is its turn, for a line that is not locked and has
no held item before it, at a core that serves its address space, changes the bits its mask names, to its data or by
adding its elements, and no other byte; its bytes are put on the way to its sync word's count. A remote load delivers
the bytes at that core. -/
def Obligations.PacketResult : Prop :=
  (∀ (s : State) (p : Packet) (i : Instr), i = .remoteStorePacket p ∧ s.msgWaits p.dst p.asid i = false
        ∨ i = .mmrotPacket p ∧ s.packetWaits i = false →
      s.lockedBy (.scratch p.dst p.line) none = false → s.runsAsid p.dst p.asid = true →
      s.heldBefore p.dst (.packet p) = false → (s.core p.dst).upset = none →
    Completes i s (fun t =>
      (t.core p.dst).scratchLine p.line = mergeBits ((s.core p.dst).scratchLine p.line) (match p.add with
        | none => p.data
        | some e => reduceAdd e ((s.core p.dst).scratchLine p.line) p.data (bytesTouched p.mask)) p.mask
      ∧ (∀ l, (∀ b < 128, l ≠ .scratch p.dst (p.line * 128 + b)) → t.byteAt l = s.byteAt l)
      ∧ t.flight = s.flight.erase i ++ (match p.sync with | some (w, off) => [.syncWordCount ⟨p.src, w, p.left⟩ p.asid off p.bytes] | none => [])
      ∧ (∀ k, (t.core k).regs = (s.core k).regs)
      ∧ Same (fun x : State => { x with cores := [], flight := [] }) s t))
  ∧ (∀ (s : State) (r : RemoteLoadReq) (ea : Word) (rd : SReg) (sz : BitVec 2) (sx : Bool) (loc : Nat × Nat),
      s.msgWaits r.dst r.asid (.remoteLoad r) = false → s.lockedBy (.scratch r.dst (r.off / 128)) none = false →
      s.runsAsid r.dst r.asid = true → poisoned (s.core r.dst).scratchPoison r.off (2 ^ r.sz.toNat) = false →
      s.bitErrors = [] → (s.core r.dst).upset = none →
      ((s.core r.src).ctx r.hnd).wait = some (.remoteLoad (.scratch loc.1 loc.2) ea rd sz sx) →
      let u : State := { s.take (.remoteLoad r) with cur := r.src, curH := r.hnd }
      exec (.remoteLoad r) s = .next (u.setCtx ({ u.ctx with wait := none }.setX rd
        (extend sz sx (readBytes (s.core r.dst).scratch r.off (2 ^ r.sz.toNat)))).completed))

/-- setvl and setvli (R13, R129): EW and VL are set for a request of X(rs1) or a 12-bit number of elements, VILL and
VSTART are cleared, and rd takes the VL granted: the request up to VLMAX, at width 6 a multiple of 4 above 4. -/
def Obligations.VectorLengthGrant : Prop := ∀ (s : State) (ew : BitVec 3) (rd rs1 : SReg) (uimm : BitVec 12), ew.toNat ≤ 5 →
  let w := widthOf ew
  let most := if w = 6 then 680 else 4096 / w
  let goes (i : Instr) (q : Nat) := ∃ g, GivesCtx i s (fun c d =>
      d = { c.completed with s := d.s, ew := ew, vill := false, vl := BitVec.ofNat 11 g, vstart := 0 }
      ∧ d.x rd = (if rd = 0 then 0 else BitVec.ofNat 64 g) ∧ ∀ r, r ≠ rd → d.x r = c.x r)
    ∧ g ≤ q ∧ g ≤ most ∧ g < 2048 ∧ (w ≠ 6 ∨ q ≤ 4 → g = Nat.min q most)
    ∧ (w = 6 → 4 < q → g % 4 = 0 ∧ Nat.min q most < g + 4)
  goes (.setvl ew rd rs1) (s.ctx.x rs1).toNat ∧ goes (.setvli ew rd uimm) uimm.toNat

/-- Integer vector arithmetic (Tables 7.1 and 7.5, R28, R123–R125, R130) on vectors or on a vector and the low EW bits
of a scalar register: every active element from VSTART to below VL takes the wrapped, high-half, shifted, least,
greatest or saturated result; a clamped one raises SAT. -/
def Obligations.VectorIntegerResult : Prop := ∀ (s : State) (pm : Bool) (pg : PReg) (vd vs1 vs2 : VReg) (rs : SReg),
    s.vectorReady [4, 8, 16, 32, 64] →
  let c := s.ctx
  let w := widthOf c.ew
  let A (i : Nat) : BitVec w := BitVec.ofNat w (elem w (c.vr vs1) i)
  let B (i : Nat) : BitVec w := BitVec.ofNat w (elem w (c.vr vs2) i)
  let E : BitVec w := (c.x rs).setWidth w
  let gives (i : Instr) (f : Nat → BitVec w) := GivesCtx i s (fun c d =>
    ElementsWritten c d pm pg 0 vd w (fun i _ => ⟨(f i).toNat, 0, false⟩))
  let clamps (i : Instr) (f : Nat → Int) := GivesCtx i s (fun c d =>
    ElementsWritten c d pm pg 0 vd w (fun i _ =>
      if f i < -(2 ^ (w - 1)) then ⟨2 ^ (w - 1), flagSAT, false⟩
      else if 2 ^ (w - 1) ≤ f i then ⟨2 ^ (w - 1) - 1, flagSAT, false⟩ else ⟨(BitVec.ofInt w (f i)).toNat, 0, false⟩))
  gives (.vadd pm pg vd vs1 vs2) (fun i => A i + B i)
  ∧ gives (.vsub pm pg vd vs1 vs2) (fun i => A i - B i)
  ∧ gives (.vmul pm pg vd vs1 vs2) (fun i => A i * B i)
  ∧ gives (.vmulh pm pg vd vs1 vs2) (fun i => (((A i).signExtend (2 * w)) * ((B i).signExtend (2 * w))).extractLsb' w w)
  ∧ gives (.vand pm pg vd vs1 vs2) (fun i => A i &&& B i)
  ∧ gives (.vor pm pg vd vs1 vs2) (fun i => A i ||| B i)
  ∧ gives (.vxor pm pg vd vs1 vs2) (fun i => A i ^^^ B i)
  ∧ gives (.vsll pm pg vd vs1 vs2) (fun i => A i <<< ((B i).toNat % w))
  ∧ gives (.vsrl pm pg vd vs1 vs2) (fun i => A i >>> ((B i).toNat % w))
  ∧ gives (.vsra pm pg vd vs1 vs2) (fun i => (A i).sshiftRight ((B i).toNat % w))
  ∧ gives (.vmin pm pg vd vs1 vs2) (fun i => if (A i).sle (B i) then A i else B i)
  ∧ gives (.vmax pm pg vd vs1 vs2) (fun i => if (A i).sle (B i) then B i else A i)
  ∧ gives (.vminu pm pg vd vs1 vs2) (fun i => if A i ≤ B i then A i else B i)
  ∧ gives (.vmaxu pm pg vd vs1 vs2) (fun i => if A i ≤ B i then B i else A i)
  ∧ clamps (.vsadd pm pg vd vs1 vs2) (fun i => (A i).toInt + (B i).toInt)
  ∧ clamps (.vssub pm pg vd vs1 vs2) (fun i => (A i).toInt - (B i).toInt)
  ∧ gives (.vaddVx pm pg vd vs1 rs) (fun i => A i + E)
  ∧ gives (.vsubVx pm pg vd vs1 rs) (fun i => A i - E)
  ∧ gives (.vmulVx pm pg vd vs1 rs) (fun i => A i * E)
  ∧ gives (.vandVx pm pg vd vs1 rs) (fun i => A i &&& E)
  ∧ gives (.vsllVx pm pg vd vs1 rs) (fun i => A i <<< (E.toNat % w))
  ∧ gives (.vsrlVx pm pg vd vs1 rs) (fun i => A i >>> (E.toNat % w))
  ∧ gives (.vsraVx pm pg vd vs1 rs) (fun i => (A i).sshiftRight (E.toNat % w))
  ∧ gives (.vmvVx pm pg vd rs) (fun _ => E)

/-- Floating-point vector arithmetic and the special functions (R123–R125, R131, R141): every active element takes the result
of the scalar operation on its elements, in the native format of EW, rounded under RNDM and to nearest under MODE 5. -/
def Obligations.VectorFloatResult : Prop := ∀ (s : State) (pm : Bool) (pg : PReg) (vd vs1 vs2 : VReg) (rs : SReg),
  let c := s.ctx
  let w := widthOf c.ew
  let f := nativeFmt w
  let md := (rndOf c.rndm).plain
  let D (i : Nat) : Nat := elem w (c.vr vd) i
  let A (i : Nat) : Nat := elem w (c.vr vs1) i
  let B (i : Nat) : Nat := elem w (c.vr vs2) i
  let E : Nat := ((c.x rs).setWidth w).toNat
  let gives (i : Instr) (r : Nat → FRes) := GivesCtx i s (fun c d => ElementsWritten c d pm pg 0 vd w (fun i _ => r i))
  (s.vectorReady [16, 32, 64] →
    gives (.vfadd pm pg vd vs1 vs2) (fun i => f.add md (A i) (B i))
    ∧ gives (.vfsub pm pg vd vs1 vs2) (fun i => f.sub md (A i) (B i))
    ∧ gives (.vfmul pm pg vd vs1 vs2) (fun i => f.mul md (A i) (B i))
    ∧ gives (.vfdiv pm pg vd vs1 vs2) (fun i => f.div md (A i) (B i))
    ∧ gives (.vfmin pm pg vd vs1 vs2) (fun i => f.minmax false (A i) (B i))
    ∧ gives (.vfmax pm pg vd vs1 vs2) (fun i => f.minmax true (A i) (B i))
    ∧ gives (.vfmacc pm pg vd vs1 vs2) (fun i => f.macc md (D i) (A i) (B i))
    ∧ gives (.vfmsac pm pg vd vs1 vs2) (fun i => f.msac md (D i) (A i) (B i))
    ∧ gives (.vfsqrt pm pg vd vs1) (fun i => f.sqrt md (A i))
    ∧ gives (.vfneg pm pg vd vs1) (fun i => ⟨(A i) ^^^ 2 ^ (w - 1), 0, false⟩)
    ∧ gives (.vfabs pm pg vd vs1) (fun i => ⟨(A i) % 2 ^ (w - 1), 0, false⟩)
    ∧ gives (.vfaddVx pm pg vd vs1 rs) (fun i => f.add md (A i) E)
    ∧ gives (.vfmulVx pm pg vd vs1 rs) (fun i => f.mul md (A i) E)
    ∧ gives (.vfmaccVx pm pg vd vs1 rs) (fun i => f.macc md (D i) (A i) E))
  ∧ (s.vectorReady [4, 6, 8, 16, 32, 64] → gives (.vfmvVx pm pg vd rs) (fun _ => ⟨E, 0, false⟩)
    ∧ gives (.vmvVx pm pg vd rs) (fun _ => ⟨E, 0, false⟩))
  ∧ (s.vectorReady [16, 32] →
    gives (.vexp2 pm pg vd vs1) (fun i => f.special md .exp2 (A i))
    ∧ gives (.vlog2 pm pg vd vs1) (fun i => f.special md .log2 (A i))
    ∧ gives (.vrcp pm pg vd vs1) (fun i => f.special md .rcp (A i))
    ∧ gives (.vrsqrt pm pg vd vs1) (fun i => f.special md .rsqrt (A i))
    ∧ gives (.vsin pm pg vd vs1) (fun i => f.special md .sin (A i))
    ∧ gives (.vcos pm pg vd vs1) (fun i => f.special md .cos (A i))
    ∧ gives (.vtanh pm pg vd vs1) (fun i => f.special md .tanh (A i))
    ∧ gives (.verf pm pg vd vs1) (fun i => f.special md .erf (A i)))

/-- Widening, narrowing and converting vector instructions (R14, R30–R36, R39, R132–R136). A widening result of width W fills
an even pair that is no source, for a VL of at most twice VLMAX at W; a narrowing or quantised one fills the low elements
of a register that is no source. A conversion that rounds stochastically takes one output of the generator for each
inexact element, in element order. -/
def Obligations.VectorConversionResult : Prop := ∀ (s : State) (pm : Bool) (pg vdp : BitVec 4) (vd vs1 vs2 : VReg) (aq8 : Bool)
    (grp : BitVec 2) (fmt : BitVec 5),
  let c := s.ctx
  let ew := widthOf c.ew
  let n := c.vl.toNat
  let md := (rndOf c.rndm).plain
  let A (i : Nat) : Nat := elem ew (c.vr vs1) i
  let B (i : Nat) : Nat := elem ew (c.vr vs2) i
  let sA (i : Nat) : Int := (BitVec.ofNat ew (A i)).toInt
  let sB (i : Nat) : Int := (BitVec.ofNat ew (B i)).toInt
  let W := if ew ≤ 8 then 16 else 2 * ew
  let vp : VReg := BitVec.ofNat 5 (2 * vdp.toNat)
  let D (i : Nat) : Nat := if i < vlmax W then elem W (c.vr vp) i else elem W (c.vr (vp + 1)) (i - vlmax W)
  let F := nativeFmt W
  let f := nativeFmt ew
  let pairs (i : Instr) (r : Nat → FRes) := n ≤ 2 * vlmax W → vp ≠ vs1 → vp + 1 ≠ vs1 → vp ≠ vs2 → vp + 1 ≠ vs2 →
    GivesCtx i s (fun c d => PairElementsWritten c d pm pg vp W (fun i _ => r i))
  let ints (i : Instr) (r : Nat → Int) := pairs i (fun i => ⟨(BitVec.ofInt W (r i)).toNat, 0, false⟩)
  let gives (i : Instr) (w : Nat) (r : Nat → BitVec 32 → FRes) := GivesCtx i s (fun c d => ElementsWritten c d pm pg 0 vd w r)
  (s.vectorReady [4, 8, 16, 32] →
    ints (.vwmacc pm pg vdp vs1 vs2) (fun i => D i + sA i * sB i)
    ∧ ints (.vwmaccu pm pg vdp vs1 vs2) (fun i => D i + A i * B i)
    ∧ ints (.vwmaccsu pm pg vdp vs1 vs2) (fun i => D i + sA i * B i)
    ∧ ints (.vwmul pm pg vdp vs1 vs2) (fun i => sA i * sB i)
    ∧ ints (.vwmulu pm pg vdp vs1 vs2) (fun i => A i * B i))
  ∧ (s.vectorReady [4, 6, 8, 16, 32] →
    pairs (.vfwmacc pm pg vdp vs1 vs2) (fun i => F.fmaV md (F.decode (D i)) (f.decode (A i)) (f.decode (B i)))
    ∧ pairs (.vfwmul pm pg vdp vs1 vs2) (fun i => F.mulV md (f.decode (A i)) (f.decode (B i))))
  ∧ (s.vectorReady [16] →
    pairs (.vbfwmacc pm pg vdp vs1 vs2) (fun i => fp32.fmaV md (fp32.decode (D i)) (bf16.decode (A i)) (bf16.decode (B i))))
  ∧ (s.vectorReady [8, 16, 32, 64] → vd ≠ vs1 →
    let h := ew / 2
    let clamp (lo hi v : Int) : FRes := if v < lo then ⟨(BitVec.ofInt h lo).toNat, flagSAT, false⟩
      else if hi < v then ⟨(BitVec.ofInt h hi).toNat, flagSAT, false⟩ else ⟨(BitVec.ofInt h v).toNat, 0, false⟩
    gives (.vncvt pm pg vd vs1) h (fun i _ => ⟨A i % 2 ^ h, 0, false⟩)
    ∧ gives (.vnclip pm pg vd vs1) h (fun i _ => clamp (-2 ^ (h - 1)) (2 ^ (h - 1) - 1) (sA i))
    ∧ gives (.vnclipu pm pg vd vs1) h (fun i _ => clamp 0 (2 ^ h - 1) (A i)))
  ∧ (∀ dst, fmtOf fmt.toNat = some dst → dst.width ≤ ew → (dst.width = ew ∨ vd ≠ vs1) →
    (s.vectorReady [4, 6, 8, 16, 32, 64] →
      gives (.vfcvt pm pg vd vs1 fmt) dst.width (fun i u => convert f dst (rndOf c.rndm) u (A i)))
    ∧ (s.vectorReady [4, 8, 16, 32, 64] →
      gives (.vfcvtF pm pg vd vs1 fmt) dst.width (fun i _ => dst.ofInteger md (sA i))))
  ∧ (∀ dst, fmtOf fmt.toNat = some dst → ew < dst.width → vd.toNat % 2 = 0 → n ≤ 2 * vlmax dst.width → vd ≠ vs1 →
      vd + 1 ≠ vs1 →
    (s.vectorReady [4, 6, 8, 16, 32, 64] → GivesCtx (.vfcvt pm pg vd vs1 fmt) s (fun c d =>
      PairElementsWritten c d pm pg vd dst.width (fun i u => convert f dst (rndOf c.rndm) u (A i))))
    ∧ (s.vectorReady [4, 8, 16, 32, 64] → GivesCtx (.vfcvtF pm pg vd vs1 fmt) s (fun c d =>
      PairElementsWritten c d pm pg vd dst.width (fun i _ => dst.ofInteger md (sA i)))))
  ∧ (s.vectorReady [4, 8, 16, 32, 64] → gives (.vfcvtX pm pg vd vs1) ew (fun i _ =>
      let r := toInteger md (-2 ^ (ew - 1)) (2 ^ (ew - 1) - 1) (f.decode (A i))
      ⟨(BitVec.ofInt ew r.1).toNat, r.2, false⟩))
  ∧ (s.vectorReady [16, 32] → vd ≠ vs1 → vd ≠ vs2 →
    let q := if aq8 then 8 else 4
    let desc (i : Nat) : Nat := elem 32 (c.vr vs2) (i / (32 * 2 ^ grp.toNat))
    gives (.vdeq aq8 grp pm pg vd vs1 vs2) ew (fun i u => aqDecode f (rndOf c.rndm) u aq8 (elem q (c.vr vs1) i) (desc i))
    ∧ gives (.vquant aq8 grp pm pg vd vs1 vs2) q (fun i u => aqQuantise f (rndOf c.rndm) u aq8 (A i) (desc i)))

/-- Reductions and scans (R41, R137). A reduction, from VSTART = 0 and of VL > 0, puts into element 0 the fold of vs2[0]
with the active elements of vs1, in ascending order or, for vfredsum.t, along the tree of R41, and keeps the other
elements; a scan puts into each active element the fold up to it. -/
def Obligations.ReductionResult : Prop := ∀ (s : State) (pm : Bool) (pg : PReg) (vd vs1 vs2 : VReg),
  let c := s.ctx
  let w := widthOf c.ew
  let f := nativeFmt w
  let md := (rndOf c.rndm).plain
  let act := (List.range c.vl.toNat).filter (fun i => c.active pm pg i)
  let A (i : Nat) : Nat := elem w (c.vr vs1) i
  let init := elem w (c.vr vs2) 0
  let fold (op : Nat → Nat → FRes) (a : FRes) : FRes :=
    act.foldl (fun a i => let r := op a.code (A i); ⟨r.code, a.flags ||| r.flags, false⟩) a
  let int (op : BitVec w → BitVec w → BitVec w) : FRes := fold (fun a b => ⟨(op (BitVec.ofNat w a) (BitVec.ofNat w b)).toNat, 0, false⟩) ⟨init, 0, false⟩
  let reduces (i : Instr) (r : FRes) := GivesCtx i s (fun c d => VecWritten c d vd r.flags c.seed
    ∧ elem w (d.vr vd) 0 = r.code % 2 ^ w ∧ ∀ i < vlmax w, 0 < i → elem w (d.vr vd) i = elem w (c.vr vd) i)
  (s.vectorReady [4, 8, 16, 32, 64] → c.vstart = 0 → 0 < c.vl.toNat →
    reduces (.vredsum pm pg vd vs1 vs2) (int (fun a b => a + b))
    ∧ reduces (.vredmax pm pg vd vs1 vs2) (int (fun a b => if a.sle b then b else a))
    ∧ reduces (.vredmin pm pg vd vs1 vs2) (int (fun a b => if a.sle b then a else b))
    ∧ reduces (.vredmaxu pm pg vd vs1 vs2) (int (fun a b => if a ≤ b then b else a))
    ∧ reduces (.vredminu pm pg vd vs1 vs2) (int (fun a b => if a ≤ b then a else b)))
  ∧ (s.vectorReady [16, 32, 64] → c.vstart = 0 → 0 < c.vl.toNat →
    reduces (.vfredsumO pm pg vd vs1 vs2) (fold (f.add md) ⟨init, 0, false⟩)
    ∧ reduces (.vfredsumT pm pg vd vs1 vs2) (
        let r := treeSum f md 10 ((List.range c.vl.toNat).map (fun i => if c.active pm pg i then some (A i) else none))
        match r.1 with
        | none => ⟨init, r.2, false⟩
        | some a => let t := f.add md init a; ⟨t.code, r.2 ||| t.flags, false⟩)
    ∧ reduces (.vfredmax pm pg vd vs1 vs2) (fold (f.minmax true) (f.minmax true init init))
    ∧ reduces (.vfredmin pm pg vd vs1 vs2) (fold (f.minmax false) (f.minmax false init init)))
  ∧ (c.vstart = 0 → vd ≠ vs2 →
    let upto (op : Nat → Nat → FRes) (i : Nat) : FRes := (act.filter (fun j => decide (j ≤ i))).foldl
      (fun a j => op a.code (A j)) ⟨init, 0, false⟩
    (s.vectorReady [4, 8, 16, 32, 64] → GivesCtx (.vscan pm pg vd vs1 vs2) s (fun c d =>
      ElementsWritten c d pm pg 0 vd w (fun i _ => upto (fun a b => ⟨(a + b) % 2 ^ w, 0, false⟩) i)))
    ∧ (s.vectorReady [16, 32, 64] → GivesCtx (.vfscan pm pg vd vs1 vs2) s (fun c d =>
      ElementsWritten c d pm pg 0 vd w (fun i _ => upto (f.add md) i))))

/-- Permutes, slides, index vectors and moves (R138–R140): vrgather reads zero beyond VLMAX; vslideup leaves the
elements below the amount; vslidedn reads zero beyond VLMAX; the slides by one take the scalar at the end they open;
vcompress packs the active elements; vmv.xs and vmv.sx move element 0, which leaves a register sign-extended, or
zero-extended at width 6. A vector register that any of them writes at width 6 has bits [4095:4080] zero after it, as after
every element-wise result of these statements (R12); that they are so where VL is 0 is the MODEL'S CHOICE (log 66). -/
def Obligations.PermuteResult : Prop := ∀ (s : State) (pm : Bool) (pg : PReg) (vd vs1 vs2 : VReg) (rs : SReg),
  let c := s.ctx
  let w := widthOf c.ew
  let n := c.vl.toNat
  let A (i : Nat) : Nat := elem w (c.vr vs1) i
  let E : Nat := ((c.x rs).setWidth w).toNat
  let q := (c.x rs).toNat
  let within (i : Nat) : FRes := ⟨if i < vlmax w then A i else 0, 0, false⟩
  let gives (i : Instr) (first : Nat) (r : Nat → FRes) := GivesCtx i s (fun c d => ElementsWritten c d pm pg first vd w (fun i _ => r i))
  (s.vectorReady [4, 6, 8, 16, 32, 64] → vd ≠ vs1 →
    (vd ≠ vs2 → gives (.vrgather pm pg vd vs1 vs2) 0 (fun i => within (elem w (c.vr vs2) i)))
    ∧ gives (.vslideup pm pg vd vs1 rs) q (fun i => ⟨A (i - q), 0, false⟩)
    ∧ gives (.vslidedn pm pg vd vs1 rs) 0 (fun i => within (i + q))
    ∧ gives (.vslide1up pm pg vd vs1 rs) 0 (fun i => ⟨if i = 0 then E else A (i - 1), 0, false⟩)
    ∧ gives (.vslide1dn pm pg vd vs1 rs) 0 (fun i => ⟨if i + 1 = n then E else A (i + 1), 0, false⟩)
    ∧ (c.vstart = 0 → let l := (List.range n).filter (fun i => c.active pm pg i)
      GivesCtx (.vcompress pm pg vd vs1) s (fun c d => VecWritten c d vd 0 c.seed ∧ TopClear w (d.vr vd)
        ∧ ∀ i < vlmax w, elem w (d.vr vd) i = match l[i]? with
          | some j => A j
          | none => if pm = true ∧ i < n then 0 else elem w (c.vr vd) i)))
  ∧ (s.vectorReady [4, 8, 16, 32, 64] →
    gives (.viota pm pg vd) 0 (fun i => ⟨(List.range i).countP (fun j => c.active pm pg j) % 2 ^ w, 0, false⟩)
    ∧ gives (.vid pm pg vd) 0 (fun i => ⟨i % 2 ^ w, 0, false⟩))
  ∧ (s.vectorReady [4, 6, 8, 16, 32, 64] → c.vstart = 0 →
    GivesCtx (.vmvXs rs vs1) s (fun c d => d = { c.completed with s := d.s, vstart := 0 } ∧ (∀ r, r ≠ rs → d.x r = c.x r)
      ∧ d.x rs = if rs = 0 then 0 else if w = 6 then BitVec.ofNat 64 (A 0) else (BitVec.ofNat w (A 0)).signExtend 64)
    ∧ GivesCtx (.vmvSx vd rs) s (fun c d => VecWritten c d vd 0 c.seed ∧ TopClear w (d.vr vd)
      ∧ ∀ i < vlmax w, elem w (d.vr vd) i = if i = 0 ∧ 0 < n then E else elem w (c.vr vd) i))

/-- Vector compares (R142), from VSTART = 0: bit i of pd below VL is the truth of the comparison where the element is
active, and elsewhere its old value under PM = 0 and zero under PM = 1; bits from VL on keep theirs. Predicate
instructions (R143, R393), from VSTART = 0: bit i of pd below VL is the operation's where pg governs it and 0 elsewhere;
pfind, ppopc and pany answer over the governed bits of pa below VL. -/
def Obligations.VectorCompareResult : Prop :=
  (∀ (s : State) (pm : Bool) (pg pd : PReg) (vs1 vs2 : VReg), s.ctx.vstart = 0 →
  let c := s.ctx
  let w := widthOf c.ew
  let f := nativeFmt w
  let A (i : Nat) : BitVec w := BitVec.ofNat w (elem w (c.vr vs1) i)
  let B (i : Nat) : BitVec w := BitVec.ofNat w (elem w (c.vr vs2) i)
  let gives (i : Instr) (r : Nat → Bool) (fl : Nat → Flags) := GivesCtx i s (fun c d =>
    PredWritten c d pd (((List.range c.vl.toNat).filter (fun i => c.active pm pg i)).foldl (fun a i => a ||| fl i) 0)
    ∧ ∀ i < 1024, (d.pr pd).getLsbD i = if i < c.vl.toNat then (if c.active pm pg i then r i else !pm && (c.pr pd).getLsbD i)
        else (c.pr pd).getLsbD i)
  let compares (i : Instr) (op : FCmp) := gives i (fun i => (f.compare op (A i).toNat (B i).toNat).1)
    (fun i => (f.compare op (A i).toNat (B i).toNat).2)
  (s.vectorReady [4, 8, 16, 32, 64] →
    gives (.vmseq pm pg pd vs1 vs2) (fun i => A i == B i) (fun _ => 0)
    ∧ gives (.vmsne pm pg pd vs1 vs2) (fun i => A i != B i) (fun _ => 0)
    ∧ gives (.vmslt pm pg pd vs1 vs2) (fun i => (A i).slt (B i)) (fun _ => 0)
    ∧ gives (.vmsle pm pg pd vs1 vs2) (fun i => (A i).sle (B i)) (fun _ => 0)
    ∧ gives (.vmsltu pm pg pd vs1 vs2) (fun i => (A i).ult (B i)) (fun _ => 0)
    ∧ gives (.vmsleu pm pg pd vs1 vs2) (fun i => (A i).ule (B i)) (fun _ => 0))
  ∧ (s.vectorReady [16, 32, 64] →
    compares (.vmfeq pm pg pd vs1 vs2) .eq ∧ compares (.vmflt pm pg pd vs1 vs2) .lt
    ∧ compares (.vmfle pm pg pd vs1 vs2) .le ∧ compares (.vmfun pm pg pd vs1 vs2) .un))
  ∧ (∀ (s : State) (pg pd pa pb : PReg) (rd rs : SReg) (kd : KReg),
    s.vectorReady [4, 6, 8, 16, 32, 64] → s.ctx.vstart = 0 →
  let c := s.ctx
  let n := c.vl.toNat
  let a (i : Nat) : Bool := (c.pr pa).getLsbD i
  let b (i : Nat) : Bool := (c.pr pb).getLsbD i
  let gov (i : Nat) : Bool := decide (pg = 0) || (c.pr pg).getLsbD i
  let hit (i : Nat) : Bool := gov i && a i
  let gives (i : Instr) (r : Nat → Bool) := GivesCtx i s (fun c d => PredWritten c d pd 0
    ∧ ∀ i < 1024, (d.pr pd).getLsbD i = if i < n then gov i && r i else (c.pr pd).getLsbD i)
  let scalar (i : Instr) (v : Word) := GivesCtx i s (fun c d => d = { c.completed with s := d.s, vstart := 0 }
    ∧ d.x rd = (if rd = 0 then 0 else v) ∧ ∀ r, r ≠ rd → d.x r = c.x r)
  gives (.pand pg pd pa pb) (fun i => a i && b i)
  ∧ gives (.por pg pd pa pb) (fun i => a i || b i)
  ∧ gives (.pxor pg pd pa pb) (fun i => a i ^^ b i)
  ∧ gives (.pandn pg pd pa pb) (fun i => a i && !b i)
  ∧ gives (.pnot pg pd pa) (fun i => !a i)
  ∧ gives (.pcut pg pd pa) (fun i => (List.range i).all (fun j => !hit j))
  ∧ gives (.psetn pg pd rs) (fun i => decide (i < (c.x rs).toNat))
  ∧ (∀ i < n, hit i = true → (∀ j < i, hit j = false) → scalar (.pfind pg rd pa) (BitVec.ofNat 64 i))
  ∧ ((∀ i < n, hit i = false) → scalar (.pfind pg rd pa) (BitVec.allOnes 64))
  ∧ scalar (.ppopc pg rd pa) (BitVec.ofNat 64 ((List.range n).countP hit))
  ∧ GivesCtx (.pany pg kd pa) s (fun c d => d = { c.completed with k := d.k, vstart := 0 }
      ∧ d.kb kd = (List.range n).any hit ∧ ∀ k, k ≠ kd → d.kb k = c.kb k))

/-- Vector loads from window 0 of the own scratchpad (R144, R146–R148), of clean bytes inside it that no commit holds
locked: element i comes from bit b + Wm × i after the base, from base + i × stride, from base + index i, from the base
itself for every element, or, for the sliding window, from the register's element i + k and then from memory. vldff
completes like vld when no element raises a cause. Unit-stride loads through an alias window of the own scratchpad (R44,
R45), of clean bytes: at the window's own width they deliver the stored codes; at width 16 or 32 each code is decoded
with the descriptor or scale of its group, which lies from offset 0x70000 on. That the group of an element of window 6
is that of the byte in which it starts, also where it reaches into the next group, is the MODEL'S CHOICE (log 68). -/
def Obligations.VectorLoadResult : Prop :=
  (∀ (s : State) (pm : Bool) (pg : PReg) (v vi : VReg) (base rs : SReg) (b : BitVec 3)
    (off : Nat) (at_ : Nat → Nat), s.vectorReady [4, 6, 8, 16, 32, 64] → s.ownPlace (s.ctx.x base) 0 off → s.clean →
    (∀ line, s.lockedBy (.scratch s.cur line) none = false) →
  let c := s.ctx
  let w := widthOf c.ew
  let n := c.vl.toNat
  let mem (o b : Nat) : Nat := s.scratchField s.cur o b w
  let gives (i : Instr) (pm : Bool) (pg : PReg) (x : Nat → Nat) := GivesLoad i s (fun c d =>
    ElementsWritten c d pm pg 0 v w (fun i _ => ⟨x i, 0, false⟩))
  let moved (ea : Nat → Word) := ∀ i < n, c.vstart.toNat ≤ i → c.active pm pg i = true →
    s.ownPlace (ea i) 0 (at_ i) ∧ at_ i % (w / 8) = 0 ∧ at_ i + w / 8 ≤ 0x80000
  (offsetOk w b.toNat = true → off + (b.toNat + w * n + 7) / 8 ≤ 0x80000 →
    gives (.vld pm pg v base b) pm pg (fun i => mem off (b.toNat + w * i))
    ∧ gives (.vldff pm pg v base b) pm pg (fun i => mem off (b.toNat + w * i)))
  ∧ (8 ≤ w → moved (fun i => c.x base + BitVec.ofNat 64 i * c.x rs) →
    gives (.vlds pm pg v base rs) pm pg (fun i => mem (at_ i) 0))
  ∧ (8 ≤ w → n ≤ 128 → v ≠ vi → moved (fun i => c.x base + BitVec.ofNat 64 (elem 32 (c.vr vi) i)) →
    gives (.vldx pm pg v base vi) pm pg (fun i => mem (at_ i) 0))
  ∧ (off + (w + 7) / 8 ≤ 0x80000 → gives (.vldbc pm pg v base) pm pg (fun _ => mem off 0))
  ∧ (let k := Nat.min (c.x rs).toNat n
     off + (w * k + 7) / 8 ≤ 0x80000 → gives (.vldsr v base rs) false 0 (fun i =>
       if i < n - k then elem w (c.vr v) (i + k) else mem off (w * (i - (n - k))))))
  ∧ (∀ (s : State) (pm : Bool) (pg : PReg) (v : VReg) (base : SReg) (b : BitVec 3)
    (win off : Nat), s.vectorReady [4, 6, 8, 16, 32, 64] → 0 < win → s.ownPlace (s.ctx.x base) win off → s.clean →
    (∀ line, s.lockedBy (.scratch s.cur line) none = false) →
  let c := s.ctx
  let ew := widthOf c.ew
  let n := c.vl.toNat
  let w := if win = 4 ∨ win = 7 then 8 else if win = 6 then 6 else 4
  let group := if win = 1 then 16 else if win = 3 then 64 else if win = 5 then 16 else if win = 6 then 24 else 32
  let size := if win ≤ 4 then 4 else 1
  (ew = w ∨ ew = 16 ∨ ew = 32) → offsetOk w b.toNat = true → off + (b.toNat + w * n + 7) / 8 ≤ windowLim win →
  GivesLoad (.vld pm pg v base b) s (fun c d => ElementsWritten c d pm pg 0 v ew (fun i u =>
    let bit := b.toNat + w * i
    let code := s.scratchField s.cur off bit w
    if ew = w then ⟨code, 0, false⟩
    else windowDecode win ew (rndOf c.rndm) u code (s.scratchField s.cur (0x70000 + (off + bit / 8) / group * size) 0 (8 * size)))))

/-- Vector stores to window 0 of the own scratchpad (R144–R146) by an agent that is no speculative chunk, with no line
locked: each bit of the stream that belongs to an active element from VSTART on takes the element's bit, and no other
bit changes; a strided or indexed store writes its elements in order. vstr to another core's scratchpad (R149): packets
leave for that core that name exactly the bits of the active elements, with their values; VSTART := 0, and no register
and no byte changes. -/
def Obligations.VectorStoreResult : Prop :=
  (∀ (s : State) (pm : Bool) (pg : PReg) (v vi : VReg) (base rs : SReg) (b : BitVec 3)
    (off : Nat) (at_ : Nat → Nat), s.vectorReady [4, 6, 8, 16, 32, 64] → s.ownPlace (s.ctx.x base) 0 off → s.locks = [] →
  let c := s.ctx
  let w := widthOf c.ew
  let n := c.vl.toNat
  let els := (List.range n).filter (fun i => decide (c.vstart.toNat ≤ i) && c.active pm pg i)
  let listed (o : Nat) : Byte := Bank.get 0 (els.foldl (fun m i => writeBytes m (at_ i) (w / 8) (elem w (c.vr v) i)) s.me.scratch) o
  let moved (ea : Nat → Word) := ∀ i ∈ els, s.ownPlace (ea i) 0 (at_ i) ∧ at_ i % (w / 8) = 0
  (offsetOk w b.toNat = true → off + (b.toNat + w * n + 7) / 8 ≤ 0x80000 → n ≤ vlmax w →
    ∃ new, GivesStore (.vst pm pg v base b) s new ∧ ∀ o < 0x80000, ∀ j < 8,
      (new o).getLsbD j =
        let z := 8 * o + j - (8 * off + b.toNat)
        if 8 * off + b.toNat ≤ 8 * o + j ∧ c.computes pm pg 0 (z / w) = true then (c.vr v).getLsbD z
        else (s.byteAt (.scratch s.cur o)).getLsbD j)
  ∧ (8 ≤ w → moved (fun i => c.x base + BitVec.ofNat 64 i * c.x rs) → GivesStore (.vsts pm pg v base rs) s listed)
  ∧ (8 ≤ w → n ≤ 128 → v ≠ vi → moved (fun i => c.x base + BitVec.ofNat 64 (elem 32 (c.vr vi) i)) →
    GivesStore (.vstx pm pg v base vi) s listed))
  ∧ (∀ (s : State) (pm : Bool) (pg : PReg) (v : VReg) (base : SReg) (b : BitVec 3)
    (core off : Nat), s.vectorReady [4, 6, 8, 16, 32, 64] → s.speculative = false → core < 768 → core ≠ s.cur →
    Bank.find s.dropped (dieOf core) = none → off < 0x80000 →
    (s.ctx.x base).toNat = Config.globalScratch + core * 0x800000 + off →
  let c := s.ctx
  let w := widthOf c.ew
  let n := c.vl.toNat
  offsetOk w b.toNat = true → off + (b.toNat + w * n + 7) / 8 ≤ 0x80000 → n ≤ vlmax w →
  Completes (.vstr pm pg v base b) s (fun t => ∃ ps : List Packet, t.flight = s.flight ++ ps.map .remoteStorePacket
    ∧ (∀ p ∈ ps, p.src = s.cur ∧ p.dst = core ∧ p.asid = s.me.asid.toNat ∧ p.sync = none ∧ p.add = none)
    ∧ (∀ o < 0x80000, ∀ j < 8, let z := 8 * o + j - (8 * off + b.toNat)
        let at_ (p : Packet) : Prop := p.line = o / 128 ∧ p.mask.getLsbD (8 * (o % 128) + j) = true
        ((∃ p ∈ ps, at_ p) ↔ 8 * off + b.toNat ≤ 8 * o + j ∧ c.computes pm pg 0 (z / w) = true)
        ∧ ∀ p ∈ ps, at_ p → p.data.getLsbD (8 * (o % 128) + j) = (c.vr v).getLsbD z)
    ∧ ScratchAccess { s with flight := t.flight } t { c.completed with vstart := 0 } ∧ ∀ l, t.byteAt l = s.byteAt l))

/-- seqld and seqst on the own scratchpad (R198), at an address that is a multiple of 512: the register takes the 512
clean and unlocked bytes, as a completed write; or the 512 bytes become the register's. -/
def Obligations.SequenceTransferResult : Prop := ∀ (s : State) (v : VReg) (rs1 : SReg) (off : Nat),
    s.ownPlace (s.ctx.x rs1) 0 off → off % 512 = 0 → s.ctx.vstart = 0 → s.me.upset = none →
  ((∀ i < 4, s.cleanLine (off / 128 + i) ∧ s.lockedBy (.scratch s.cur (off / 128 + i)) none = false) → GivesLoad (.seqld v rs1) s (fun c d => VecWritten c d v 0 c.seed
    ∧ ∀ i < 512, (d.vr v).extractLsb' (8 * i) 8 = s.byteAt (.scratch s.cur (off + i))))
  ∧ (s.locks = [] → GivesStore (.seqst v rs1) s (fun o =>
      if off ≤ o ∧ o < off + 512 then (s.ctx.vr v).extractLsb' (8 * (o - off)) 8 else s.byteAt (.scratch s.cur o)))

/-- Matrix configuration and planes (R154, R157, R160–R162), in a main context that is no speculative chunk. Each clears
VSTART when it completes. mcfg sets MCFG to a
well-formed value; mswp exchanges the planes; mld fills the shadow plane from clean bytes of the own scratchpad: value r of
column j is element r of the row at j × stride, in the format of MCFG or of the alias window, with a position from the
metadata under a sparse pattern and the descriptor or scale of its group under a window. -/
def Obligations.MatrixLoadResult : Prop := ∀ (s : State) (rsa rsb : SReg), s.curH = false → s.speculative = false →
  let me := s.me
  let changes (t : State) (me' : Core) := t = s.setCore s.cur { me' with
    main := { s.ctx.completed with vstart := 0 }, upset := me.upset.filter (fun u => !u.isStop) }
  (let v := (s.ctx.x rsa).toNat
   v < 2048 → v / 512 ≠ 3 → v % 16 ≤ 11 → v % 16 ≠ 7 → v / 16 % 16 ≤ 11 → v / 16 % 16 ≠ 7 →
    Completes (.mcfg rsa) s (fun t => t.me.mcfg.toNat = v ∧ changes t { me with mcfg := t.me.mcfg }))
  ∧ Completes .mswp s (fun t => changes t { me with active := me.shadowPlane, shadowPlane := me.active })
  ∧ ∀ (w off : Nat) (f : MFmt), s.ownPlace (s.ctx.x rsa) w off → s.clean → me.upset = none →
    let shape := (s.ctx.x rsb).toNat
    let k := shape % 128
    let cols := shape / 256 % 128
    let stride := shape / 2 ^ 16 % 2 ^ 16
    let meta_ := shape / 2 ^ 44
    let sp := me.mcfg.toNat / 512
    let code := if w = 0 then me.mcfg.toNat / 16 % 16 else windowFmt w
    let len := (k * f.width + 7) / 8
    let bg := (windowGroup w).1
    let size := (windowGroup w).2
    let byte (o n : Nat) : Nat := readBytes me.scratch o n
    let pos (r j : Nat) : Nat := byte (meta_ + 32 * r + j / 2) 1 / 16 ^ (j % 2) % 16
    let inGroup := if sp = 1 then 2 else 4
    mfmtOf code = some f → shape / 128 % 2 = 0 → shape / 2 ^ 15 % 2 = 0 → shape / 2 ^ 32 % 2 ^ 12 = 0 →
    1 ≤ k → k ≤ 64 → 1 ≤ cols → cols ≤ 64 → stride % 16 = 0 → len ≤ stride → off + (cols - 1) * stride + len ≤ windowLim w →
    (w ≠ 0 → sp = 0 ∧ off % bg = 0 ∧ stride % bg = 0) → (1 ≤ w → w ≤ 4 → k % (if w = 2 then 64 else if w = 3 then 128 else 32) = 0) →
    (sp ≠ 0 → sp < 3 ∧ (sp = 1 → k ≤ 32) ∧ meta_ % 16 = 0 ∧ meta_ + 32 * (k - 1) + (cols + 1) / 2 ≤ 0x80000
      ∧ ∀ j < cols, ∀ r < k, pos r j < 8 ∧ (r % inGroup ≠ 0 → pos (r - 1) j < pos r j)) →
    Completes (.mld rsa rsb) s (fun t =>
      let p := t.me.shadowPlane
      p.kind = (if sp = 1 then .sparse2 else if sp = 2 then .sparse4 else if w = 0 then .plain else if w ≤ 4 then .aq else .block)
      ∧ p.group = (if w = 0 ∨ 5 ≤ w then 0 else if w = 2 then 64 else if w = 3 then 128 else 32) ∧ p.fmt = code ∧ p.pk = k ∧ p.pn = cols ∧ p.check = p.checks
      ∧ (∀ r < k, ∀ j < cols, Bank.get 0 p.vals (r * 64 + j) = byte (off + j * stride) len / 2 ^ (f.width * r) % 2 ^ f.width)
      ∧ (sp ≠ 0 → ∀ r < k, ∀ j < cols, Bank.get 0 p.pos (r * 64 + j) = pos r j)
      ∧ (w ≠ 0 → ∀ r < (len + bg - 1) / bg, ∀ j < cols,
          Bank.get 0 p.desc (r * 64 + j) = byte (0x70000 + ((off + j * stride) / bg + r) * size) size)
      ∧ changes t { me with shadowPlane := p })

/-- Array products (R155–R157, R163–R165), in a main context that is no speculative chunk, over clean operands of the
own scratchpad with a well-formed shape and with formats that the instruction accepts: from the row block in VSTART on,
C[i][j] becomes the accumulation, group by group, of row i of A with column j of the active plane (where rows of C do
not overlap one another), the flags are raised, and VSTART := 0; no other byte changes, and no register but the program
counter. mzero zeroes M × CS bytes and clears VSTART too. mmrot also sends A to the west neighbour and B to the north
one, each byte to its place, with the sync words of the record. -/
def Obligations.MatrixProductResult : Prop := ∀ (s : State) (rsc rsa rsb : SReg) (cOff : Nat), s.curH = false →
    s.speculative = false → s.clean → s.me.upset = none → s.ownPlace (s.ctx.x rsc) 0 cOff → cOff % 16 = 0 →
  let me := s.me
  let p := me.active
  let b := s.ctx.vstart.toNat
  let kept (t : State) (flight : List Instr) := ∃ fl, ScratchAccess { s with flight := flight } t
    { s.ctx.completed with fflags := s.ctx.fflags ||| fl, vstart := 0 }
  let product (op : Streaming) (sh : Shape) (w aOff : Nat) (f : MFmt) :=
    let x : Stream := ⟨p, f.isInt && op != .mqma, f, w, aOff, sh.as_, cOff, sh.cs, sh.m⟩
    let len := (p.kd * f.width + 7) / 8
    (s.ownPlace (s.ctx.x rsa) w aOff ∧ (w = 0 ∨ 5 ≤ w) ∧ mfmtOf (if w = 0 then me.mcfg.toNat % 16 else windowFmt w) = some f
      ∧ 1 ≤ p.pn ∧ p.pn ≤ 64 ∧ p.pk ≤ 64 ∧ aOff + (sh.m - 1) * sh.as_ + Nat.max len 1 ≤ windowLim w
      ∧ cOff + (sh.m - 1) * sh.cs + 4 * p.pn ≤ 0x80000 ∧ (w ≠ 0 → aOff % (windowGroup w).1 = 0 ∧ (1 < sh.m → sh.as_ % (windowGroup w).1 = 0))
      ∧ formatsOk op p f (me.mcfg.toNat / 256 % 2) = true ∧ x.overlap = false,
     fun (t : State) =>
      (4 * p.pn ≤ sh.cs → ∀ i < sh.m, 8 * b ≤ i → ∀ j < p.pn, let o := cOff + i * sh.cs + 4 * j
        readBytes t.me.scratch o 4 = (accElem x.int p (x.values me i) j (readBytes me.scratch o 4)).1)
      ∧ (4 * p.pn ≤ sh.cs → t.ctx.fflags = (((List.range sh.m).filter (8 * b ≤ ·)).flatMap (fun i => (List.range p.pn).map
          (fun j => (accElem x.int p (x.values me i) j (readBytes me.scratch (cOff + i * sh.cs + 4 * j) 4)).2))).foldl (· ||| ·)
          s.ctx.fflags)
      ∧ ∀ l, (∀ i < sh.m, 8 * b ≤ i → ∀ o < 4 * p.pn, l ≠ .scratch s.cur (cOff + i * sh.cs + o)) → t.byteAt l = s.byteAt l)
  (let sh := shapeOf (s.ctx.x rsb)
   (shapeOk (s.ctx.x rsb) true = true → ∀ (w aOff : Nat) (f : MFmt),
    (let r := product .mma sh w aOff f; r.1 → Completes (.mma rsc rsa rsb) s (fun t => r.2 t ∧ kept t s.flight))
    ∧ (let r := product .mmas sh w aOff f; r.1 → Completes (.mmas rsc rsa rsb) s (fun t => r.2 t ∧ kept t s.flight))
    ∧ (let r := product .mqma sh w aOff f; r.1 → Completes (.mqma rsc rsa rsb) s (fun t => r.2 t ∧ kept t s.flight)))
   ∧ (shapeOk (s.ctx.x rsb) false = true → cOff + Nat.max (sh.m * sh.cs) 1 ≤ 0x80000 →
      Completes (.mzero rsc rsb) s (fun t =>
        (∀ o < 0x80000, t.byteAt (.scratch s.cur o) =
          if cOff ≤ o ∧ o < cOff + sh.m * sh.cs then 0 else s.byteAt (.scratch s.cur o))
        ∧ (∀ l, (∀ o < 0x80000, l ≠ .scratch s.cur o) → t.byteAt l = s.byteAt l)
        ∧ ScratchAccess s t { s.ctx.completed with vstart := 0 })))
  ∧ ∀ (w aOff ro : Nat) (f : MFmt), s.ownPlace (s.ctx.x rsb) 0 ro → ro % 16 = 0 → ro + 32 ≤ 0x80000 →
    let r := rotationAt me ro
    let sh := shapeOf r.shape
    let alen := sh.m * sh.as_
    let q := product .mma sh w aOff f
    shapeOk r.shape true = true → 1 ≤ r.blen → r.bsrc + r.blen ≤ 0x80000 → aOff + Nat.max alen 1 ≤ windowLim w →
    r.adst + alen ≤ 0x80000 → r.bdst + r.blen ≤ 0x80000 → syncFieldOk r.async = true → syncFieldOk r.bsync = true → q.1 →
    Completes (.mmrot rsc rsa rsb) s (fun t => q.2 t ∧ kept t t.flight
      ∧ ∃ ps : List Packet, t.flight = s.flight ++ ps.map .mmrotPacket
        ∧ ∃ west north, ps = west ++ north
          ∧ (∀ e ∈ west, e.dst = westOf s.cur ∧ e.sync = if r.async / 2 ^ 31 = 1 then none else some (e.dst, r.async))
          ∧ (∀ e ∈ north, e.dst = northOf s.cur ∧ e.sync = if r.bsync / 2 ^ 31 = 1 then none else some (e.dst, r.bsync))
          ∧ ∀ ps' src dst n, (ps', src, dst, n) ∈ [(west, aOff, r.adst, alen), (north, r.bsrc, r.bdst, r.blen)] →
            (∀ e ∈ ps', e.src = s.cur ∧ e.asid = me.asid.toNat ∧ e.add = none)
            ∧ ∀ i < n, ∃ e ∈ ps', e.line = (dst + i) / 128 ∧ e.mask.extractLsb' (8 * ((dst + i) % 128)) 8 = 255
              ∧ e.data.extractLsb' (8 * ((dst + i) % 128)) 8 = t.byteAt (.scratch s.cur (src + i)))

/-- The copy instructions (R166–R168, R171–R175) outside speculative chunks. cpyset sets one shadow field of one
channel; cpyst reads the status of Table 8.11; ack completes a faulted transfer; cpywait returns with k0 = 0 for a
complete identifier and k0 = 1 when a transfer at or below it has faulted, and acquires, or waits; cpygo and cpymm start
a transfer of the snapshot of the channel's fields, with the next identifier in rd, when fewer than 16 run and the
snapshot is well formed; an assured chunk's transfer is the chunk's (R230). -/
def Obligations.CopyIssueResult : Prop := ∀ (s : State) (ch : Chan) (rd rs1 : SReg),
  let me := s.me
  let c := s.ctx
  let k := me.chan ch.toNat
  let field (i : Nat) := c.shadowField ch i
  let running := (k.transfers.filter (fun t => t.fault.isNone)).length
  let core (t : State) (me' : Core) := t.me = me' ∧ (∀ n, n ≠ s.cur → t.core n = s.core n)
    ∧ Same (fun x : State => { x with cores := [] }) s t
  (∀ f : BitVec 6, f.toNat ≤ 10 → GivesCtx (.cpyset ch f rs1) s (fun c d => d.shadowField ch f.toNat = c.x rs1
    ∧ (∀ (ch' : Chan) (i : Nat), i < 16 → ¬(ch' = ch ∧ i = f.toNat) → d.shadowField ch' i = c.shadowField ch' i)
    ∧ d = { c.completed with shadow := d.shadow }))
  ∧ GivesX (.cpyst ch rd) s rd (match k.transfers.find? (fun t => t.fault.isSome) with
      | some t => BitVec.ofNat 64 (t.tid * 2 ^ 16 + running * 2 ^ 8 + 2 ^ 7 + (t.fault.map (·.code.toNat)).getD 0)
      | none => BitVec.ofNat 64 (running * 2 ^ 8)) 4
  ∧ (s.speculative = false → Completes (.ack ch rs1) s (fun t =>
      t.me.chan ch.toNat = (if k.transfers.any (fun u => u.tid == (c.x rs1).toNat && u.fault.isSome) then
        k.close (c.x rs1).toNat else k)
      ∧ (∀ i, i ≠ ch.toNat → t.me.chan i = me.chan i) ∧ core t { (s.setCtx c.completed).me with chans := t.me.chans }))
  ∧ (s.curH = false → (c.x rs1).toNat < k.nextId → Completes (.cpywait ch rs1) s (fun t =>
      let lowest := k.transfers.find? (fun u => u.fault.isSome)
      let back (b : Bool) := core t { me with main := c.completed.setK 0 b, l1 := me.l1.filter (fun e => e.2.frozen) }
      if (c.x rs1).toNat < k.doneId then back false
      else if ∃ u ∈ lowest, u.tid ≤ (c.x rs1).toNat then back true
      else core t { me with main := { c with wait := some (.cpywait ch (c.x rs1)), issued := true } }))
  ∧ ∀ (i : Instr) (follow : Option Word) (y : Option (Nat × Nat)),
      i = .cpygo ch rd ∧ follow = none ∨ i = .cpymm ch rd rs1 ∧ follow = some (c.x rs1) ∧ (c.x rs1).toNat ∈ [0, 1, 2, 3, 4, 6] →
      s.speculative = false → assuredStray s (transferOf s ch follow) = none → running < 16 →
      0 < (field 2).toNat → (field 2).toNat < 2 ^ 32 → 0 < (field 3).toNat → (field 3).toNat < 2 ^ 16 →
      let op := (field 7).toNat
      let etype : BitVec 3 := BitVec.ofNat 3 (op / 16)
      let size := (addFmt etype).2 / 8
      op < 128 → op / 4 % 4 = 0 → op % 4 ≤ 1 → etype ≤ 5 → (op % 4 = 1 → ∀ j ∈ [0, 1, 2, 4, 5], (field j).toNat % size = 0) →
      syncPlace s.cur (field 6) = some y →
      Completes i s (fun t =>
        t.me.chan ch.toNat = { k with nextId := k.nextId + 1, transfers := k.transfers ++ [
          { tid := k.nextId, hnd := s.curH, asid := me.asid.toNat, ptbase := me.ptbase.toNat, atS := s.atS,
            src := field 0, dst := field 1, len := (field 2).toNat, rows := (field 3).toNat, srcPitch := field 4,
            dstPitch := field 5, sync := y, add := if op % 4 = 1 then some etype else none,
            follow := follow.map (fun v => (v.toNat, field 8, field 9, field 10, me.mcfg.toNat)),
            chunk := if s.assured then s.chunk.map (·.q) else none }] }
        ∧ (∀ i, i ≠ ch.toNat → t.me.chan i = me.chan i)
        ∧ core t { (s.setCtx (c.completed.setX rd (BitVec.ofNat 64 k.nextId))).me with chans := t.me.chans })

/-- The steps of a transfer (R167–R173, R250–R253, R312). COPY_RETRANSLATE enters the translations of both sides;
COPY_WRITE moves the next piece, of at most one line, from source to destination, and its bytes are put on the way to
the sync word; from host memory or a peer package it first asks for them, and moves them once they have come;
COPY_TRANSFER_COMPLETE ends a landed transfer and CPYDONE moves over complete identifiers; FOLLOW_ON_COMMAND runs its
array command; COPY_FAULT marks the transfer and poisons its sync word, none for a follow-on command (R251);
CPYWAIT_RETURN ends a wait. A contribution opens a combining buffer or joins one of its element type, and
COMBINE_TIMEOUT applies the sum at its home once. Each holds while reads of memory meet no error and no check of the core
fails (R375, R377, R379). That a transfer moves in pieces of at most one line, in rising order, each read when it is written,
is the MODEL'S CHOICE (log 58): R169 gives the bytes of a copy no order. -/
def Obligations.CopyTransferResult : Prop :=
  (∀ (s : State) (n ch tid : Nat) (tr : Transfer), s.transfer n ch tid = some tr → s.transferRuns n ch tr = true → s.sound n →
    let changes (t : State) (f : Transfer → Transfer) := t = s.mapTransfer n ch tid f
    (tr.written_ = false → tr.lacks = true → s.shooting tr.asid = false →
      ∀ p q, translateSide s n tr .load tr.piece.1 tr.srcPage = .ok p →
        translateSide s n tr tr.access tr.piece.2.1 tr.dstPage = .ok q →
      Completes (.copyRetranslate n ch tid) s (fun t => changes t (fun u => { u with srcPage := p, dstPage := q })))
    ∧ (tr.written_ = false → tr.lacks = false → tr.orig = [] → tr.add = none → tr.versioned = false → dieOf n < 12 →
      let (a, d, k) := tr.piece
      ∀ x y, tr.place s n .load a tr.srcPage = .ok x → tr.place s n .store d tr.dstPage = .ok y →
        orderOk s n ((s.core n).chan ch) tr d y k = true →
        let came := match tr.fetch with
          | some (_, some e) => some e.1
          | _ => none
        let got (i : Nat) : Byte := match x, came with
          | .host _, some e => BitVec.ofNat 8 (e.toNat / 256 ^ i)
          | .peer _ _, some e => BitVec.ofNat 8 (e.toNat / 256 ^ i)
          | _, _ => s.byteAt (x.loc n i)
        (match x with
          | .hbm pa => pa % 128 + k ≤ 128 ∧ s.lockedBy (.hbm (pa / 128)) none = false ∧ s.combines (dieOf n) (pa / 128) = false
            ∧ s.readableFor (some (dieOf n)) (pa / 128) = true
          | .own w o => w = 0 ∧ s.scratchLocked n (o / 128) = false
          | .remote c w o => w = 0 ∧ s.scratchLocked c (o / 128) = false
          | .host _ => came.isSome = true
          | .peer _ _ => came.isSome = true) →
        (match y with
          | .hbm pa => pa % 128 + k ≤ 128 ∧ s.frame pa = .plain ∧ s.combines (dieOf n) (pa / 128) = false ∧ s.settled (pa / 128) = true
          | .own w o => w = 0 ∧ s.scratchLocked n (o / 128) = false
          | .remote c w o => w = 0 ∧ s.scratchLocked c (o / 128) = false ∧ s.runsAsid c tr.asid = true
            ∧ s.nothingHeld c tr.asid (o / 128)
          | .host _ => s.hostLink = true
          | .peer _ _ => False) →
        Completes (.copyWrite n ch tid) s (fun t => (∀ i < k, t.byteAt (y.loc n i) = got i)
          ∧ (∀ l, (∀ i < k, l ≠ y.loc n i) → t.byteAt l = s.byteAt l)
          ∧ (∃ u, t.transfer n ch tid = some u ∧ u.written = tr.written + k ∧ u.tid = tid ∧ u.fault = none)
          ∧ t.flight = s.flight ++ (match tr.sync with
              | some (w, o) => [.syncWordCount ⟨n, w, none⟩ tr.asid o k]
              | none => [])
          ∧ ∀ c, Same (fun c : Core => { c.regs with chans := [] }) (s.core c) (t.core c)))
    ∧ (tr.written_ = false → tr.lacks = false → tr.fetch = none →
      let (a, d, k) := tr.piece
      ∀ y, tr.place s n tr.access d tr.dstPage = .ok y → orderOk s n ((s.core n).chan ch) tr d y k = true →
        (∀ b, tr.place s n .load a tr.srcPage = .ok (.host b) → s.hostLink = true →
          Completes (.copyWrite n ch tid) s (fun t => t =
            (s.post (.hostReadCompletion n (.copy ch tid) false)).mapTransfer n ch tid (fun u => { u with fetch := some (b, none) })))
        ∧ ∀ p off, tr.place s n .load a tr.srcPage = .ok (.peer p off) →
          Completes (.copyWrite n ch tid) s (fun t => t =
            (s.toPeer p (.load off k) (.copy n ch tid)).mapTransfer n ch tid (fun u => { u with fetch := some (s.peerNext, none) })))
    ∧ (tr.landed = true → s.holdsPiece n ch tid = false →
      (tr.follow = none → Completes (.copyTransferComplete n ch tid) s (fun t =>
        let old := (s.core n).chan ch
        let new := (t.core n).chan ch
        let done (i : Nat) : Prop := i ∈ old.completed ∨ i = tid
        new.transfers = old.transfers.filter (fun u => u.tid != tid) ∧ new.nextId = old.nextId
        ∧ old.doneId ≤ new.doneId ∧ (∀ i, old.doneId ≤ i → i < new.doneId → done i) ∧ ¬done new.doneId
        ∧ (∀ i, i ∈ new.completed ↔ done i ∧ new.doneId ≤ i)
        ∧ t = s.setCore n { s.core n with main := (s.core n).main.raiseFlags tr.fflags, chans := (t.core n).chans }
        ∧ ∀ i, i ≠ ch → (t.core n).chan i = (s.core n).chan i))
      ∧ ∀ f, tr.follow = some f → let r := runFollow n (s.core n) f
        r.stop = none → (s.core n).halted = false → Completes (.followOnCommand n ch tid) s (fun t =>
          t = (s.setCore n r.core).mapTransfer n ch tid (fun u => { u with follow := none, fflags := r.flags }))))
  ∧ (∀ (s : State) (n ch tid : Nat) (tr : Transfer) (cause : Cause), s.transfer n ch tid = some tr → tr.fault = none →
      let word := if tr.followFault then none else tr.sync
      (∀ w o, word = some (w, o) → s.scratchLocked w (o / 128) = false ∧ o % 16 = 0 ∧ s.runsAsid w tr.asid = true
        ∧ s.nothingHeld w tr.asid (o / 128) ∧ ∀ j ∈ s.flight, ∀ way a k, way.core = w → j ≠ .syncWordCount way a o k) →
      Completes (.copyFault n ch tid cause) s (fun t =>
        (∃ u, t.transfer n ch tid = some u ∧ u.fault = some cause)
        ∧ (∀ w o, word = some (w, o) → readBytes (t.core w).scratch (o + 12) 4 = (1 + 2 * ch) % 2 ^ 32)
        ∧ (∀ l, (∀ w o, word = some (w, o) → ∀ i < 4, l ≠ .scratch w (o + 12 + i)) → t.byteAt l = s.byteAt l)
        ∧ t.flight = s.flight.erase (.copyFault n ch tid cause)))
  ∧ (∀ (s : State) (n : Nat) (ch : Chan) (v : Word) (b : Bool), (s.core n).main.wait = some (.cpywait ch v) →
      ((s.core n).chan ch.toNat).waitDone v.toNat = some b →
    Completes (.cpywaitReturn n) s (fun t =>
      t = { s with cur := n, curH := false }.setCore n { s.core n with
        main := { ((s.core n).main.completed.setK 0 b) with wait := none }, l1 := (s.core n).l1.filter (fun e => e.2.frozen) }))
  ∧ (∀ (s : State) (c : Contribution),
    (s.combine.find? (fun b => b.die == c.die && b.line == c.line) = none → Completes (.combineContribution c) s (fun t =>
      ∃ b : CombBuf, t.combine = s.combine ++ [b] ∧ b.die = c.die ∧ b.line = c.line ∧ b.etype = c.etype ∧ b.mask = c.mask
        ∧ (∀ i < 128, c.mask.getLsbD i = true → b.sum.extractLsb' (8 * i) 8 = c.data.extractLsb' (8 * i) 8)
        ∧ b.parts = [(c.core, c.chan, c.tid, countBytes c.mask)]
        ∧ Same (fun x : State => { x with combine := [], flight := [] }) s t ∧ ∀ l, t.byteAt l = s.byteAt l))
    ∧ ∀ b, s.combine.find? (fun b => b.die == c.die && b.line == c.line) = some b → b.etype = c.etype → b.sent = false →
      Completes (.combineContribution c) s (fun t => ∃ d : CombBuf,
        t.combine = s.combine.map (fun x => if x.die = c.die ∧ x.line = c.line then x.join c else x)
        ∧ d = b.join c ∧ d.mask = b.mask ||| c.mask ∧ d.parts = b.parts ++ [(c.core, c.chan, c.tid, countBytes c.mask)]
        ∧ (∀ i < 128, d.sum.extractLsb' (8 * i) 8 =
            if c.mask.getLsbD i && b.mask.getLsbD i then (reduceAdd b.etype b.sum c.data (b.mask &&& c.mask)).extractLsb' (8 * i) 8
            else if c.mask.getLsbD i then c.data.extractLsb' (8 * i) 8
            else (reduceAdd b.etype b.sum c.data (b.mask &&& c.mask)).extractLsb' (8 * i) 8)
        ∧ t.flight = s.flight.erase (.combineContribution c) ∧ Same (fun x : State => { x with combine := [], flight := [] }) s t))
  ∧ ∀ (s : State) (die line : Nat) (b : CombBuf), s.combine.find? (fun b => b.die == die && b.line == line) = some b →
      s.frame (line * 128) = .plain → s.settled line = true →
    Completes (.combineTimeout die line) s (fun t =>
      t.homeData line = mergeLine (s.homeData line) (reduceAdd b.etype (s.homeData line) b.sum b.mask) b.mask
      ∧ (∀ l, (∀ i < 128, l ≠ .hbm (line * 128 + i)) → t.byteAt l = s.byteAt l)
      ∧ t.combine = (s.combine.filter (fun x => !(x.die == die && x.line == line))).map
          (fun x => if x.line = line then { x with sent := true } else x)
      ∧ ∀ c, Same (fun c : Core => { c.regs with chans := [] }) (s.core c) (t.core c))

/-- fork and forka (R179, R181, R182) away from a live END, by an agent that is no speculative chunk, with a well-formed
record in clean bytes of the own scratchpad or of its own die's memory. A ring thread opens its ring's region, of T
iterations, with the snapshot of its context; a chunk whose live-ins have all arrived (R208) opens a sequential region
and starts its chunk 0 at once. -/
def Obligations.ForkResult : Prop := ∀ (s : State) (rs1 : SReg) (w : Nat), s.curH = false → s.ctx.atLoopEnd = false →
    s.speculative = false → s.me.seq = none →
  let me := s.me
  let c := s.ctx
  let ea := c.x rs1
  ea.toNat % 128 = 0 →
  ((∃ win off, s.ownPlace ea win off ∧ off + 128 ≤ windowLim win ∧ s.cleanLine (off / 128)
      ∧ s.lockedBy (.scratch s.cur (off / 128)) none = false ∧ w = readBytes me.scratch off 128)
    ∨ ∃ pa tlb, resolveAt s s.cur me.tlb me.asid.toNat me.ptbase.toNat s.atS .load ea.toNat = .ok (.hbm pa, tlb) ∧ pa % 128 = 0
      ∧ s.homeLine (pa / 128) = dieOf s.cur ∧ (s.catEntry (pa / 128)).st = .none ∧ s.mpDie (pa / 128) = none
      ∧ Bank.find me.l1 (pa / 128) = none ∧ s.lockedBy (.hbm (pa / 128)) none = false
      ∧ s.combines (dieOf s.cur) (pa / 128) = false ∧ s.frame (pa / 128 * 128) = .plain
      ∧ (s.annexLine (dieOf s.cur) (pa / 128)).st = .i ∧ poisoned s.poison pa 128 = false ∧ w = s.currentBytes pa 128
      ∧ s.sound s.cur) →
  recordOk w = true →
  let frec := recordOf c w
  let total := totalOf frec.levels
  let kept (t : State) (me' : State → Core) := (∀ k, (t.core k).regs = ((s.setCore s.cur (me' t)).core k).regs)
    ∧ (∀ l, t.byteAt l = s.byteAt l)
    ∧ Same (fun x : State => { x with cores := [], rings := [], rts := [], slices := [], annexClock := 0, choice := [],
                                      choices := 0 }) s t
  frec.body.toNat = w % 2 ^ 64 ∧ frec.per = w / 2 ^ 112 % 2 ^ 16 ∧ frec.width = w / 2 ^ 88 % 16 ∧ frec.order = w / 2 ^ 92 % 4
    ∧ frec.levels.length = w / 2 ^ 104 % 8 ∧ ∀ i a, (i = .fork rs1 ∧ a = false ∨ i = .forka rs1 ∧ a = true) →
  (s.chunk = none → isRingCore s.cur = true → s.region = none → Completes i s (fun t =>
    let region : Region := { frec := frec, total := total, assured := a, home := s.cur, snap := c.fresh, snapLts := t.me.lts,
                             joinPc := c.pc + 4, e := t.me.lts }
    t.ring (ringOf s.cur) = { s.ring (ringOf s.cur) with region := some region }
    ∧ (∀ g, g ≠ ringOf s.cur → t.ring g = s.ring g) ∧ kept t (fun _ => { me with main := c.completed })))
  ∧ (s.chunk.isSome = true → s.awaited s.cur = [] → Completes i s (fun t => t.rings = s.rings
    ∧ t.me.seq = some { frec := frec, total := total, joinPc := c.pc + 4, snap := c.fresh, complete := decide (total = 0) }
    ∧ kept t (fun t => { me with main := if total = 0 then c.completed else startCtx c.fresh frec total 0 [] [], seq := t.me.seq })))

/-- Ends and joins of chunks (R184–R187, R206, R221) in a main context. A chunk's cend forwards the live-ins that it has
not forwarded, with the registers' values, and leaves its core with its registers kept as its final ones; fwd forwards
one live-in; in a sequential region the next chunk starts, or the region is complete and the issuer's loop stack is live
again (R91). join of a complete region gives the ring thread the last chunk's registers with s8–s13 of the fork, the
flags of every chunk, and goes on; of another it waits. nspec does nothing in an agent that is not speculative; a holder
of the Ensign with nothing to commit stops being so. -/
def Obligations.ChunkEndResult : Prop := ∀ (s : State), s.curH = false →
  let me := s.me
  let c := s.ctx
  let ring := ringOf s.cur
  let onlyRing (t : State) (g : Region → Option Region) (r : Region) := t.ring ring = { s.ring ring with region := g r }
    ∧ ∀ g, g ≠ ring → t.ring g = s.ring g
  let arrivals (r : Region) (q : Nat) (l : List (Nat × LiveIn)) : List Instr :=
    if q + 1 < r.count then l.map (fun p => Instr.liveInArrival ring (q + 1) p.1 (c.live p.2)) else []
  let fwdOf (sq : SeqRegion) (p : Nat × LiveIn) := (Bank.find sq.sent p.1).getD (c.live p.2)
  (∀ k r, s.chunk = some k → s.region = some r → me.seq = none →
    (c.atLoopEnd = false → (r.assured = true ∨ copiesOf me k.q = false) →
      let rest := r.frec.liveList.filter (fun p => p.2.passes && !k.sent.contains p.1)
      ∀ i ∈ [Instr.cend, .cCend], Completes i s (fun t =>
        onlyRing t (fun r => some (r.mapChunk k.q (fun d =>
          { d with sent := d.sent ++ rest.map (·.1), pastCend := true, final := some c.fresh, onCore := false, st := .waitingEnsign }))) r
        ∧ t.flight = s.flight ++ arrivals r k.q rest ∧ Same (fun x : State => { x with rings := [], flight := [] }) s t))
    ∧ ∀ (n : BitVec 3) l, r.frec.lives[n.toNat]? = some l → l.passes = true → k.sent.contains n.toNat = false →
      Completes (.fwd n) s (fun t => onlyRing t (fun r => some (r.mapChunk k.q (fun d => { d with sent := d.sent ++ [n.toNat] }))) r
        ∧ t.flight = s.flight ++ arrivals r k.q [(n.toNat, l)] ∧ t.ctx = c.completed
        ∧ t = { s.setCtx t.ctx with rings := t.rings, flight := t.flight }))
  ∧ (∀ sq, me.seq = some sq → sq.complete = false →
    (c.atLoopEnd = false → ∀ i ∈ [Instr.cend, .cCend], Completes i s (fun t =>
      let sq' := { sq with fflags := sq.fflags ||| c.fflags, vdirty := sq.vdirty ||| c.vdirty, sent := [] }
      if sq.q + 1 < sq.frec.chunks sq.total then ∃ fwd,
        (∀ p ∈ sq.frec.liveList, p.2.passes = true → Bank.find fwd p.1 = some (fwdOf sq p))
        ∧ t = s.setCore s.cur { me with seq := some { sq' with q := sq.q + 1 },
                                        main := startCtx sq.snap sq.frec sq.total (sq.q + 1) fwd [] }
      else t = s.setCore s.cur { me with seq := some { sq' with complete := true },
                                         main := { c.fresh with pc := sq.joinPc, loops := sq.snap.loops } }))
    ∧ ∀ (n : BitVec 3) l, sq.frec.lives[n.toNat]? = some l → l.passes = true → Bank.find sq.sent n.toNat = none →
      Completes (.fwd n) s (fun t => t = s.setCore s.cur { me with main := c.completed, seq := t.me.seq }
        ∧ t.me.seq = some { sq with sent := Bank.put sq.sent n.toNat (c.live l) }))
  ∧ (c.atLoopEnd = false →
    let gives (d own snap f : Ctx) (fl : Flags) (vd : BitVec 32) :=
      (∀ r : SReg, d.x r = if 8 ≤ r ∧ r ≤ 13 then snap.x r else f.x r)
      ∧ d = { own with s := d.s, k := f.k, v := f.v, p := f.p, prog := f.prog, done := f.done, vl := f.vl, vill := f.vill,
                       ew := f.ew, seed := f.seed, rndm := f.rndm, pixSel := f.pixSel, fflags := own.fflags ||| fl,
                       vdirty := own.vdirty ||| vd, pc := own.pc + 4, issued := false, stamped := false, wait := none }
    (∀ sq, me.seq = some sq → sq.complete = true → sq.joinPc = c.pc → c.wait = none → Completes .join s (fun t =>
      t = s.setCore s.cur { me with seq := none, main := t.me.main }
      ∧ if sq.total = 0 then t.me.main = { c.fresh with pc := c.pc + 4 }
        else
          let own : Ctx := { c with loops := sq.snap.loops, fflags := sq.snap.fflags, vdirty := sq.snap.vdirty,
                                    vstart := sq.snap.vstart, shadow := sq.snap.shadow }
          own.atLoopEnd = true ∨ gives t.me.main own sq.snap c sq.fflags sq.vdirty))
    ∧ ∀ r, me.seq = none → s.chunk = none → s.region = some r → r.home = s.cur → r.joinPc = c.pc →
      (r.complete = false → Completes .join s (fun t => onlyRing t (fun r => some { r with parked := some c.fresh }) r
        ∧ t.ctx = { c with wait := some .join } ∧ t = { s.setCtx t.ctx with rings := t.rings }))
      ∧ (r.complete = true → c.wait = none → Completes .join s (fun t => onlyRing t (fun _ => none) r
        ∧ t = { (s.setCore s.cur { me with main := t.me.main, l1 := me.l1.filter (fun e => e.2.frozen), lts := Nat.max me.lts r.e })
                with rings := t.rings }
        ∧ match r.final with
          | none => t.me.main = { c.fresh with pc := c.pc + 4 }
          | some f => gives t.me.main c r.snap f r.fflags r.vdirty)))
  ∧ (s.speculative = false → GivesX .nspec s 0 0 4 ∧ GivesX .cNspec s 0 0 2)
  ∧ ∀ k r, s.chunk = some k → s.region = some r → r.find k.q = some k → k.spec = true → r.ensignQ = k.q → copiesOf me k.q = false → k.versions = [] →
      k.reads = [] → k.owed = [] → k.commitTs = none → k.pastCend = false →
    ∀ i len, (i = .nspec ∧ len = 4 ∨ i = .cNspec ∧ len = 2) → Completes i s (fun t =>
      let e := Nat.max (r.e + 1) me.lts
      (∃ r' k', (t.ring ring).region = some r' ∧ t.chunk = some k' ∧ k'.q = k.q ∧ k'.spec = false ∧ r'.e = e)
      ∧ t.me = { me with main := { c.fresh with pc := (c.retire len).pc, loops := (c.retire len).loops }, lts := e }
      ∧ (∀ n, n ≠ s.cur → t.core n = s.core n) ∧ Same (fun x : State => { x with cores := [], rings := [], locks := [] }) s t)

/-- The steps of a ring that starts, checks and squashes chunks (R180, R204, R205, R208–R212, R217–R219, R229, R233). A
placement adds the next chunk, or all of them when there are at most WIDTH, beside those that a restore has brought back
(R322), and not while a held cause of a fork region is handled (R226); an item takes its turn on its link (R207); a
start gives the chunk the fork snapshot with its index values, length, number and live-ins; a live-in is kept, enters
the running chunk's register and ends its wait where it waits for this one (R208, Table 10.3), or squashes from a chunk
that started from another value and does not hold the Ensign (R234); a probe is answered by the youngest older chunk
with a version; a broadcast is acknowledged and squashes from a reader that it violates; a squashed chunk discards its
state, its running copies among it (R175), and is placed again. -/
def Obligations.ChunkEventResult : Prop := ∀ (s : State) (ring q : Nat) (r : Region), (s.ring ring).region = some r →
  let onlyRegion (t : State) (r' : Region) := t.ring ring = { s.ring ring with region := some r' }
    ∧ ∀ g, g ≠ ring → t.ring g = s.ring g
  let outside (t : State) := Same (fun x : State => { x with rings := [], flight := [] }) s t
  ((s.ring ring).stopFor = none → r.parked.isSome = true → (r.assured = true ∨ r.youngerStopped = false) → r.next < r.count →
    ((r.find r.next).isSome = true ∨ r.chunks.length < Nat.min 8 (2 * r.frec.width)
      ∧ ∀ c ∈ r.chunks, c.q % r.frec.width = r.next % r.frec.width → c.pastCend = true) →
    Completes (.chunkPlacement ring) s (fun t =>
      let n := if r.count ≤ r.frec.width then r.count - r.next else 1
      ∃ cs, onlyRegion t { r with next := r.next + n, chunks := cs } ∧ outside t ∧ t.flight = s.flight
        ∧ ((∀ c ∈ r.chunks, c.q < r.next) → cs = r.chunks ++ (List.range n).map (fun i => { q := r.next + i, spec := !r.assured }))
        ∧ ∀ j, cs.find? (fun c => c.q == j) = match r.find j with
          | some c => some c
          | none => if r.next ≤ j ∧ j < r.next + n then some { q := j, spec := !r.assured } else none))
  ∧ (∀ c, r.find q = some c → s.mayStart ring r c = true → r.frec.legal →
    Completes (.chunkStart ring q) s (fun t =>
      let n := r.coreOf ring q
      let d := (t.core n).main
      let ix := r.frec.index (chunkFirst r.frec.per q)
      onlyRegion t (r.mapChunk q (fun c => { c with st := .running, onCore := true, starts := r.predict q }))
      ∧ t.core n = { s.core n with main := d, l1 := (s.core n).l1.filter (fun e => e.2.frozen), lts := Nat.max (s.core n).lts r.snapLts }
      ∧ (∀ k, k ≠ n → t.core k = s.core k) ∧ Same (fun x : State => { x with cores := [], rings := [] }) s t
      ∧ (∀ l < 4, d.x (BitVec.ofNat 6 (8 + l)) = BitVec.ofInt 64 (ix.getD l 0))
      ∧ d.x 12 = BitVec.ofNat 64 (chunkLen r.total r.frec.per q) ∧ d.x 13 = BitVec.ofNat 64 q
      ∧ (∀ p ∈ r.frec.liveList,
          let x := liveStart r.snap ix q p.2 (Bank.find (Bank.get [] r.forwarded q) p.1) (Bank.get 0 (r.predict q) p.1)
          if p.2.vec then d.vr (BitVec.ofNat 5 p.2.reg) = x else d.x (BitVec.ofNat 6 p.2.reg) = x.setWidth 64)
      ∧ (∀ x : SReg, ¬(8 ≤ x ∧ x ≤ 13) → (∀ l ∈ r.frec.lives, l.vec = true ∨ l.reg ≠ x.toNat) → d.x x = r.snap.x x)
      ∧ (∀ x : VReg, (∀ l ∈ r.frec.lives, l.vec = false ∨ l.reg ≠ x.toNat) → d.vr x = 0)
      ∧ d = { pc := r.frec.body, s := d.s, v := d.v, k := r.snap.k, rndm := r.snap.rndm, pixSel := r.snap.pixSel,
              seed := chunkSeed r.snap.seed q, vdirty := r.frec.dirty }))
  ∧ (∀ n x, let i : Instr := .liveInArrival ring q n x
      let r' := { r with forwarded := Bank.put r.forwarded q (Bank.put (Bank.get [] r.forwarded q) n x) }
      let u := { s.take i with rings := Bank.put s.rings ring { s.ring ring with region := some r' } }
      s.mayDeliver ring i = true →
      ((∀ c, r.find q = some c → c.st = .placed ∨ c.st = .squashed) → exec i s = .next u)
      ∧ ∀ c l, r.find q = some c → c.st ≠ .placed → c.st ≠ .squashed → r.frec.lives[n]? = some l →
        ((l.mode ≠ .stride ∨ r.assured = true) → c.onCore = true → exec i s = .next (
          (u.mapChunk ring q (fun c => if c.st = .waitingLiveIn ∧ n ∈ c.awaits then { c with st := .running, awaits := [] } else c)).setCore (r.coreOf ring q)
            { s.core (r.coreOf ring q) with main := (s.core (r.coreOf ring q)).main.setLive l x }))
        ∧ (l.mode = .stride → r.assured = false →
          exec i s = .next (if Bank.get 0 c.starts n = x.setWidth 64 ∨ r.ensignQ = q then u else u.squashFrom ring q)))
  ∧ (∀ line, let i : Instr := .versionProbe ring q line
      let older := (r.chunks.filter (fun c => decide (c.q < q))).reverse
      s.mayDeliver ring i = true → Completes i s (fun t => t.rings = s.rings ∧ outside t ∧ ∃ a, t.flight = s.flight.erase i ++ [Instr.probeAnswer ring q line a]
        ∧ ((∀ c ∈ older, ∀ v ∈ c.versions, v.line ≠ line) → a = .none)
        ∧ ∀ young c old v, older = young ++ c :: old → (∀ y ∈ young, ∀ v ∈ y.versions, v.line ≠ line) →
          c.versions.find? (fun v => decide (v.line = line)) = some v → a = .version c.q v.count v.data v.poison))
  ∧ (∀ line a, let i : Instr := .probeAnswer ring q line a
      s.mayDeliver ring i = true → Completes i s (fun t => onlyRegion t (r.mapChunk q (fun c => if c.probing = some line then
        { c with probe := c.probe ++ [(line, a)], probing := none } else c)) ∧ t.flight = s.flight.erase i ∧ outside t))
  ∧ (∀ storer line count c, r.find q = some c → let i : Instr := .storeBroadcast ring storer q line count
      let hit : Prop := c.inRange line = true ∨ ∃ x ∈ c.reads, x.line = line ∧ ∀ o n, x.src = .chunk o n →
        o < storer ∨ o = storer ∧ n < count
      s.mayDeliver ring i = true → (c.st ≠ .squashed ∧ c.spec = true ∧ hit →
        ∃ u, exec i s = .next (u.squashFrom ring q) ∧ u.flight = s.flight.erase i ++ [Instr.broadcastAcknowledgement ring q storer]
          ∧ u.rings = s.rings ∧ (∀ k, (u.core k).regs = (s.core k).regs)
          ∧ Same (fun x : State => { x with cores := [], flight := [] }) s u)
      ∧ (¬(c.st ≠ .squashed ∧ c.spec = true ∧ hit) → Completes i s (fun t =>
          onlyRegion t (r.mapChunk q (fun c =>
            { c with probe := c.probe.filter (fun p => decide (p.1 ≠ line))
                     probing := if c.probing = some line then none else c.probing }))
          ∧ .broadcastAcknowledgement ring q storer ∈ t.flight ∧ (∀ k, (t.core k).regs = (s.core k).regs)
          ∧ ∀ l, t.byteAt l = s.byteAt l)))
  ∧ (∀ acker, let i : Instr := .broadcastAcknowledgement ring acker q
      s.mayDeliver ring i = true → Completes i s (fun t => onlyRegion t (r.mapChunk q (fun c => { c with owed := c.owed.erase acker }))
        ∧ t.flight = s.flight.erase i ∧ outside t))
  ∧ (∀ oldest c, r.find q = some c → c.st ≠ .squashed → s.mayDeliver ring (.squashNotice ring oldest q) = true →
    Completes (.squashNotice ring oldest q) s (fun t =>
      onlyRegion t { r.mapChunk q (fun c => { q := c.q, spec := c.spec, st := .squashed, stepFirst := c.stepFirst })
        with forwarded := Bank.erase r.forwarded (q + 1) }
      ∧ (∀ ch, ∀ u ∈ ((t.core (r.coreOf ring q)).chan ch).transfers, u.chunk = some q → u.fault.isSome = true)
      ∧ (∀ j ∈ t.flight, voidWith ring q j = false) ∧ (∀ k, k ≠ r.coreOf ring q → t.core k = s.core k)
      ∧ (∀ l, t.byteAt l = s.byteAt l)))
  ∧ ((∀ j ∈ s.flight, noticeOf ring j = false) → (∃ c ∈ r.chunks, c.st = .squashed) →
    Completes (.squashDiscarded ring) s (fun t =>
      let n := (r.chunks.filter (fun c => decide (c.st = .squashed))).length
      t.ring ring = { s.ring ring with
        sqcnt := BitVec.ofNat 32 (Nat.min 0xFFFFFFFF ((s.ring ring).sqcnt.toNat + n))
        region := some { r with chunks := r.chunks.map (fun c => if c.st = .squashed then { c with st := .placed } else c) } }
      ∧ (∀ g, g ≠ ring → t.ring g = s.ring g) ∧ t.flight = s.flight ∧ outside t))

/-- Commits and the Ensign (R184, R206, R221, R230). A chunk past its cend that holds the Ensign and has only scratchpad
versions, none locked or pinned, with no read to validate and no broadcast outstanding, writes them at a timestamp above
every lease, above E and not below its core's logical time, which it becomes, and passes the Ensign with that time; a
chunk of an assured region passes it once its accesses are performed. Its flags are folded and the last chunk's
registers are kept. The Ensign arrives at the next chunk, and, at the end of the region, at the ring thread, which
leaves its join. -/
def Obligations.CommitResult : Prop := ∀ (s : State) (ring q : Nat) (r : Region), (s.ring ring).region = some r →
  let ended (c : Chunk) (e : Nat) : Region :=
    { r with chunks := r.chunks.filter (fun d => d.q != q), oldest := q + 1, prevStarts := c.starts, fflags := r.fflags ||| (c.final.getD {}).fflags
             vdirty := r.vdirty ||| (c.final.getD {}).vdirty, final := if q + 1 = r.count then c.final else r.final
             forwarded := Bank.erase r.forwarded q, e := e }
  let passes (t : State) (c : Chunk) (e : Nat) := t.ring ring = { s.ring ring with region := some (ended c r.e) }
    ∧ (∀ g, g ≠ ring → t.ring g = s.ring g) ∧ t.flight = s.flight ++ [Instr.ensignArrival ring (q + 1) e]
  (∀ c, r.find q = some c → c.pastCend = true → r.ensignQ = q → c.st ≠ .squashed →
    let n := r.coreOf ring q
    (r.assured = true → s.assuredDone ring r c = true → Completes (.commitComplete ring q) s (fun t =>
      passes t c (Nat.max r.e (s.core n).lts) ∧ Same (fun x : State => { x with rings := [], flight := [] }) s t))
    ∧ (r.assured = false → c.commitTs = none → c.owed = [] → c.reads = [] → (c.versions.map (·.line)).Nodup →
      (∀ v ∈ c.versions, (∃ l, v.line = .scratch n l) ∧ s.lockedBy v.line (some ring) = false ∧ ∀ p ∈ s.pins, p.1 ≠ v.line) →
      Completes (.commitComplete ring q) s (fun t => ∃ ts, passes t c ts ∧ r.e < ts ∧ (s.core n).lts ≤ ts ∧ (t.core n).lts = ts
        ∧ (∀ v ∈ c.versions, ∀ l, v.line = .scratch n l →
            (t.core n).scratchLine l = mergeLine ((s.core n).scratchLine l) v.data v.mask
            ∧ Bank.get 0 (s.core n).scratchRts l < ts ∧ Bank.get 0 (t.core n).scratchWts l = ts)
        ∧ (∀ l, (∀ v ∈ c.versions, ∀ k, v.line = .scratch n k → ∀ b < 128, l ≠ .scratch n (k * 128 + b)) → t.byteAt l = s.byteAt l)
        ∧ (∀ k, (t.core k).regs = (s.core k).regs) ∧ (∀ e ∈ t.locks, e.2 ≠ ring)
        ∧ Same (fun x : State => { x with cores := [], rings := [], flight := [], locks := [] }) s t)))
  ∧ (∀ e, s.mayDeliver ring (.ensignArrival ring q e) = true → Completes (.ensignArrival ring q e) s (fun t => t.ring ring = { s.ring ring with region := some { r with ensignQ := q, e := e } }
      ∧ (∀ g, g ≠ ring → t.ring g = s.ring g) ∧ t.flight = s.flight.erase (.ensignArrival ring q e)
      ∧ Same (fun x : State => { x with rings := [], flight := [] }) s t))
  ∧ ∀ own, r.parked = some own → r.complete = true → (s.core r.home).awake = true → own.atLoopEnd = false →
    Completes (.joinComplete ring) s (fun t => t.ring ring = { s.ring ring with region := none }
      ∧ (∀ g, g ≠ ring → t.ring g = s.ring g) ∧ (∀ k, k ≠ r.home → t.core k = s.core k)
      ∧ Same (fun x : State => { x with cores := [], rings := [] }) s t
      ∧ let d := (t.core r.home).main
        t.core r.home = { s.core r.home with
          main := d, l1 := (s.core r.home).l1.filter (fun e => e.2.frozen), lts := Nat.max (s.core r.home).lts r.e }
        ∧ match r.final with
          | none => d = { own with pc := own.pc + 4, issued := false, stamped := false, wait := none }
          | some f => (∀ x : SReg, d.x x = if 8 ≤ x ∧ x ≤ 13 then r.snap.x x else f.x x)
            ∧ d = { own with s := d.s, k := f.k, v := f.v, p := f.p, prog := f.prog, done := f.done, vl := f.vl, vill := f.vill,
                             ew := f.ew, seed := f.seed, rndm := f.rndm, pixSel := f.pixSel, fflags := own.fflags ||| r.fflags,
                             vdirty := own.vdirty ||| r.vdirty, pc := own.pc + 4, issued := false, stamped := false, wait := none })

/-- System registers (R19, R20, R199, R202, Tables 1.3, 1.4, 18.1, 22.1). sysrd delivers each register's value, and
acquires for CPYDONE and THAWTKT (R201); syswr changes exactly the writable bits of its register, and VL with VTYPE;
numbers with bit 11 set need S; an undefined number, a read-only register and a rounding mode that does not exist raise
illegal-instruction. By the model's choice, EW takes the written value where it is 6 or 7 (log 43), and CHUNK reads as log 76
says. -/
def Obligations.SystemRegisterResult : Prop := ∀ (s : State) (num : BitVec 12) (reg : SReg),
  let me := s.me
  let c := s.ctx
  let v := c.x reg
  let allowed := num.getLsbD 11 = true → s.atS = true
  let n := c.pixSel.toNat
  let absent := s.curH && decide (3 < n)
  let core (f : Core → Core) : Prop := s.speculative = false → Completes (.syswr num reg) s (fun t =>
    t = s.setCore s.cur (f (s.setCtx c.completed).me))
  let writes (f : Ctx → Ctx) : Prop := GivesCtx (.syswr num reg) s (fun c d => d = f c.completed)
  (∀ p ∈ ([(0x000, c.vl.setWidth 64), (0x001, BitVec.ofNat 64 (bit c.vill * 2 ^ 63 + c.ew.toNat)), (0x002, c.vstart.setWidth 64),
      (0x003, if s.curH then 0 else c.vdirty.setWidth 64),
      (0x004, BitVec.ofNat 64 (n * 2 ^ 32 + bit (absent || c.done.getLsbD n) * 2 ^ 16
        + if absent then 0 else Bank.get 0 c.prog n % 2 ^ 11)),
      (0x010, c.rndm.setWidth 64), (0x011, c.fflags.setWidth 64), (0x012, c.seed.setWidth 64),
      (0x018, BitVec.ofNat 64 (me.corr.toNat * 2 ^ 32 + bit me.chkLock * 2 + bit me.chk)), (0x020, s.chunkWord s.cur),
      (0x021, (s.region.map Region.forkst).getD 0), (0x022, (s.ring (ringOf s.cur)).sqcnt.setWidth 64),
      (0x028, me.lease.setWidth 64), (0x03F, BitVec.ofNat 64 Config.caps),
      (0x800, BitVec.ofNat 64 (bit me.causeHeld * 2 ^ 15 + bit me.causeElem * 2 ^ 14 + me.causeCode.toNat)), (0x801, me.epc),
      (0x802, me.tval), (0x803, me.tvec), (0x804, BitVec.ofNat 64 (bit me.stopReq * 2 ^ 8 + bit me.pprv * 2 + bit me.prv)),
      (0x810, me.asid.setWidth 64), (0x811, me.ptbase.setWidth 64 <<< 12)] : List (BitVec 12 × Word)),
    num = p.1 → allowed → GivesX (.sysrd num reg) s reg p.2 4)
  ∧ (∀ p ∈ ([(0x030, (me.chan 0).doneId), (0x031, (me.chan 1).doneId), (0x032, (me.chan 2).doneId), (0x033, (me.chan 3).doneId),
      (0x038, (Bank.get {} s.tickets me.asid.toNat).done)] : List (BitVec 12 × Nat)),
    num = p.1 → Completes (.sysrd num reg) s (fun t => t.ctx.x reg = (if reg = 0 then 0 else BitVec.ofNat 64 p.2)
      ∧ (∀ r, r ≠ reg → t.ctx.x r = c.x r)
      ∧ t = (s.setCtx { c.completed with s := t.ctx.s }).mapCore s.cur (fun k => { k with l1 := k.l1.filter (fun e => e.2.frozen) })))
  ∧ (num = 0x001 → writes (fun d => if (v.setWidth 3 : BitVec 3).toNat ≤ 5 then
        { d with ew := v.setWidth 3, vill := false, vl := BitVec.ofNat 11 (granted c.vl.toNat (widthOf (v.setWidth 3))) }
      else { d with ew := v.setWidth 3, vill := true, vl := 0 }))
  ∧ (num = 0x002 → writes (fun d => { d with vstart := v.setWidth 11 }))
  ∧ (num = 0x003 → s.curH = false → writes (fun d => { d with vdirty := v.setWidth 32 }))
  ∧ (num = 0x004 → writes (fun d => { d with pixSel := (v >>> 32).setWidth 5 }))
  ∧ (num = 0x010 → v.toNat % 8 < 6 → writes (fun d => { d with rndm := v.setWidth 3 }))
  ∧ (num = 0x011 → writes (fun d => { d with fflags := v.setWidth 6 }))
  ∧ (num = 0x012 → writes (fun d => { d with seed := if (v.setWidth 32 : BitVec 32) = 0 then 1 else v.setWidth 32 }))
  ∧ (num = 0x018 → core (fun k => if me.chkLock then k else { k with chk := v.getLsbD 0 }))
  ∧ (num = 0x022 → s.speculative = false → isRingCore s.cur = true → Completes (.syswr num reg) s (fun t =>
      t.ring (ringOf s.cur) = { s.ring (ringOf s.cur) with sqcnt := v.setWidth 32 } ∧ t = { s.setCtx c.completed with rings := t.rings }
      ∧ ∀ g, g ≠ ringOf s.cur → t.ring g = s.ring g))
  ∧ (num = 0x028 → core (fun k => { k with lease := if v.toNat % 65536 = 0 then 1 else v.setWidth 16 }))
  ∧ (s.atS = true → (num = 0x800 → core (fun k => { k with causeHeld := v.getLsbD 15, causeElem := v.getLsbD 14, causeCode := v.setWidth 7 }))
    ∧ (num = 0x801 → core (fun k => { k with epc := v &&& ~~~1 })) ∧ (num = 0x802 → core (fun k => { k with tval := v }))
    ∧ (num = 0x803 → core (fun k => { k with tvec := v &&& ~~~3 })) ∧ (num = 0x804 → core (fun k => { k with pprv := v.getLsbD 1 }))
    ∧ (num = 0x810 → core (fun k => { k with asid := v.setWidth 16 }))
    ∧ (num = 0x811 → core (fun k => { k with ptbase := (v >>> 12).setWidth 40 })))
  ∧ exec (.vtypeWrite reg) s = exec (.syswr 0x001 reg) s ∧ exec (.seedWrite reg) s = exec (.syswr 0x012 reg) s
  ∧ exec (.leaseWrite reg) s = exec (.syswr 0x028 reg) s ∧ exec (.rndmWrite reg) s = exec (.syswr 0x010 reg) s
  ∧ exec (.chkmodeWrite reg) s = exec (.syswr 0x018 reg) s
  ∧ (num.getLsbD 11 = true → s.atS = false → ∀ i ∈ [Instr.sysrd num reg, .syswr num reg],
      exec i s = .next (s.raise .privilege c.pc false))
  ∧ (num ∉ ([0x000, 0x001, 0x002, 0x003, 0x004, 0x010, 0x011, 0x012, 0x018, 0x020, 0x021, 0x022, 0x028, 0x030, 0x031, 0x032, 0x033,
        0x038, 0x03F, 0x800, 0x801, 0x802, 0x803, 0x804, 0x810, 0x811] : List (BitVec 12)) → allowed →
      ∀ i ∈ [Instr.sysrd num reg, .syswr num reg], exec i s = .next (s.raise .illegalInstruction c.pc false))
  ∧ (num ∈ ([0x000, 0x020, 0x021, 0x030, 0x031, 0x032, 0x033, 0x038, 0x03F] : List (BitVec 12)) ∨ num = 0x010 ∧ 6 ≤ v.toNat % 8 →
      exec (.syswr num reg) s = .next (s.raise .illegalInstruction c.pc false))

/-- Traps of the main context outside chunks (R199, R200, R361–R364). trap, brk, c.brk and a reserved encoding enter the
trap: CAUSE, EPC and TVAL are written, PPRV takes PRV, PRV becomes 1 and the program counter TVEC; from U, s56–s63 are
exchanged with the trap bank and the loop stack is set aside. eret reverses it. halt takes a recorded event or waits for
one; an event ends the wait or is recorded at S. At a Curator core, by the model's choice (log 75), the undrained
records of its die's dead-message areas, if no two areas overlap, then go to its log, which keeps 1,024, and CONS of
each area takes PROD (R239, R369); and, with the package up, the Curator takes over the peer window and the peer table
that it is set up with (log 77). LTS_TICK raises a running core's logical time (R271). An S-only instruction raises
privilege elsewhere. -/
def Obligations.TrapResult : Prop :=
  let exchanged (a b : Core) := (∀ r : SReg, b.main.x r = if 56 ≤ r then Bank.get 0 a.trapBank (r.toNat - 56) else a.main.x r)
    ∧ ∀ i < 8, Bank.get 0 b.trapBank i = a.main.x (BitVec.ofNat 6 (56 + i))
  (∀ (s : State) (i : Instr) (code : BitVec 7) (tval : Word), s.curH = false → s.chunk = none →
      (∃ imm, i = .trap imm ∧ code = 4 ∧ tval = imm.setWidth 64 ∧ s.ctx.atLoopEnd = false)
      ∨ (∃ imm, i = .brk imm ∧ code = 5 ∧ tval = imm.setWidth 64 ∧ s.ctx.atLoopEnd = false)
      ∨ (i = .cBrk ∧ code = 5 ∧ tval = 0 ∧ s.ctx.atLoopEnd = false)
      ∨ (∃ n, i = .reservedEncoding n ∧ code = 0 ∧ tval = s.ctx.pc) →
    Completes i s (fun t =>
      let a := s.me
      let b := t.me
      b = { a with causeHeld := false, causeElem := false, causeCode := code, epc := a.main.pc, tval := tval, pprv := a.prv, prv := true,
                   trapBank := b.trapBank, trapLoops := if a.prv then a.trapLoops else a.main.loops,
                   main := { a.main with s := b.main.s, loops := if a.prv then a.main.loops else [], pc := a.tvec, wait := none,
                                         issued := false, stamped := false } }
      ∧ (a.prv = true → b.trapBank = a.trapBank ∧ b.main.s = a.main.s) ∧ (a.prv = false → exchanged a b)
      ∧ (∀ k, k ≠ s.cur → t.core k = s.core k) ∧ Same (fun x : State => { x with cores := [] }) s t))
  ∧ (∀ s : State, s.atS = true → s.ctx.atLoopEnd = false → s.chunk = none → Completes .eret s (fun t =>
      let a := s.me
      let b := t.me
      b = { a with prv := a.pprv, pprv := false, trapBank := b.trapBank, trapLoops := if a.pprv then a.trapLoops else [],
                   main := { a.main with s := b.main.s, loops := if a.pprv then a.main.loops else a.trapLoops, pc := a.epc,
                                         issued := false, stamped := false } }
      ∧ (a.pprv = true → b.trapBank = a.trapBank ∧ b.main.s = a.main.s) ∧ (a.pprv = false → exchanged a b)
      ∧ (∀ k, k ≠ s.cur → t.core k = s.core k) ∧ Same (fun x : State => { x with cores := [] }) s t))
  ∧ (∀ s : State, s.atS = true → s.ctx.atLoopEnd = false → s.speculative = false → GivesCtx .halt s (fun c d =>
      d = if c.event then { c.completed with event := false } else { c with wait := some .halt, issued := true }))
  ∧ (∀ (s : State) (n : Nat), let c := s.core n
      let v := s.take (.haltEvent n)
      let u := if isRingCore n then v else v.curatorEvent n
      Completes (.haltEvent n) s (fun t =>
        (c.main.wait = some .halt → t.core n = { c with main := { c.main.completed with wait := none } })
        ∧ (c.main.wait ≠ some .halt → t.core n = if c.prv then { c with main := { c.main with event := true } } else c)
        ∧ (∀ k, k ≠ n → t.core k = s.core k)
        ∧ Same (fun x : State => { x with cores := [], cur := 0, curH := false }) u t)
      ∧ Completes (.ltsTick n) s (fun t => t.core n = (if c.stopped || c.halted then c else { c with lts := c.lts + 1 })
        ∧ (∀ k, k ≠ n → t.core k = s.core k) ∧ Same (fun x : State => { x with cores := [], flight := [] }) s t))
  ∧ (∀ (s : State) (cu : Nat), let t := s.drainDead cu
      let areas := (s.cores.filter (fun e => dieOf e.1 == dieOf cu)).flatMap (fun e => e.2.dead.map (fun a => (e.1, a)))
      areas.Pairwise (fun a b => a.2.2 + 0x8000 ≤ b.2.2 ∨ b.2.2 + 0x8000 ≤ a.2.2) →
      (∀ x ∈ areas, let a := x.2.2
        let undrained := (s.deadProd a + 2 ^ 32 - s.deadCons a) % 2 ^ 32
        t.deadProd a = s.deadProd a ∧ t.deadCons a = s.deadProd a ∧ t.deadLost a = s.deadLost a
        ∧ ∀ i, i < undrained → i < 56 → ∃ l,
          .mk x.1 x.2.1 (deadRecordOf (s.homeBytes (a + 64 + 576 * ((s.deadCons a + i) % 2 ^ 32 % 56)) 576)) ∈ l
          ∧ t.logDead = (s.logDead ++ l).drop ((s.logDead ++ l).length - 1024))
      ∧ (∀ b, (∀ x ∈ areas, b < x.2.2 + 4 ∨ x.2.2 + 8 ≤ b) → t.homeBytes b 1 = s.homeBytes b 1)
      ∧ Same (fun x : State => { x with hbm := [], wts := [], rts := [], poison := [], annex := [], cat := [], combine := [],
                                        logDead := [] }) s t)
  ∧ (∀ (s : State) (cu : Nat), let u := s.drainDead cu
      (s.up = false → s.curatorEvent cu = u)
      ∧ (s.up = true → let t := s.curatorEvent cu
          t.exBase = s.exAssigned.1 * 0x20000000 ∧ t.exLen = s.exAssigned.2 * 0x20000000 ∧ t.peers = s.peersAssigned
          ∧ (∀ b, b < s.capsFrame ∨ s.capsFrame + 96 ≤ b → t.homeBytes b 1 = u.homeBytes b 1)
          ∧ Same (fun x : State => { x with hbm := [], wts := [], rts := [], poison := [], annex := [], cat := [], combine := [],
                                            exBase := 0, exLen := 0, peers := [] }) u t))
  ∧ ∀ (s : State) (rs : SReg), s.atS = false →
    ∀ i ∈ [Instr.eret, .halt, .tlbinvPage rs, .tlbinvAsid rs, .tlbinvAll rs, .cinv rs, .stop rs, .save rs, .restore rs, .abort rs],
      exec i s = .next (s.raise .privilege s.ctx.pc false)

/-- The Vitrine (R193–R197, R337–R343) outside speculative chunks. frz of a range of device frames takes a free entry,
marks the frames SEALING and waits for its seal; of a range that is active it raises the depth and gives the handle.
SEAL_COMPLETE makes the frames FROZEN and gives the handle to the waiting frz, whose core acquires (R275). thaw lowers
the depth, or, at depth 0, gives a new ticket and starts the collection of the frames that no other entry covers;
TICKET_COMPLETE drops their replicas, those on their way among them, and every L1 copy of their lines, and frees the entry;
thawq returns, or waits until, the completed tickets reach its operand. -/
def Obligations.FreezeResult : Prop :=
  let outside (s t : State) := (∀ k, (t.core k).regs = ((s.setCtx { s.ctx.completed with s := t.ctx.s }).core k).regs)
    ∧ ∀ l, t.byteAt l = s.byteAt l
  let gives (s t : State) (rd : SReg) (v : Word) := t.ctx.x rd = (if rd = 0 then 0 else v) ∧ ∀ r, r ≠ rd → t.ctx.x r = s.ctx.x r
  (∀ (s : State) (rd rs1 rs2 : SReg) (fs : List Nat) (u : State), s.curH = false → s.speculative = false →
      s.mirrorsDone (dieOf s.cur) = true → s.sound s.cur →
    let base := (s.ctx.x rs1).toNat
    let len := (s.ctx.x rs2).toNat
    let asid := s.me.asid.toNat
    base % 65536 = 0 → len % 65536 = 0 → len ≠ 0 → base + len ≤ 2 ^ 64 →
    framesFrom base (len / 65536) s = .ok (fs.map some, u) →
    let mine (e : VitEntry) := e.live = true ∧ e.asid = asid ∧ e.base = base ∧ e.len = len
    (∀ i e, s.vit.find? (fun e => e.2.live && e.2.asid == asid && e.2.base == base && e.2.len == len) = some (i, e) →
      e.st = .active → e.depth < 15 → Completes (.frz rd rs1 rs2) s (fun t => gives s t rd (handleOf i e)
        ∧ t.vitEntry i = { e with depth := e.depth + 1 } ∧ (∀ j, j ≠ i → t.vitEntry j = s.vitEntry j)
        ∧ outside s t ∧ Same (fun x : State => { x with cores := [], vit := [] }) s t))
    ∧ ((∀ e ∈ s.vit, ¬mine e.2) → (∀ f ∈ fs, s.frame (f * 65536) ≠ .collecting) → (∃ i < 512, (s.vitEntry i).st = .free) →
      Completes (.frz rd rs1 rs2) s (fun t => ∃ i < 512, (s.vitEntry i).st = .free
        ∧ t.vitEntry i = { base := base, len := len, asid := asid, gen := (s.vitEntry i).gen,
                           ticket := (s.vitEntry i).ticket, st := .sealing, frames := fs.eraseDups }
        ∧ (∀ j, j ≠ i → t.vitEntry j = s.vitEntry j)
        ∧ (∀ f, Bank.get .plain t.frames f = if f ∈ fs ∧ s.covered f = false then .sealing else Bank.get .plain s.frames f)
        ∧ .sealComplete i ∈ t.flight ∧ t.ctx = { s.ctx with wait := some (.frz i rd), issued := true }
        ∧ ∀ l, t.byteAt l = s.byteAt l)))
  ∧ (∀ (s : State) (i : Nat), let e := s.vitEntry i
      e.st = .sealing → s.sealed e.frames = true →
      (∀ f ∈ e.frames, s.frame (f * 65536) = .sealing ∨ s.frame (f * 65536) = .frozen) → (s.cores.map (·.1)).Pairwise (· < ·) →
    Completes (.sealComplete i) s (fun t => t.vitEntry i = { e with st := .active } ∧ (∀ j, j ≠ i → t.vitEntry j = s.vitEntry j)
      ∧ (∀ f, Bank.get .plain t.frames f = if f ∈ e.frames then .frozen else Bank.get .plain s.frames f)
      ∧ (∀ k, let c := s.core k
          t.core k = match c.main.wait with
            | some (.frz j rd) => if j = i then
                { c with main := { (c.main.setX rd (handleOf i e)).completed with wait := none }, l1 := c.l1.filter (fun e => e.2.frozen) }
              else c
            | _ => c)
      ∧ t.flight = s.flight.erase (.sealComplete i)
      ∧ Same (fun x : State => { x with cores := [], vit := [], frames := [], flight := [] }) s t ∧ ∀ l, t.byteAt l = s.byteAt l))
  ∧ (∀ (s : State) (rd rs1 : SReg) (i : Nat) (e : VitEntry), s.speculative = false → s.tagErrors = [] →
      let asid := s.me.asid.toNat
      s.handleEntry asid (s.ctx.x rs1) = some (i, e) → e.st = .active → (s.vit.map (·.1)).Pairwise (· < ·) →
    (0 < e.depth → Completes (.thaw rd rs1) s (fun t => gives s t rd 0 ∧ t.vitEntry i = { e with depth := e.depth - 1 }
      ∧ (∀ j, j ≠ i → t.vitEntry j = s.vitEntry j) ∧ outside s t ∧ Same (fun x : State => { x with cores := [], vit := [] }) s t))
    ∧ (e.depth = 0 → Completes (.thaw rd rs1) s (fun t =>
      let tk := Bank.get {} s.tickets asid
      let kept (f : Nat) := ∃ x ∈ s.vit, x.1 ≠ i ∧ f ∈ x.2.frames ∧ x.2.st = .active
      gives s t rd (BitVec.ofNat 64 (tk.issued + 1))
      ∧ t.vitEntry i = { e with st := .collecting, gen := e.gen + 1, ticket := tk.issued + 1 }
      ∧ (∀ j, j ≠ i → t.vitEntry j = s.vitEntry j)
      ∧ (∀ f, (f ∈ e.frames → ¬kept f → Bank.get .plain t.frames f = .collecting)
          ∧ (f ∉ e.frames ∨ kept f → Bank.get .plain t.frames f = Bank.get .plain s.frames f))
      ∧ (Bank.get {} t.tickets asid).issued = tk.issued + 1 ∧ (Bank.get {} t.tickets asid).done = tk.done
      ∧ (∀ a, a ≠ asid → Bank.get {} t.tickets a = Bank.get {} s.tickets a) ∧ .ticketComplete asid ∈ t.flight ∧ outside s t)))
  ∧ (∀ (s : State) (asid t0 i : Nat) (frames : List Nat) (rest : List (Nat × Nat × List Nat)), let tk := Bank.get {} s.tickets asid
      tk.running = (t0, i, frames) :: rest → (s.annex.map (·.1)).Pairwise (· < ·) →
    Completes (.ticketComplete asid) s (fun t => Bank.get {} t.tickets asid = { tk with done := t0, running := rest }
      ∧ (∀ a, a ≠ asid → Bank.get {} t.tickets a = Bank.get {} s.tickets a)
      ∧ t.vitEntry i = { s.vitEntry i with st := .free, frames := [] } ∧ (∀ j, j ≠ i → t.vitEntry j = s.vitEntry j)
      ∧ (∀ f, Bank.get .plain t.frames f = if f ∈ frames then .plain else Bank.get .plain s.frames f)
      ∧ (∀ k, ∀ x ∈ (t.core k).l1, frameOf x.1 ∉ frames)
      ∧ (∀ d line, d < 12 → line < 2 ^ 34 → frameOf line ∈ frames → (t.annexLine d line).st ≠ .f)
      ∧ (∀ k, (t.core k).regs = (s.core k).regs)
      ∧ t.flight = (s.flight.erase (.ticketComplete asid)).filter (fun j => !bringsReplica frames j)
      ∧ ∀ l, t.byteAt l = s.byteAt l))
  ∧ (∀ (s : State) (rd rs1 : SReg), s.curH = false → s.speculative = false →
      let tk := Bank.get {} s.tickets s.me.asid.toNat
      let n := (s.ctx.x rs1).toNat
      n ≤ tk.issued → Completes (.thawq rd rs1) s (fun t =>
        (n ≤ tk.done → gives s t rd (BitVec.ofNat 64 tk.done) ∧ outside s t ∧ t.me.l1 = s.me.l1.filter (fun e => e.2.frozen))
        ∧ (tk.done < n → t = s.setCtx { s.ctx with wait := some (.thawq rd (s.ctx.x rs1)), issued := true })
        ∧ Same (fun x : State => { x with cores := [] }) s t))
  ∧ ∀ (s : State) (n : Nat) (rd : SReg) (v : Word), let c := s.core n
      let d := (Bank.get {} s.tickets c.asid.toNat).done
      c.main.wait = some (.thawq rd v) → v.toNat ≤ d →
    Completes (.thawqReturn n) s (fun t => t = { s with cur := n, curH := false }.setCore n
      { c with main := { (c.main.setX rd (BitVec.ofNat 64 d)).completed with wait := none }, l1 := c.l1.filter (fun e => e.2.frozen) })

/-- Translations and cached copies (R199, R201, R311–R313) outside speculative chunks. tlbinv at S, with earlier stores
performed, no transfer that uses a named translation, no access that used one still to be performed (R311), no version of
the own region stored through one and no active Vitrine entry named, drops the named translations of every core, by page and
address space, by address space, or all.
cclean completes once the line's newest value is at its home; cinv at S also drops every copy of a line that is not
frozen; iinv empties the core's instruction cache. No byte and no register changes. -/
def Obligations.CacheResult : Prop := ∀ (s : State) (rs : SReg), s.speculative = false →
  let x := (s.ctx.x rs).toNat
  let named (i : Instr) (asid page : Option Nat) := s.atS = true → s.mirrorsDone (dieOf s.cur) = true →
    let h : Shoot := ⟨s.cur, asid, page⟩
    (∀ e ∈ s.vit, h.frozen e.2 = false) →
    (∀ c ∈ s.cores, ∀ ch ∈ c.2.chans, ∀ u ∈ ch.2.transfers, h.holds u = false) → s.usesNamed h = false →
    s.ownNamed h = none →
    Completes i s (fun t => (∀ k, t.core k = { (s.setCtx s.ctx.completed).core k with
        tlb := (s.core k).tlb.filter (fun e => !(asid.all (· == e.asid) && page.all (fun p => p / 2 ^ (e.bits - 16) == e.vpn))) })
      ∧ t.shoots = s.shoots.filter (fun g => g != h)
      ∧ Same (fun x : State => { x with cores := [], shoots := [] }) s t ∧ ∀ l, t.byteAt l = s.byteAt l)
  named (.tlbinvPage rs) (some (x % 65536)) (some (x / 65536))
  ∧ named (.tlbinvAsid rs) (some (x % 65536)) none
  ∧ named (.tlbinvAll rs) none none
  ∧ Completes .iinv s (fun t => t = s.setCore s.cur { (s.setCtx s.ctx.completed).me with icache := [] })
  ∧ ∀ g tlb, s.sound s.cur →
    resolveAt s s.cur s.me.tlb s.me.asid.toNat s.me.ptbase.toNat s.atS .load (s.ctx.x rs).toNat = .ok (g, tlb) →
    let kept (t : State) := (∀ k, (t.core k).regs = ((s.setCtx s.ctx.completed).core k).regs) ∧ ∀ l, t.byteAt l = s.byteAt l
    (∀ off w core, g = .own w off ∨ g = .remote core w off →
      Completes (.cclean rs) s kept ∧ (s.atS = true → Completes (.cinv rs) s kept))
    ∧ ∀ pa, g = .hbm pa → s.mpDie (pa / 128) = none →
      Completes (.cclean rs) s (fun t => kept t ∧ Same (fun x : State => { x with cores := [] }) s t)
      ∧ (s.atS = true → s.frame (pa / 128 * 128) = .frozen → Completes (.cinv rs) s kept)
      ∧ (s.atS = true → s.frame (pa / 128 * 128) ≠ .frozen → s.settled (pa / 128) = true → Completes (.cinv rs) s (fun t => kept t
          ∧ (∀ k, Bank.find (t.core k).l1 (pa / 128) = none ∧ Bank.find (t.core k).icache (pa / 128) = none)
          ∧ ∀ d < 12, (t.annexLine d (pa / 128)).st = .i))

/-- Annexes and Catalogue (R325–R335, R339, Tables 19.2 to 19.5). A request that takes its turn on an entry that is
settled, with a way of its set free for it and, of a line that has no entry, neither a lock nor a pin of its home die,
answers from the home when no die holds the line, from a sharer's data when it is shared, and else asks the owner for a
forwarded read, or every other holder for its copy; an answer gives the requester the line and settles the entry. A
holder's answer to a forwarded read, an invalidation, a recall or a conversion changes its own copy as Table 19.3 says
and reports its lease end. The least recently used line of an Annex's set goes, a Frozen replica silently, any other
with its lease end to the home. A mirror write brings a line's home up to date in sequence order, with the poison of its
bytes (R380), and its last acknowledgement ends state MP. -/
def Obligations.CatalogueResult : Prop := ∀ (s : State) (die line : Nat), die < 12 → line < 2 ^ 34 →
  let e := s.catEntry line
  let h := s.homeLine line
  let a := s.annexLine die line
  let bytes (t : State) := ∀ l, t.byteAt l = s.byteAt l
  let others (t : State) := ∀ d l, d < 12 → l < 2 ^ 34 → ¬(d = die ∧ l = line) → t.annexLine d l = s.annexLine d l
  let cats (t : State) := (∀ l, l ≠ line → t.catEntry l = s.catEntry l) ∧ bytes t
  let req (k : CatKind) : Instr := match k with
    | .rd => .catalogueRd die line | .rfo => .catalogueRfo die line | .upg => .catalogueUpg die line
  let turn (k : CatKind) : Prop := e.waiting = [] ∨ e.waiting.head? = some ⟨die, k⟩
  let left (i : Instr) : List Instr := s.flight.erase i ++
    if s.combines die line = true ∧ .combineTimeout die line ∉ s.flight then [.combineTimeout die line] else []
  let asks (k : CatKind) (t : State) (e' : CatEntry) (posts : List Instr) :=
    t.catEntry line = { e' with lru := s.catClock + 1, busy := some ⟨die, k⟩, way := false,
                                waiting := if e.waiting.head? = some ⟨die, k⟩ then e.waiting.tail else e.waiting } ∧ t.flight = s.flight.erase (req k) ++ posts
    ∧ t.annex = s.annex ∧ cats t
  let answered (m0 : Moesi) (data : Option LineData) (w r : Nat) : List Instr :=
    [.catalogueAnswer die line ⟨m0, data, w, Nat.max w r⟩]
  let home : LineData := ⟨s.homeData line, s.homePoison line⟩
  let held (x : Nat) : LineData := if x = h then home else ⟨(s.annexLine x line).data, (s.annexLine x line).poison⟩
  h < 12 → (s.frame (line * 128) = .plain → e.busy = none → e.st ≠ .rcl → s.hasRoom line = true →
    (e.st = .none → s.pinned h line = false) → s.tagErrors = [] →
    (∀ k, turn k → e.st = .none → Completes (req k) s (fun t => asks k t (if die = h then e else { e with st := .xc, owner := die })
      (answered (if k = .rd then (if die = h then .s else .e) else .m) (if die = h then none else some home)
        (s.homeWts line) (s.homeRts line))))
    ∧ (turn .rd → e.st = .sh → Completes (.catalogueRd die line) s (fun t => ∃ m0 d w r,
        asks .rd t { e with sharers := e.sharers ||| dieBit die } (answered m0 d w r) ∧ m0 = .s
        ∧ (d = some home ∨ ∃ x < 12, x ≠ die ∧ x ≠ h ∧ e.sharers.getLsbD x = true ∧ d = some (held x))))
    ∧ (turn .rd → e.st = .xc ∨ e.st = .ow → e.owner ≠ die → Completes (.catalogueRd die line) s (fun t =>
        asks .rd t { e with awaiting := [e.owner] } [.forwardedRead e.owner die line]))
    ∧ (∀ k ∈ [CatKind.rfo, .upg], turn k → let but := e.sharersBut die
        (e.st = .sh → but ≠ [] → Completes (req k) s (fun t => asks k t { e with awaiting := but } (but.map (.invalidate · line))))
        ∧ (e.st = .xc → e.owner ≠ die → Completes (req k) s (fun t =>
            asks k t { e with awaiting := [e.owner] } [.invalidate e.owner line]))
        ∧ (e.st = .ow → e.owner ≠ die → Completes (req k) s (fun t =>
            asks k t { e with awaiting := e.owner :: but } ((e.owner :: but).map (.invalidate · line))))
        ∧ (e.st = .ow → e.owner = die → but ≠ [] → Completes (req k) s (fun t =>
            asks k t { e with awaiting := but } (but.map (.invalidate · line))))))
  ∧ (∀ g, s.annexRoom die line = true → g.state ≠ .f → die ≠ h → (∀ o, a.st ≠ .mp o) → (∀ o, g.state ≠ .mp o) →
    Completes (.catalogueAnswer die line g) s (fun t =>
      (t.annexLine die line).st = g.state ∧ (t.annexLine die line).data = (g.data.map (·.bits)).getD a.data
      ∧ (t.annexLine die line).poison = (g.data.map (·.poison)).getD a.poison ∧ (t.annexLine die line).asked = false
      ∧ g.rts ≤ (t.annexLine die line).rts ∧ others t ∧ (t.catEntry line).busy = none ∧ (t.catEntry line).st = e.st
      ∧ (t.catEntry line).sharers = e.sharers ∧ (t.catEntry line).owner = e.owner ∧ cats t))
  ∧ (s.pinned die line = false →
    (∀ d, (a.st = .e ∨ a.st = .m ∨ a.st = .o) → Completes (.forwardedRead die d line) s (fun t =>
        t.annexLine die line = (if a.st = .e then { a with st := .s } else if a.st = .m then { a with st := .o } else a) ∧ others t
        ∧ t.catEntry line = (if a.st = .e then { e with st := .sh, sharers := dieBit die ||| dieBit d, owner := 15, awaiting := [] }
            else if a.st = .m then { e with st := .ow, sharers := dieBit d, owner := die, awaiting := [] }
            else { e with sharers := e.sharers ||| dieBit d, awaiting := [] })
        ∧ t.flight = left (.forwardedRead die d line) ++ [Instr.catalogueAnswer d line ⟨.s, some (held die), a.wts, a.wts⟩] ∧ cats t))
    ∧ (∀ r, e.busy = some r → (e.awaiting.erase die ≠ [] → Completes (.invalidate die line) s (fun t =>
          t.annexLine die line = { asked := a.asked } ∧ others t ∧ (t.catEntry line).awaiting = e.awaiting.erase die
          ∧ s.reportedRts die line ≤ (t.catEntry line).rts ∧ t.flight = left (.invalidate die line) ∧ cats t))
        ∧ (e.awaiting.erase die = [] → Completes (.invalidate die line) s (fun t =>
          t.annexLine die line = { asked := a.asked } ∧ others t ∧ cats t
          ∧ (t.catEntry line).st = (if r.die = h then .none else .xc) ∧ (t.catEntry line).owner = (if r.die = h then 15 else r.die)
          ∧ (t.catEntry line).sharers = 0
          ∧ ∃ g, t.flight = left (.invalidate die line) ++ [Instr.catalogueAnswer r.die line g] ∧ g.state = .m)))
    ∧ (∀ conv : Bool, let i : Instr := if conv then .freezeConvert die line else .recallLine die line
        Completes i s (fun t => t.annexLine die line = (if conv = true ∧ a.st = .s ∧ h ≠ die then { a with st := .f } else { asked := a.asked })
          ∧ others t ∧ s.reportedRts die line ≤ t.homeRts line ∧ bytes t
          ∧ (∀ l, l ≠ line → t.catEntry l =
              { s.catEntry l with way := if e.forLine = some l then (t.catEntry l).way else (s.catEntry l).way })
          ∧ (e.st = .rcl → e.awaiting.erase die = [] → (t.catEntry line).st = .none ∧ (t.catEntry line).owner = 15
              ∧ (t.catEntry line).sharers = 0)
          ∧ (e.awaiting.erase die ≠ [] → t.catEntry line = { e with awaiting := e.awaiting.erase die })))
    ∧ (h ≠ die → a.st ≠ .i → (s.annexVictim die (s.annexSet die line)).map (·.1) = some (die * 2 ^ 34 + line) →
      Completes (.evictionNotice die line) s (fun t => t.annexLine die line = {} ∧ cats t
        ∧ (a.st = .f → t.catEntry line = e)
        ∧ (a.st ≠ .f → a.rts ≤ t.homeRts line ∧ (t.catEntry line).sharers.getLsbD die = false ∧ (t.catEntry line).owner ≠ die))))
  ∧ (∀ seq data mask w, seq = (Bank.get 0 s.mirrorDone (mirrorKey die line h)).toNat →
    Completes (.mirrorWrite die line seq data mask w) s (fun t =>
      t.homeData line = mergeLine (s.homeData line) data.bits mask ∧ t.homeWts line = w
      ∧ (∀ g < 8, (t.homePoison line).getLsbD g = true ↔ data.poison.getLsbD g = true
          ∨ ((s.homePoison line).getLsbD g = true ∧ ∃ i < 16, mask.getLsbD (16 * g + i) = false))
      ∧ (Bank.get 0 t.mirrorDone (mirrorKey die line h)).toNat = (seq + 1) % 2 ^ 32 ∧ t.annex = s.annex
      ∧ t.flight = s.flight.erase (.mirrorWrite die line seq data mask w) ++ [Instr.mirrorAck die line seq]
      ∧ ∀ l, (∀ i < 128, l ≠ .hbm (line * 128 + i)) → t.byteAt l = s.byteAt l))
  ∧ ∀ seq o, a.st = .mp o → Completes (.mirrorAck die line seq) s (fun t =>
      t.annexLine die line =
        { a with pending := a.pending.erase seq, st := if a.pending.erase seq = [] then (if o then .o else .m) else .mp o }
      ∧ others t ∧ t.flight = s.flight.erase (.mirrorAck die line seq) ∧ Same (fun x : State => { x with annex := [], flight := [] }) s t)

/-- Losses (R336, R355, R359, R382). A station lost leaves the live field of the capability chain and no other state. A
switch die lost, with no mirror write of its quarter pending, gives up every copy of the lost quarter's lines to their
homes, whose bytes stand; its stations go, and with die 0 the host link. Drops of dies (R300, R383, R384, Table 23.3). A
compute-drop of a die whose rings run nothing removes their launches, powers its cores off and names a die in service as
its substitute; device memory stands. A full-drop ends every launch, discards the package's memory and starts every ring
core afresh; host memory stands; the surviving Curators have the event (R200) and the new capacity is reported. A
compute-drop is reversed after a module reset when the die passes its tests. Each drop has its record. A package in recovery
(R386), or with another recovery sequence under way (R381), is not in this case. That discarded device memory reads 0 is the
model's choice (log 8), and so are the reasons in drop records, 0 of a full-drop among them (log 25). -/
def Obligations.DropResult : Prop :=
  (∀ (s : State),
  let caps (l : Loc) := ∃ i < 96, l = .hbm (s.capsFrame + i)
  (∀ n, n < 8 → s.mpDie (s.capsFrame / 128) = none → Completes (.stationLoss n) s (fun t =>
      t.stations = s.stations &&& ~~~BitVec.twoPow 8 n ∧ (∀ l, ¬caps l → t.byteAt l = s.byteAt l) ∧ t.cores = s.cores
      ∧ t.rings = s.rings ∧ t.flight = s.flight.erase (.stationLoss n)))
  ∧ ∀ xd, xd < 4 → s.lostXd.contains xd = false → s.dropping = [] → s.quarterHeld xd = false → (∀ e ∈ s.annex, e.2.unmirrored = false) →
    (s.annex.map (·.1)).Pairwise (· < ·) → (s.cat.map (·.1)).Pairwise (· < ·) →
    Completes (.switchDieLoss xd) s (fun t => t.lostXd = s.lostXd ++ [xd]
      ∧ t.stations = s.stations &&& ~~~(BitVec.twoPow 8 (2 * xd) ||| BitVec.twoPow 8 (2 * xd + 1))
      ∧ t.hostLink = (s.hostLink && decide (xd ≠ 0))
      ∧ (∀ d line, d < 12 → line < 2 ^ 34 → s.quarterDie line = xd → t.annexLine d line = {} ∧ t.catEntry line = {})
      ∧ (∀ d line, d < 12 → line < 2 ^ 34 → s.quarterDie line ≠ xd → line ≠ s.capsFrame / 128 →
          t.annexLine d line = s.annexLine d line ∧ t.catEntry line = s.catEntry line)
      ∧ ∀ l, ¬caps l → t.byteAt l = s.byteAt l))
  ∧ (∀ (s : State) (die : Nat), die < 12 → s.fullDropped.contains die = false → s.recovery = false → s.inSequence = false →
  let cores := (List.range 64).map (die * 64 + ·)
  let rings := (List.range 8).map (die * 8 + ·)
  (Bank.find s.dropped die = none → (∀ g ∈ rings, (s.ring g).running = none) →
    (∀ n ∈ cores, (s.core n).queue = [] ∧ (s.core n).overflow.flatMap (·.2) = []) → Completes (.computeDrop die) s (fun t =>
      let serves (x : Nat) : Prop := x < 12 ∧ Bank.find t.dropped x = none ∧ s.fullDropped.contains x = false
      (∃ sub r, Bank.find t.dropped die = some sub ∧ ((∃ x, serves x) → serves sub) ∧ t.logDrop = s.logDrop ++ [LogRecord.drop die false sub r])
      ∧ (∀ x, x ≠ die → (Bank.find t.dropped x).isSome = (Bank.find s.dropped x).isSome)
      ∧ (∀ g ∈ rings, (t.ring g).queue = [] ∧ (t.ring g).saved = [] ∧ (t.ring g).running = none)
      ∧ (∀ n, t.core n = if n ∈ cores then { Core.reset n with dead := (s.core n).dead, lts := (s.core n).lts, fenced := true } else s.core n)
      ∧ (∀ g, g ∉ rings → t.ring g = s.ring g) ∧ ∀ l, (∀ n o, l ≠ .scratch n o) → t.byteAt l = s.byteAt l))
  ∧ Completes (.fullDrop die) s (fun t => t.fullDropped = s.fullDropped ++ [die]
      ∧ t.logDrop = s.logDrop ++ [LogRecord.drop die true die 0]
      ∧ (∀ n < 768, (t.core n).main = (Core.reset n).main ∧ (t.core n).hnd = (Core.reset n).hnd ∧ (t.core n).scratch = []
          ∧ (t.core n).queue = [] ∧ (t.core n).tlb = [] ∧ (t.core n).lts = (s.core n).lts)
      ∧ (∀ n, 768 ≤ n → n ≠ 768 + die → (t.core n).main = (s.core n).main ∧ (t.core n).queue = [])
      ∧ (∀ g < 96, (t.ring g).running = none ∧ (t.ring g).queue = [] ∧ (t.ring g).saved = [] ∧ (t.ring g).region = none)
      ∧ t.frames = [] ∧ t.vit = [] ∧ t.sync = [] ∧ t.mirror = [] ∧ t.combine = [] ∧ t.spaces = []
      ∧ (∀ pa, (∀ b < 96, pa ≠ t.capsFrame + b) → t.byteAt (.hbm pa) = 0) ∧ .capacity t.hbmLimit ∈ t.answers
      ∧ (∀ d < 12, t.fullDropped.contains d = false → .haltEvent (768 + d) ∈ t.flight)
      ∧ (∀ n < 768, ∀ o, t.byteAt (.scratch n o) = 0) ∧ ∀ a, t.byteAt (.host a) = s.byteAt (.host a))
  ∧ (s.restorable.contains die = true → s.faultyCompute.contains die = false → (Bank.find s.dropped die).isSome = true →
    Completes (.restoreDie die) s (fun t => Bank.find t.dropped die = none ∧ t.restorable = s.restorable.filter (· != die)
      ∧ (∀ n, t.core n = if n ∈ cores then { s.core n with fenced := false } else s.core n)
      ∧ t.flight = s.flight.erase (.restoreDie die) ++ [Instr.haltEvent (768 + die)]
      ∧ Same (fun x : State => { x with dropped := [], restorable := [], cores := [], flight := [] }) s t)))

/-- Launch queues (R21, R286–R289, R294, R295, R298, R299). A GO submits its window's packet: a ring whose die is in
service takes a well-formed packet of a known address space while fewer than 16 wait, behind the writes that its
requester posted before the GO, and else counts the refusal with its reason; a broadcast submits to every ring of its
mask and counts the refusals; FLUSH removes and counts the launches of the named priorities; a fence clears when its
writes have landed; the launch agent accepts a vector message of 128 bytes, the first of its sender's on the way, and
answers it. POLICY_WRITE sets TIMEOUT and QUANTUM. -/
def Obligations.LaunchQueueResult : Prop := ∀ (s : State) (ring req : Nat), ring < 96 →
  let g := s.ring ring
  let others (t : State) := (∀ r, r ≠ ring → t.ring r = s.ring r) ∧ Same (fun x : State => { x with rings := [], flight := [] }) s t
  let wake (r : Nat) : Instr := .haltEvent (768 + r / 8)
  let posted (i : Instr) := (s.flight.takeWhile (fun j => decide (j ≠ i))).filter (postedBy req)
  let takes (g : Ring) (p : Packet21) (asid : Nat) (fence : List Instr) : Ring :=
    { g with queue := g.queue ++ [{ pkt := p, asid := asid, fence := fence }] }
  let counts (g : Ring) (r : Nat) : Ring := { g with refcnt := if g.refcnt = 0xFFFF then g.refcnt else g.refcnt + 1, lastref := r }
  let reason (ring : Nat) (w : BitVec 1024) (asid r : Nat) : Prop := if s.ringDead ring = true then r = 4 else
    if packetOf w = none then r = 1 else if asid = 0 ∨ Bank.find s.spaces asid = none then r = 3
    else (s.ring ring).queue.length ≥ 16 ∧ r = 2
  let good (ring : Nat) (w : BitVec 1024) (asid : Nat) (p : Packet21) : Prop := s.ringDead ring = false ∧ packetOf w = some p
    ∧ asid ≠ 0 ∧ (Bank.find s.spaces asid).isSome = true ∧ (s.ring ring).queue.length < 16
  (∀ (w : BitVec 1024) p, packetOf w = some p → p.entry = w.extractLsb' 0 64 ∧ p.n = w.extractLsb' 64 64
    ∧ p.waitVal = w.extractLsb' 128 64 ∧ p.pairMask = w.extractLsb' 244 12 ∧ p.nargs = (w.extractLsb' 239 5).toNat
    ∧ p.prio = (w.extractLsb' 237 2).toNat ∧ p.sigEn = w.getLsbD 236 ∧ p.waitEn = w.getLsbD 235
    ∧ p.sigReg = (w.extractLsb' 208 16).toNat ∧ p.waitReg = (w.extractLsb' 192 16).toNat
    ∧ ∀ j < 24, p.args[j]? = some (w.extractLsb' (256 + 32 * j) 32))
  ∧ (s.up = true → s.hostLink = true → let w : Window := Bank.get {} s.windows ring
      let i : Instr := .launchGo req ring
      (∀ p, good ring w.pkt w.asid.toNat p → Completes i s (fun t => t.ring ring = takes g p w.asid.toNat (posted i)
        ∧ t.flight = s.flight.erase i ++ [wake ring] ∧ others t))
      ∧ ∀ r, reason ring w.pkt w.asid.toNat r → Completes i s (fun t => t.ring ring = counts g r ∧ t.flight = s.flight.erase i ∧ others t))
  ∧ (s.up = true → s.hostLink = true → let w := s.broadcastWin
      let mask : BitVec 96 := w.maskHi.append w.maskLo
      mask ≠ 0 → Completes (.broadcastGo req) s (fun t =>
        (∀ r < 96, if mask.getLsbD r = true then
            (∀ p, good r w.pkt w.asid.toNat p → t.ring r = takes (s.ring r) p w.asid.toNat (posted (.broadcastGo req)))
            ∧ ∀ k, reason r w.pkt w.asid.toNat k → t.ring r = counts (s.ring r) k
          else t.ring r = s.ring r)
        ∧ t.broadcastWin = { w with refrings := ((List.range 96).filter (fun r => mask.getLsbD r &&
            match s.refusal r w.pkt w.asid.toNat with | .error _ => true | .ok _ => false)).length }
        ∧ Same (fun x : State => { x with rings := [], flight := [], broadcastWin := {} }) s t))
  ∧ (∀ prios : BitVec 4, Completes (.flush ring prios) s (fun t =>
      let gone := (g.queue.filter (fun l => prios.getLsbD l.pkt.prio)).length
      t.ring ring = { g with queue := g.queue.filter (fun l => !prios.getLsbD l.pkt.prio)
                             abtcnt := BitVec.ofNat 8 (Nat.min 255 (g.abtcnt.toNat + gone)) }
      ∧ (∀ r, r ≠ ring → t.ring r = s.ring r) ∧ Same (fun x : State => { x with rings := [], flight := [], logLaunch := [] }) s t))
  ∧ (∀ id l, g.queue[id]? = some l → (∀ i ∈ l.fence, i ∉ s.flight) → Completes (.launchFenceClear ring id) s (fun t =>
      t.ring ring = { g with queue := g.queue.set id { l with fence := [] } } ∧ t.flight = s.flight ∧ others t))
  ∧ (∀ (m : Msg) p, m.dst / 8 = ring → m.host = false → m.peer = none → m.toPeer = none → m.vec = true → m.len = 128 →
      s.firstOf (sameRoute none m.src m.dst) (.launchMessage m) = true → let i : Instr := .launchMessage m
      (good ring (m.payload.setWidth 1024) m.asid p → Completes i s (fun t => t.ring ring = takes g p m.asid [] ∧ others t
        ∧ (m.re = false → t.flight = s.flight.erase i ++ [wake ring])
        ∧ (m.re = true → ∃ a, t.flight = s.flight.erase i ++ [wake ring, .messageArrival a] ∧ a.src = m.dst ∧ a.dst = m.src
            ∧ a.cls = m.rclass ∧ a.asid = m.asid ∧ a.len = 64 ∧ a.payload = BitVec.ofNat 4096 ((g.queue.length + 1) * 2 ^ 64))))
      ∧ ∀ r, reason ring (m.payload.setWidth 1024) m.asid r → Completes i s (fun t => t.ring ring = counts g r ∧ others t))
  ∧ ∀ v : Word, Completes (.policyWrite v) s (fun t =>
      t.policyTimeout = (if (v.extractLsb' 16 16) = 0 then 1 else v.extractLsb' 16 16) ∧ t.policyQuantum = v.extractLsb' 0 16
      ∧ t.flight = s.flight.erase (.policyWrite v)
      ∧ Same (fun x : State => { x with policyTimeout := 0, policyQuantum := 0, flight := [] }) s t)

/-- Launches that run (R22, R277, R291–R293, R297, R298, R303, R318, R365). A queued launch starts on its ring's head
core with the entry registers of Table 1.6 and its address space on every core; a held one takes its cores' state back.
A complete launch, whose traffic is all performed, raises its signal register by 1 and frees the ring, its cores keeping
their registers; a pre-empted one is held once the ring has stopped, and a ring that a command stops goes on to its
stop; one whose time has passed, or that is ended, is counted and its cores' state discarded. The fault policy returns from
a trap once its condition is removed, or once from an uncorrectable check; ends the launch of one that it does not wait for,
or that has waited to its limit; and else goes on waiting (Table 22.2). The model's choices: the place of the dead-message
areas that a starting launch's cores are given (log 20), a held launch kept in the state with no save area written, so that
no byte changes (log 24), the Curator's steps of the fault policy (log 11), and the marks by which a launch's traffic is told
apart (log 98). -/
def Obligations.LaunchRunResult : Prop := ∀ (s : State) (ring : Nat), ring < 96 →
  let g := s.ring ring
  let cores := (List.range 8).map (ring * 8 + ·)
  let bytes (t : State) := ∀ l, t.byteAt l = s.byteAt l
  let rings (t : State) := ∀ r, r ≠ ring → t.ring r = s.ring r
  let freed (t : State) := (t.ring ring).running = none ∧ (t.ring ring).stopFor = none ∧ rings t ∧ bytes t
    ∧ ∀ n ∈ cores, (t.core n).main = (Core.reset n).main ∧ (t.core n).hnd = (Core.reset n).hnd ∧ (t.core n).prv = false
  let finished (t : State) := (t.ring ring).running = none ∧ (t.ring ring).stopFor = none ∧ rings t ∧ bytes t
    ∧ ∀ n ∈ cores, (t.core n).main = { (s.core n).main with wait := none, issued := false, stamped := false }
      ∧ (t.core n).run = none ∧ (t.core n).queue = []
  let ended (t : State) := freed t ∧ (t.ring ring).abtcnt = (if g.abtcnt = 0xFF then g.abtcnt else g.abtcnt + 1)
  let emptyArea (asid : Nat) := ∀ n ∈ cores, ∀ l, Bank.find (s.core n).overflow asid = some l → l = []
  (∀ l, s.ringFree ring = true → s.candidate ring = some (.queued l) → emptyArea l.asid → Completes (.launchStart ring) s (fun t =>
    let sp := Bank.get {} s.spaces l.asid
    let p := l.pkt
    let arg (j : Nat) : Nat := if j < p.nargs then (p.args.getD j 0).toNat else 0
    t.ring ring = { g with running := some l, queue := g.queue.erase l, sqcnt := 0, region := none, lastAsid := some l.asid } ∧ rings t
    ∧ (t.core (ring * 8)).main.pc = p.entry
    ∧ (∀ r : SReg, (t.core (ring * 8)).main.x r = if r = 1 then p.n else if r = 2 then BitVec.ofNat 64 ring
        else if r = 3 then BitVec.ofNat 64 (ring * 8) else if r = 4 then BitVec.ofNat 64 p.prio
        else if 16 ≤ r ∧ r < 40 then let j := r.toNat - 16
          BitVec.ofNat 64 (if j % 2 = 0 ∧ p.pairMask.getLsbD (j / 2) = true then arg (j + 1) * 2 ^ 32 + arg j else arg j)
        else 0)
    ∧ (∀ n ∈ cores, let d := t.core n
        d.main = { (Core.reset n).main with pc := d.main.pc, s := d.main.s } ∧ d.hnd = (Core.reset n).hnd
        ∧ d.asid = BitVec.ofNat 16 l.asid ∧ d.ptbase = sp.ptbase ∧ d.lease = 16 ∧ d.chk = true ∧ d.chkLock = sp.checked ∧ d.corr = 0
        ∧ d.classes = [] ∧ d.chans = [] ∧ d.mcfg = 0 ∧ d.lts = (s.core n).lts
        ∧ (g.lastAsid ≠ some l.asid → d.scratch = [] ∧ d.active = {} ∧ d.shadowPlane = {})
        ∧ (g.lastAsid = some l.asid → d.scratch = (s.core n).scratch ∧ d.active = (s.core n).active
            ∧ d.shadowPlane = (s.core n).shadowPlane))
    ∧ (∀ n ∈ cores, ∃ a, Bank.find (t.core n).dead l.asid = some a ∧ (∀ b, Bank.find (s.core n).dead l.asid = some b → a = b)
        ∧ (Bank.find (s.core n).dead l.asid = none → t.homeBytes a 64 = 0
            ∧ ∃ k, s.areaCount < k ∧ k ≤ s.areaCount + 8 ∧ a = s.capsFrame - 0x8000 * k))
    ∧ (∀ b, (∀ n ∈ cores, Bank.find (s.core n).dead l.asid = none → ∀ a, Bank.find (t.core n).dead l.asid = some a → b < a ∨ a + 64 ≤ b) →
        t.homeBytes b 1 = s.homeBytes b 1)
    ∧ (∀ n, n ∉ cores → t.core n = s.core n)
    ∧ Same (fun x : State => { x with cores := [], rings := [], hbm := [], wts := [], rts := [], poison := [], annex := [], cat := [],
                                      combine := [], areaCount := 0 }) s t))
  ∧ (∀ v, s.ringFree ring = true → s.candidate ring = some (.held v) → emptyArea v.launch.asid → Completes (.launchStart ring) s (fun t =>
    (t.ring ring).running = some v.launch ∧ (t.ring ring).region = v.region ∧ (t.ring ring).saved = g.saved.erase v
    ∧ (t.ring ring).sqcnt = v.sqcnt ∧ rings t
    ∧ (∀ p < 8, ∀ k, v.cores[p]? = some k → let d := t.core (ring * 8 + p)
        d.main = k.main ∧ d.seq = k.seq ∧ d.scratch = k.scratch ∧ d.active = k.active ∧ d.shadowPlane = k.shadowPlane
        ∧ d.mcfg = k.mcfg ∧ d.classes = k.classes ∧ d.chans = k.chans ∧ d.lts = Nat.max (s.core (ring * 8 + p)).lts k.lts
        ∧ d.asid = BitVec.ofNat 16 v.launch.asid ∧ d.prv = k.prv)
    ∧ (let mark := List.map (markHeld ring (some v.number) none)
       ∀ n, n ∉ cores → t.core n = { s.core n with queue := mark (s.core n).queue,
                                                   overflow := (s.core n).overflow.map (fun a => (a.1, mark a.2)) })
    ∧ t.flight = s.flight.map (markStep ring (some v.number) none)
    ∧ Same (fun x : State => { x with cores := [], rings := [], flight := [] }) s t))
  ∧ (∀ l, g.running = some l → s.trapZero ring = true → s.drained ring = true → Completes (.launchComplete ring) s (fun t =>
      finished t ∧ (∀ y, t.syncAt y = if l.pkt.sigEn = true ∧ y = l.pkt.sigReg then s.syncAt y + 1 else s.syncAt y)
      ∧ (t.ring ring).abtcnt = g.abtcnt ∧ .haltEvent (768 + ring / 8) ∈ t.flight))
  ∧ (∀ l, g.running = some l → g.stopFor = none → g.stopped = false → g.region = none → (s.preemptor ring).isSome = true →
      (∀ n ∈ cores, (s.core n).atStop = true) → Completes (.quantumExpiry ring) s (fun t =>
      freed t ∧ ∃ v, (t.ring ring).saved = g.saved ++ [v] ∧ v.launch = l ∧ v.region = none ∧ v.sqcnt = g.sqcnt
        ∧ ∀ p < 8, ∃ k, v.cores[p]? = some k ∧ let d := s.core (ring * 8 + p)
          k.main.pc = d.main.pc ∧ (∀ r, k.main.x r = d.main.x r) ∧ k.main.p = d.main.p ∧ k.main.loops = d.main.loops
          ∧ (∀ n, k.main.vr n = if d.main.vdirty.getLsbD n.toNat = true then d.main.vr n else 0)
          ∧ k.active = d.active ∧ k.shadowPlane = d.shadowPlane ∧ k.lts = d.lts))
  ∧ (∀ l, g.running = some l → g.stopFor = some .command → g.stopped = false → g.region = none →
      (∀ n ∈ cores, (s.core n).atStop = true) → Completes (.quantumExpiry ring) s (fun t =>
      (t.ring ring).stopped = true ∧ (t.ring ring).running = some l ∧ rings t ∧ bytes t
      ∧ ∀ n ∈ cores, (t.core n).stopped = true ∧ (t.core n).main.pc = (s.core n).main.pc ∧ (t.core n).main.s = (s.core n).main.s))
  ∧ (g.stopped = false → (g.stopFor = some .command → Completes (.timeoutExpiry ring) s (fun t =>
        t.ring ring = { g with timedOut := true } ∧ rings t ∧ Same (fun x : State => { x with rings := [] }) s t))
      ∧ ∀ l, g.running = some l → g.stopFor = some .preempt → g.region = none → Completes (.timeoutExpiry ring) s ended)
  ∧ (∀ prio, s.recovery = false → s.inSequence = false → (∀ l, g.running = some l → l.pkt.prio = prio → g.stopFor = none → g.stopped = false → g.region = none →
        (∀ n ∈ cores, (s.core n).atStop = true) → Completes (.endLaunch ring prio) s ended)
      ∧ ∀ v, (∀ l, g.running = some l → l.pkt.prio ≠ prio) → g.saved.find? (fun v => v.launch.pkt.prio == prio) = some v →
        Completes (.endLaunch ring prio) s (fun t =>
          t.ring ring = { g with saved := g.saved.erase v, abtcnt := if g.abtcnt = 0xFF then g.abtcnt else g.abtcnt + 1 } ∧ rings t
          ∧ Same (fun x : State => { x with rings := [], flight := [], logLaunch := [] }) s t))
  ∧ ∀ l n, n ∈ cores → g.running = some l → s.handling n = true → s.trapZero ring = false → s.atBreakpoint n = false →
      let c := s.core n
      let sp := Bank.get {} s.spaces c.asid.toNat
      let check := c.causeCode = 0x51
      let restarts := restartable c.causeCode = true
      let walk := (restartAccess c.causeCode).isSome = true
      let returns (r : Option Word) := Completes (.faultPolicyWaitLimit n) s (fun t => (t.core n).main.pc = c.epc ∧ (t.core n).prv = false
        ∧ (t.core n).retried = r ∧ ∀ k, k ≠ n → t.core k = s.core k)
      let ends := Completes (.faultPolicyWaitLimit n) s (fun t => .endLaunch ring l.pkt.prio ∈ t.flight
        ∧ Same (fun x : State => { x with flight := [] }) s t)
      (check → (c.retried ≠ some c.epc → returns (some c.epc)) ∧ (c.retried = some c.epc → ends))
      ∧ (¬restarts → ends) ∧ (walk → sp.waits = false → ends)
      ∧ (restarts → ¬check → (walk → sp.waits = true) →
          (s.conditionGone n = true → returns c.retried) ∧ (s.conditionGone n = false → sp.limited = true → ends)
          ∧ (s.conditionGone n = false → sp.limited = false → Completes (.faultPolicyWaitLimit n) s (fun t =>
              t = s.take (.faultPolicyWaitLimit n))))

/-- The context-save engine (R315–R321) at S on a Curator core, with its 32-byte command in clean bytes of its own die's
memory, of a ring of its die. STOP of a ring that runs nothing, or whose activities have reached their points, answers 0
and the ring is stopped; of one that TIMEOUT has passed it answers 1, and the ring goes on stopping; ABORT ends its
launch; SAVE of a stopped ring writes its area, holds the launch and frees the ring; RESTORE gives the ring back its
cores' registers from the area. What of a launch no field of the area holds, RESTORE takes from the number that SAVE wrote
at offset 0x6000 of a block, which is the model's choice (log 23). The answer is written into the command. -/
def Obligations.ContextSaveResult : Prop := ∀ (s : State) (rs : SReg) (pa ring area : Nat) (tlb : List TlbEntry),
  let me := s.me
  let ea := s.ctx.x rs
  let g := s.ring ring
  let cores := (List.range 8).map (ring * 8 + ·)
  s.atS = true → 768 ≤ s.cur → s.cur < 780 → s.sound s.cur → ea.toNat % 32 = 0 → pa % 32 = 0 → ring < 96 → ring / 8 = dieOf s.cur →
  resolveAt s s.cur me.tlb me.asid.toNat me.ptbase.toNat s.atS .load ea.toNat = .ok (.hbm pa, tlb) →
  s.homeLine (pa / 128) = dieOf s.cur → (s.catEntry (pa / 128)).st = .none → s.settled (pa / 128) = true →
  Bank.find me.l1 (pa / 128) = none → s.combines (dieOf s.cur) (pa / 128) = false → s.frame pa = .plain →
  (s.annexLine (dieOf s.cur) (pa / 128)).st = .i → poisoned s.poison pa 32 = false →
  let command (op spxt : Nat) := s.currentBytes pa 32 = op + ring * 2 ^ 8 + spxt * 2 ^ 20 + area * 2 ^ 64 + s.currentBytes (pa + 16) 8 * 2 ^ 128
  let done (t : State) (status : Nat) := t.deviceBytes (pa + 16) 1 = status ∧ t.ctx = s.ctx.completed
    ∧ .haltEvent s.cur ∈ t.flight ∧ ∀ r, r ≠ ring → t.ring r = s.ring r
  let only (t : State) := ∀ l, (∀ i < 8, l ≠ .hbm (pa + 16 + i)) → t.byteAt l = s.byteAt l
  (command 0 0 → area = 0 → g.running = none → Completes (.stop rs) s (fun t => done t 0 ∧ only t ∧ t.ring ring = g))
  ∧ (command 0 0 → area = 0 → ∀ l, g.running = some l → g.stopFor = none → g.stopped = false → g.region = none →
      (∀ n ∈ cores, (s.core n).atStop = true) → Completes (.stop rs) s (fun t => done t 0 ∧ only t
        ∧ (t.ring ring).stopped = true ∧ (t.ring ring).running = some l
        ∧ ∀ n ∈ cores, (t.core n).stopped = true ∧ (t.core n).queue = [] ∧ ∀ r, (t.core n).main.x r = (s.core n).main.x r))
  ∧ (command 0 0 → area = 0 → ∀ l, g.running = some l → g.stopFor = some .command → g.stopped = false → g.timedOut = true →
      g.region = none → (∃ n ∈ cores, (s.core n).atStop = false) → Completes (.stop rs) s (fun t => done t 1 ∧ only t
        ∧ t.ring ring = { g with timedOut := false } ∧ ∀ n ∈ cores, t.core n = s.core n))
  ∧ (command 3 0 → area = 0 → ∀ l, g.running = some l → g.stopFor = none → g.stopped = false → g.region = none →
      (∀ n ∈ cores, (s.core n).atStop = true) → Completes (.abort rs) s (fun t => done t 0 ∧ only t
        ∧ (t.ring ring).running = none ∧ (t.ring ring).abtcnt = (if g.abtcnt = 0xFF then g.abtcnt else g.abtcnt + 1)
        ∧ ∀ n ∈ cores, (t.core n).main = (Core.reset n).main))
  ∧ (∀ spxt l, command 1 spxt → 1 ≤ spxt → spxt ≤ 8 → area < 2 ^ 64 → g.running = some l → g.stopped = true → g.region = none →
      s.areaOk ring area = true → s.areaFree area = true → (pa + 32 ≤ area ∨ area + 0x510000 ≤ pa) → l.asid < 2 ^ 16 →
      Completes (.save rs) s (fun t => done t 0
        ∧ (∀ l, (∀ i < 8, l ≠ .hbm (pa + 16 + i)) → (∀ i < 0x510000, l ≠ .hbm (area + i)) → t.byteAt l = s.byteAt l)
        ∧ (t.ring ring).running = none ∧ (∃ v, (t.ring ring).saved = g.saved ++ [v] ∧ v.launch = l ∧ v.sqcnt = g.sqcnt)
        ∧ t.deviceBytes area 8 = ring + spxt * 2 ^ 8 + l.asid * 2 ^ 16 ∧ t.deviceBytes (area + 0x10) 8 = g.sqcnt.toNat
        ∧ ∀ p < 8, let c := s.core (ring * 8 + p)
          let block := area + 0x10000 + p * 0xA0000
          t.deviceBytes (block + 0x2D0) 8 = c.mcfg.toNat ∧ (∀ o < 40, t.byteAt (.hbm (block + 0x2D8 + o)) = 0)
          ∧ (∀ o < spxt * 65536, t.byteAt (.hbm (block + 0x20000 + o)) = Bank.get 0 c.scratch o)
          ∧ (p = 0 → (∀ i < 64, t.deviceBytes (block + 8 * i) 8 = (c.main.x (BitVec.ofNat 6 i)).toNat)
            ∧ t.deviceBytes (block + 0x200) 8 = (1 + c.main.loops.length * 2 ^ 8 + c.main.k.toNat * 2 ^ 16) % 2 ^ 64
            ∧ t.deviceBytes (block + 0x208) 8 = c.main.pc.toNat ∧ t.deviceBytes (block + 0x240) 8 = c.main.vl.toNat
            ∧ t.deviceBytes (block + 0x250) 8 = c.main.vstart.toNat ∧ t.deviceBytes (block + 0x258) 8 = c.main.vdirty.toNat
            ∧ t.deviceBytes (block + 0x270) 8 = c.main.fflags.toNat ∧ t.deviceBytes (block + 0x278) 8 = c.main.seed.toNat
            ∧ t.deviceBytes (block + 0x298) 8 = c.lts % 2 ^ 48
            ∧ ∀ v : VReg, c.main.vdirty.getLsbD v.toNat = true →
                vectorOf (t.deviceBytes (block + 0x1800 + v.toNat) 1) (t.deviceBytes (block + 0x2000 + 512 * v.toNat) 512)
                  = c.main.vr v)))
  ∧ ∀ v, command 2 0 → area < 2 ^ 64 → g.running = none → (∀ n ∈ cores, (s.core n).asid.toNat = s.deviceBytes area 8 / 2 ^ 16 % 2 ^ 16) →
      s.deviceBytes area 8 % 256 = ring → s.areaPoison area (s.deviceBytes area 8 / 2 ^ 8 % 16) = false → s.areaPending area = false →
      s.images[s.deviceBytes (area + 0x16000) 8 - 1]? = some v → (pa + 32 ≤ area ∨ area + 0x510000 ≤ pa) →
      (∀ p < 8, ∀ i < 32, 1 ≤ s.deviceBytes (area + 0x10000 + p * 0xA0000 + 0x1800 + i) 1
        ∧ s.deviceBytes (area + 0x10000 + p * 0xA0000 + 0x1800 + i) 1 ≤ 4) →
      (∀ n ∈ cores, ∀ l, Bank.find (s.core n).overflow v.launch.asid = some l → l = []) →
      Completes (.restore rs) s (fun t => done t 0 ∧ (t.ring ring).running = some v.launch
        ∧ (t.ring ring).sqcnt.toNat = s.deviceBytes (area + 0x10) 8 % 2 ^ 32
        ∧ ∀ p < v.cores.length, p < 8 → let d := t.core (ring * 8 + p)
          let block := area + 0x10000 + p * 0xA0000
          let q (o : Nat) := s.deviceBytes (block + o) 8
          d.mcfg.toNat = q 0x2D0 % 2 ^ 11 ∧ (∀ c < 64, Bank.get 0 d.classes c = BitVec.ofNat 64 (q (0x800 + 8 * c)))
          ∧ (∀ o < 0x80000, Bank.get 0 d.scratch o = if o < (s.deviceBytes area 8 / 2 ^ 8 % 16) * 65536 then
              BitVec.ofNat 8 (s.deviceBytes (block + 0x20000 + o) 1) else 0)
          ∧ (q 0x200 % 4 = 1 ∨ q 0x200 % 4 = 2 → d.main.pc = BitVec.ofNat 64 (q 0x208)
            ∧ (∀ i : SReg, i ≠ 0 → d.main.x i = BitVec.ofNat 64 (q (8 * i.toNat))) ∧ d.main.k = BitVec.ofNat 8 (q 0x200 / 2 ^ 16)
            ∧ d.main.vl.toNat = q 0x240 % 2 ^ 11 ∧ d.main.vstart.toNat = q 0x250 % 2 ^ 11 ∧ d.main.vdirty.toNat = q 0x258 % 2 ^ 32
            ∧ d.main.done = 0xFFFFFFFF ∧ (∀ n : VReg, Bank.get 0 d.main.prog n.toNat = d.main.vl.toNat)
            ∧ (∀ n : VReg, d.main.vr n = if d.main.vdirty.getLsbD n.toNat = true then
                vectorOf (s.deviceBytes (block + 0x1800 + n.toNat) 1) (s.deviceBytes (block + 0x2000 + 512 * n.toNat) 512) else 0)
            ∧ d.lts = Nat.max (s.core (ring * 8 + p)).lts (q 0x298 % 2 ^ 48)))

/-- The control BAR (R8, R286, R287, R349, R352, R354, R359, R360, Tables 17.1, 17.2, 21.1, 21.2, 21.4, 21.6) of a package
that is up. REGISTER_WRITE writes the named word of a launch window, the broadcast window, the send window, SYNCSEL or the
MSI-X table, and ignores other offsets; APBASE_WRITE clears the bits below the BAR2 size; a resize and a retraining change
the capability chain; a mailbox class takes BASE and SLOTS only while closed. The send window sends its message, and VAL and
ADD write the selected sync register, at once when the requester has posted no write before them that is still on its way,
and else behind those writes. The layout of an MSI-X table entry is taken from PCIe (log 47, PRESUMED); the place and the
offsets of the capability chain (log 10) and the kind 5 of a refusal record (log 25) are the model's choices. -/
def Obligations.ControlBarResult : Prop := ∀ (s : State) (v : Word) (req : Nat), s.up = true → s.hostLink = true →
  let gives (i : Instr) (blank : State → State) (P : State → Prop) :=
    Completes i s (fun t => P t ∧ t.flight = s.flight.erase i ∧ Same (fun x : State => { blank x with flight := [] }) s t)
  let write (off : Nat) (blank : State → State) (P : State → Prop) := gives (.registerWrite off v) blank P
  let caps (i : Instr) (blank : State → State) (P : State → Prop) := s.mpDie (s.capsFrame / 128) = none →
    gives i (fun x => { blank x with hbm := [], wts := [], rts := [], poison := [], annex := [], cat := [], combine := [] }) (fun t => P t
      ∧ ∀ l, (∀ b < 96, l ≠ .hbm (s.capsFrame + b)) → t.byteAt l = s.byteAt l)
  let y := s.syncSel.toNat
  let earlier (i : Instr) := s.flight.takeWhile (fun j => decide (j ≠ i))
  let posted (i : Instr) := (earlier i).filter (postedBy req)
  (∀ g < 96, let w : Window := Bank.get {} s.windows g
    let others (t : State) := ∀ j, j ≠ g → Bank.get {} t.windows j = Bank.get {} s.windows j
    (∀ k < 16, write (0x10000 + 256 * g + 8 * k) (fun x => { x with windows := [] }) (fun t => others t
      ∧ let u : Window := Bank.get {} t.windows g
        u.asid = w.asid ∧ ∀ j < 16, u.pkt.extractLsb' (64 * j) 64 = if j = k then v else w.pkt.extractLsb' (64 * j) 64))
    ∧ write (0x10000 + 256 * g + 0x80) (fun x => { x with windows := [] }) (fun t => others t
        ∧ Bank.get {} t.windows g = { w with asid := v.setWidth 16 }))
  ∧ (let w := s.broadcastWin
    (∀ k < 16, write (0x18000 + 8 * k) (fun x => { x with broadcastWin := {} }) (fun t =>
        t.broadcastWin = { w with pkt := t.broadcastWin.pkt }
        ∧ ∀ j < 16, t.broadcastWin.pkt.extractLsb' (64 * j) 64 = if j = k then v else w.pkt.extractLsb' (64 * j) 64))
    ∧ write 0x18080 (fun x => { x with broadcastWin := {} }) (fun t => t.broadcastWin = { w with asid := v.setWidth 16 })
    ∧ write 0x18088 (fun x => { x with broadcastWin := {} }) (fun t => t.broadcastWin = { w with maskLo := v })
    ∧ write 0x18090 (fun x => { x with broadcastWin := {} }) (fun t => t.broadcastWin = { w with maskHi := v.setWidth 32 }))
  ∧ (let w := s.sendWin
    (∀ k < 8, write (0x21000 + 8 * k) (fun x => { x with sendWin := {} }) (fun t => t.sendWin = { w with pay := t.sendWin.pay }
        ∧ ∀ j < 8, t.sendWin.pay.extractLsb' (64 * j) 64 = if j = k then v else w.pay.extractLsb' (64 * j) 64))
    ∧ write 0x21040 (fun x => { x with sendWin := {} }) (fun t => t.sendWin = { w with dest := v })
    ∧ write 0x21048 (fun x => { x with sendWin := {} }) (fun t => t.sendWin = { w with asid := v.setWidth 16 }))
  ∧ write 0x22000 (fun x => { x with syncSel := 0 }) (fun t => t.syncSel = v.setWidth 16)
  ∧ (∀ i < 128, write (0x30000 + 8 * i) (fun x => { x with msix := [], msixPending := 0, answers := [] }) (fun t =>
      (∀ j, t.msixWord j = if j = i then (if i % 2 = 0 then v else v &&& 0x1FFFFFFFF) else s.msixWord j)
      ∧ let sent := s.msixPending.getLsbD (i / 2) && !(t.msixWord (i / 2 * 2 + 1)).getLsbD 32
        t.answers = s.answers ++ (if sent then [.msix (i / 2)] else [])
        ∧ t.msixPending = if sent then s.msixPending &&& ~~~BitVec.twoPow 64 (i / 2) else s.msixPending))
  ∧ (∀ off, off % 8 ≠ 0 ∨ off < 0x10000 ∨ (0x10000 ≤ off ∧ off < 0x16000 ∧ 0x88 ≤ off % 256) ∨ (0x16000 ≤ off ∧ off < 0x18000) →
      write off id (fun _ => True))
  ∧ gives (.apbaseWrite v) (fun x => { x with apbase := 0 }) (fun t =>
      t.apbase.toNat = v.toNat / 2 ^ 30 % 2 ^ 10 / 2 ^ (s.bar2 - 30) * 2 ^ (s.bar2 - 30))
  ∧ (∀ n, (30 ≤ n → n ≤ 40 → caps (.bar2Resize n) (fun x => { x with bar2 := 0, apbase := 0 }) (fun t => t.bar2 = n
        ∧ t.apbase.toNat = s.apbase.toNat / 2 ^ (n - 30) * 2 ^ (n - 30) ∧ t.deviceBytes (s.capsFrame + 64) 8 = 2 ^ n))
      ∧ (n < 30 ∨ 40 < n → gives (.bar2Resize n) id (fun _ => True)))
  ∧ (∀ w ∈ [4, 8, 16], ∀ sp ∈ [5, 6, 7], caps (.linkRetraining w sp) (fun x => { x with linkWidth := 0, linkSpeed := 0 }) (fun t =>
      t.linkWidth = w ∧ t.linkSpeed = sp ∧ t.deviceBytes (s.capsFrame + 56) 8 = 0x404000 + Nat.log2 w * 16 + sp))
  ∧ (∀ cls < 64, let m : Mailbox := Bank.get {} s.mailboxes cls
    let box (word : Nat) (m' : Mailbox) := gives (.mailboxControlWrite cls word v) (fun x => { x with mailboxes := [] }) (fun t =>
      Bank.get {} t.mailboxes cls = m' ∧ ∀ j, j ≠ cls → Bank.get {} t.mailboxes j = Bank.get {} s.mailboxes j)
    box 0 (if m.isOpen then m else { m with base := v.extractLsb' 12 52 })
    ∧ (let slots : BitVec 16 := if m.isOpen then m.slots else v.setWidth 16
      let now := v.getLsbD 16 && decide (1 ≤ slots.toNat ∧ slots.toNat ≤ 4096)
      box 1 { m with vec := v.extractLsb' 26 6, ien := v.getLsbD 17, slots := slots, isOpen := now,
                     prod := if m.isOpen && !now then 0 else m.prod, cons := if m.isOpen && !now then 0 else m.cons,
                     seq := if now && !m.isOpen then 0 else m.seq })
    ∧ box 2 m ∧ box 3 { m with cons := v.setWidth 32 })
  ∧ (s.portHeld = [] →
    (let w := s.sendWin
      let i : Instr := .sendWindowGo req
      let writes := posted i
      let named (m : Msg) := m.host = true ∧ m.peer = none ∧ m.vec = false ∧ m.dst = (w.dest.extractLsb' 0 16).toNat ∧ m.toHost = false
        ∧ m.toPeer = none ∧ m.cls = (w.dest.extractLsb' 16 6).toNat ∧ m.asid = w.asid.toNat ∧ m.re = false ∧ m.len = 64
        ∧ m.payload = w.pay.setWidth 4096
      let rest (t : State) := Same (fun x : State => { x with sendWin := {}, portHeld := [], flight := [] }) s t
      (sendable w.dest.toNat s.pkgNo = true → Completes i s (fun t => t.sendWin = { w with sent := w.sent + 1 } ∧ rest t
        ∧ ∃ m, named m ∧ (writes = [] → t.portHeld = [] ∧ t.flight = s.flight.erase i ++ [
              if m.cls = 63 ∧ m.dst < 768 ∧ m.dst % 8 = 0 then .launchMessage m else .messageArrival m])
          ∧ (writes ≠ [] → t.portHeld = [⟨req, writes, .message m⟩] ∧ t.flight = s.flight.erase i)))
      ∧ (sendable w.dest.toNat s.pkgNo = false → gives i (fun x => { x with sendWin := {} }) (fun t =>
          t.sendWin = { w with snderr := if w.snderr = 0xFFFFFFFF then w.snderr else w.snderr + 1 })))
    ∧ (∀ (relaxed : Bool) (held : Option (Nat × Nat)), let i : Instr := .syncWindowRead ⟨req, relaxed, held⟩
      let y := (held.map (·.2)).getD y
      (earlier i).all (fun j => !windowWrite req j) = true →
        gives i (fun x => { x with answers := [], logRefusal := [] }) (fun t =>
          t.answers = s.answers ++ [Answer.value req (if s.noSync y then 0 else s.syncAt y)]
          ∧ t.logRefusal = if s.noSync y then keepNewest 1024 (s.logRefusal ++ [LogRecord.refusal 5 y]) else s.logRefusal))
    ∧ ∀ add : Bool, let i : Instr := if add then .addWrite req v else .valWrite req v
      let writes := posted i
      let new := if add then s.syncAt y + v else v
      (s.noSync y = true → gives i (fun x => { x with logRefusal := [] }) (fun t =>
        t.logRefusal = keepNewest 1024 (s.logRefusal ++ [LogRecord.refusal 5 y])))
      ∧ (s.noSync y = false → writes ≠ [] → gives i (fun x => { x with portHeld := [] }) (fun t =>
        t.portHeld = [⟨req, writes, if add then .syncAdd y v else .syncSet y v⟩]))
      ∧ (s.noSync y = false → writes = [] → Completes i s (fun t => t.syncAt y = new ∧ (∀ m, m ≠ y → t.syncAt m = s.syncAt m)
        ∧ t.syncOld = (if add then s.syncAt y else s.syncOld) ∧ (∀ d < 12, d ≠ syncHome y → .syncMirrorUpdate d y new ∈ t.flight)
        ∧ Same (fun x : State => { x with sync := [], mirror := [], syncOld := 0, flight := [] }) s t)))

/-- The host's memory and the package's (R349–R353, R380, Tables 19.9, 21.3). A BAR2 read inside the window and device
HBM, with no earlier write of its requester on its way, delivers the bytes with their poison; outside it is unsupported.
A BAR2 write, which without the relaxed-ordering attribute passes no earlier one to its line, stores its bytes and no
other; a frozen frame's, and those above device HBM, are discarded and logged. The model's choices: a read or write of
several lines is one step (log 36), a held access keeps the place that it named when it arrived (log 69), the kinds 0, 1
and 4 of refusal records (log 25), and the AER records (log 70). A load of the host window completes with host memory's
bytes or raises access-target or poison-consumed, and a copy's read gives it the bytes of a line or faults it. A mailbox
message takes the next slot of an open class that is not full and raises its vector; another one goes to its sender's
dead-message area, if that has one and it is not full: its record is written at the place that PROD names, and PROD
rises by 1 (R369). A sender without an area for the address space keeps no record, which is the model's choice (log 20). -/
def Obligations.HostMemoryResult : Prop := ∀ (s : State) (req off : Nat), let pa := s.apbase.toNat * 2 ^ 30 + off
  let memory (x : State) : State :=
    { x with hbm := [], wts := [], rts := [], poison := [], annex := [], cat := [], combine := [], flight := [] }
  let earlier (i : Instr) := (s.flight.takeWhile (fun j => decide (j ≠ i))).filter (writeOf req)
  let refuses (k a : Nat) := keepNewest 1024 (s.logRefusal ++ [LogRecord.refusal k a])
  (∀ (relaxed : Bool) (held : Option (Nat × Nat)), let pr : PortReq := ⟨req, relaxed, held⟩
    -- a held access keeps the place that it named when it arrived
    let pa := (held.map (·.2)).getD pa
    let up (len : Nat) : Prop := s.up = true ∧ s.hostLink = true ∧ (held = none → off + len ≤ 2 ^ s.bar2)
    let answered (i : Instr) (a : Answer) (aer : List AerRecord) (log : List LogRecord) := Completes i s (fun t =>
      t.answers = s.answers ++ [a] ∧ t.aer = s.aer ++ aer ∧ t.logRefusal = log ∧ t.flight = s.flight.erase i
      ∧ Same (fun x : State => { x with answers := [], aer := [], logRefusal := [], flight := [] }) s t)
    let discarded (i : Instr) (aer : List AerRecord) (log : List LogRecord) := Completes i s (fun t => t.aer = s.aer ++ aer
      ∧ t.logRefusal = log ∧ t.flight = s.flight.erase i ∧ Same (fun x : State => { x with aer := [], logRefusal := [], flight := [] }) s t)
    (∀ len, let i : Instr := .hostBar2Read pr off len
      (up len → pa + len ≤ s.hbmLimit → earlier i = [] → s.readBusy pa len = false → s.bitErrors = [] →
        let bad := poisoned s.poison pa len
        ∃ d : List (BitVec 8), d.length = len ∧ (∀ b < len, d[b]? = some (s.byteAt (.hbm (pa + b))))
          ∧ answered i (.bytes req d bad) (if bad then [.poisonedTlp req off len] else []) s.logRefusal)
      ∧ (up len → s.hbmLimit < pa + len → answered i (.unsupported req) [.unsupportedRequest req off len] (refuses 1 pa))
      ∧ (¬up len → answered i (.unsupported req) [.unsupportedRequest req off len] s.logRefusal))
    ∧ ∀ data : List (BitVec 8), let i : Instr := .hostBar2Write pr off data
      let n := data.length
      (¬up n → discarded i [] s.logRefusal)
      ∧ (up n → data ≠ [] → s.portHeld = [] → (relaxed = true ∨ (earlier i).all (fun j => !s.writesLine pa n j) = true) →
        (pa + n ≤ s.hbmLimit → (∀ b < n, s.frame (pa + b) = .plain ∧ s.settled ((pa + b) / 128) = true) → Completes i s (fun t =>
          (∀ b < n, some (t.byteAt (.hbm (pa + b))) = data[b]?) ∧ (∀ l, (∀ b < n, l ≠ .hbm (pa + b)) → t.byteAt l = s.byteAt l)
          ∧ t.flight = s.flight.erase i ∧ Same memory s t))
        ∧ (pa / 128 = (pa + n - 1) / 128 →
          (pa / 128 * 128 < s.hbmLimit → s.frame pa = .frozen → pa < s.hbmLimit →
            discarded i [.completerAbort req off n] (refuses 0 pa))
          ∧ (s.hbmLimit ≤ pa / 128 * 128 → discarded i [.unsupportedRequest req off n] (refuses 1 pa)))))
  ∧ (∀ (n : Nat) (h error : Bool) (a : Nat) (ea : Word) (rd : SReg) (sz : BitVec 2) (sx : Bool),
    let u : State := { s.take (.hostReadCompletion n (.context h) false) with cur := n, curH := h }
    ((s.core n).ctx h).wait = some (.remoteLoad (.host a) ea rd sz sx) →
    exec (.hostReadCompletion n (.context h) error) s = .next (
      if error ∨ s.hostLink = false then (u.setCtx { u.ctx with wait := none }).raise .accessTarget ea false
      else if poisoned s.hostPoison a (2 ^ sz.toNat) then (u.setCtx { u.ctx with wait := none }).raise .poisonConsumed ea false
      else u.setCtx ({ u.ctx with wait := none }.setX rd (extend sz sx (readBytes s.hostMem a (2 ^ sz.toNat)))).completed))
  ∧ (∀ (n ch tid a : Nat) (error : Bool) (tr : Transfer), s.transfer n ch tid = some tr → tr.fetch = some (a, none) →
    let i : Instr := .hostReadCompletion n (.copy ch tid) error
    (error = false → s.hostLink = true → Completes i s (fun t => (∀ l, t.byteAt l = s.byteAt l)
      ∧ ∃ (d : BitVec 1024) (p : BitVec 8), t.transfer n ch tid = some { tr with fetch := some (a, some (d, p)) }
        ∧ (∀ k < 128 - a % 128, d.extractLsb' (8 * k) 8 = s.byteAt (.host (a + k)))
        ∧ ∀ g < 8, p.getLsbD g = Bank.get false s.hostPoison (a / 128 * 8 + g)))
    ∧ (error = true ∨ s.hostLink = false → s.faulting n ch tid = false → Completes i s (fun t =>
      t.flight = s.flight.erase (.hostReadCompletion n (.copy ch tid) false) ++ [Instr.copyFault n ch tid .accessTarget]
      ∧ Same (fun x : State => { x with flight := [] }) s t)))
  ∧ ∀ m : Msg, s.flight.find? (sameBox m) = some (.mailboxMessage m) → m.len ≤ 512 →
    let b : Mailbox := Bank.get {} s.mailboxes m.cls
    let full : Prop := s.hostLink = false ∨ b.isOpen = false ∨ (b.prod - b.cons).toNat = b.slots.toNat
    let slot := b.base.toNat * 4096 + 544 * (b.prod.toNat % b.slots.toNat)
    (¬full → Completes (.mailboxMessage m) s (fun t => readBytes t.hostMem slot 8 = (senderWord m).toNat
      ∧ readBytes t.hostMem (slot + 8) 8 = m.stamp % 2 ^ 64 ∧ readBytes t.hostMem (slot + 16) 8 = m.len
      ∧ readBytes t.hostMem (slot + 24) 8 = (b.seq + 1).toNat
      ∧ (∀ k < m.len, t.byteAt (.host (slot + 32 + k)) = m.payload.extractLsb' (8 * k) 8)
      ∧ (∀ l, (∀ k < 32 + m.len, l ≠ .host (slot + k)) → t.byteAt l = s.byteAt l)
      ∧ Bank.get {} t.mailboxes m.cls = { b with prod := b.prod + 1, seq := b.seq + 1 }
      ∧ (∀ j, j ≠ m.cls → Bank.get {} t.mailboxes j = Bank.get {} s.mailboxes j)
      ∧ (let masked := (s.msixWord (2 * b.vec.toNat + 1)).getLsbD 32
        t.answers = s.answers ++ (if b.ien && !masked then [.msix b.vec.toNat] else [])
        ∧ t.msixPending = if b.ien && masked then s.msixPending ||| BitVec.twoPow 64 b.vec.toNat else s.msixPending)
      ∧ t.flight = s.flight.erase (.mailboxMessage m)
      ∧ Same (fun x : State => { x with hostMem := [], hostPoison := [], mailboxes := [], answers := [], msixPending := 0, flight := [] }) s t))
    ∧ (full → m.re = false → let lost (t : State) :=
        t.logRefusal = keepNewest 1024 (s.logRefusal ++ [LogRecord.refusal 4 m.cls]) ∧ t.flight = s.flight.erase (.mailboxMessage m)
      (Bank.find (s.core m.src).dead m.asid = none → Completes (.mailboxMessage m) s (fun t => lost t
        ∧ Same (fun x : State => { x with logRefusal := [], flight := [] }) s t))
      ∧ ∀ a, Bank.find (s.core m.src).dead m.asid = some a → (∀ i < Config.deadBytes, s.mpDie ((a + i) / 128) = none) →
        (s.deadProd a + 2 ^ 32 - s.deadCons a) % 2 ^ 32 ≠ 56 →
        let slot := deadSlot a (s.deadProd a)
        let record : DeadRecord :=
          { sender := senderWord m, stamp := m.stamp, tval := 0, pc := 0, len := m.len, cls := m.cls,
            code := Cause.messageOverflow.code, re := false, refused := false, replied := false, notRun := true, count := 0,
            payload := m.payload }
        Completes (.mailboxMessage m) s (fun t => lost t
          ∧ (∀ i < 576, t.byteAt (.hbm (slot + i)) = BitVec.ofNat 8 (record.image / 256 ^ i))
          ∧ (∀ i < 4, t.byteAt (.hbm (a + i)) = BitVec.ofNat 8 ((s.deadProd a + 1) / 256 ^ i))
          ∧ (∀ l, (∀ i < 576, l ≠ .hbm (slot + i)) → (∀ i < 4, l ≠ .hbm (a + i)) → t.byteAt l = s.byteAt l)
          ∧ Same (fun x : State => { memory x with logRefusal := [] }) s t))

/-- Peers (R108, R355–R358, R380). An access of an admitted package inside the peer window, with no earlier one of its
core to its lines still on the way, is performed: a load delivers bytes and poison, a store writes its bytes and is
acknowledged, an aligned atomic goes to its owner; another is refused on both sides and logged. A peer's message enters
the network in the address space of the peer table. An acknowledgement or an answer of a peer package ends the request
it names, and completes the load or answers the atomic that waits for it. The kinds 2 and 3 of refusal records (log 25),
an access performed and answered as a whole (log 36), and a message of class 63 refused like any other where its address
space has no overflow area (log 94) are the model's choices. -/
def Obligations.PeerResult : Prop := ∀ (s : State) (src : PeerSrc) (id off : Nat), let pkg := src.pkg
  let e : PeerEntry := Bank.get {} s.peers pkg
  let pa := s.exBase + off
  let answers (i : Instr) (a : List Answer) (t : State) := t.answers = s.answers ++ a ∧ t.flight = s.flight.erase i
  let quiet (t : State) := Same (fun x : State => { x with answers := [], flight := [], logRefusal := [] }) s t
  let ok (n : Nat) : Prop := e.admitted = true ∧ off + n ≤ s.exLen ∧ pa + n ≤ s.hbmLimit
  let refused (i : Instr) (addr : Nat) := Completes i s (fun t => answers i [.peerError pkg] t ∧ quiet t
    ∧ t.logRefusal = keepNewest 1024 (s.logRefusal ++ [LogRecord.refusal 2 addr]))
  let first (a : PeerAcc) : Prop := s.peerWaits pkg src.core (accRange a) (.peerAccess src a) = false
  (∀ len, let a : PeerAcc := .load off len
    let i : Instr := .peerAccess src a
    (ok len → first a → s.readBusy pa len = false → s.bitErrors = [] → Completes i s (fun t => quiet t ∧ t.logRefusal = s.logRefusal
        ∧ ∃ d, answers i [.peerData pkg d (poisoned s.poison pa len)] t ∧ d.length = len
          ∧ ∀ b < len, d[b]? = some (s.byteAt (.hbm (pa + b)))))
    ∧ (¬ok len → refused i off))
  ∧ (∀ data : List (BitVec 8 × Bool), let a : PeerAcc := .store id off data
    let i : Instr := .peerAccess src a
    (ok data.length → first a → (∀ b < data.length, s.frame (pa + b) = .plain ∧ s.settled ((pa + b) / 128) = true) → data ≠ [] →
      Completes i s (fun t => (∀ b < data.length, some (t.byteAt (.hbm (pa + b))) = (data[b]?).map (·.1))
        ∧ (∀ l, (∀ b < data.length, l ≠ .hbm (pa + b)) → t.byteAt l = s.byteAt l) ∧ answers i [.peerAck pkg id] t
        ∧ Same (fun x : State => { x with hbm := [], wts := [], rts := [], poison := [], annex := [], cat := [], combine := [],
                                          flight := [], answers := [] }) s t))
    ∧ (¬ok data.length ∨ first a ∧ data ≠ [] ∧ s.frame pa = .frozen → refused i off))
  ∧ (∀ (fn : BitVec 4) (dbl : Bool) (b cmp : Word), let a : PeerAcc := .atomic off fn dbl b cmp
    let i : Instr := .peerAccess src a
    let n := if dbl then 8 else 4
    (ok n → first a → off % n = 0 → Completes i s (fun t => quiet t ∧ t.answers = s.answers
      ∧ ∃ r, t.flight = s.flight.erase i ++ [Instr.farAtomicStep r] ∧ r.loc = .hbm pa ∧ r.owner = s.owner (.hbm pa) ∧ r.fn = fn
        ∧ r.dbl = dbl ∧ r.b = b ∧ r.cmp = cmp ∧ r.reply = true ∧ r.peer = some pkg ∧ r.src = src.core ∧ r.asid = e.asid))
    ∧ (¬ok n ∨ first a ∧ off % n ≠ 0 → refused i off))
  ∧ (∀ m : Msg, let i : Instr := .peerMessage pkg m
    let space := (Bank.find (s.core m.dst).overflow e.asid).isSome
    let m' : Msg := { m with peer := some pkg, host := false, asid := e.asid, toPeer := none, toHost := false }
    (e.admitted = true → m.dst < 780 → space = true → Completes i s (fun t => quiet t ∧ t.answers = s.answers
      ∧ t.flight = s.flight.erase i ++ [if m.cls = 63 ∧ m.dst < 768 ∧ m.dst % 8 = 0 then .launchMessage m' else .messageArrival m']))
    ∧ (e.admitted = false ∨ 780 ≤ m.dst ∨ space = false → refused i m.dst))
  ∧ ∀ (n : Nat) (h : Bool) (ch tid p k : Nat) (a : PeerAcc) (ask : PeerAsk), s.peerOut.find? (fun e => e.1 == id) = some (k, p, a, ask) →
    let out := s.peerOut.filter (fun e => e.1 != id)
    (∀ (no : Bool) (x : Nat) (o : Nat) (d : List (BitVec 8 × Bool)), a = .store x o d → ask = .context n h →
      let i : Instr := .peerWriteAck id no
      Completes i s (fun t => t.peerOut = out ∧ answers i [] t
        ∧ t.logRefusal = (if no then keepNewest 1024 (s.logRefusal ++ [LogRecord.refusal 3 o]) else s.logRefusal)
        ∧ Same (fun x : State => { x with peerOut := [], flight := [], logRefusal := [] }) s t))
    ∧ (∀ (reply : PeerReply) (x len : Nat) (loc : Nat × Nat) (ea : Word) (rd : SReg) (sz : BitVec 2) (sx : Bool),
      a = .load x len → ask = .context n h → ((s.core n).ctx h).wait = some (.remoteLoad (.peer loc.1 loc.2) ea rd sz sx) →
      let i : Instr := .peerCompletion id reply
      let u : State := { s.take i with peerOut := out, cur := n, curH := h }
      let failed (c : Cause) := (u.setCtx { u.ctx with wait := none }).raise c ea false
      exec i s = .next (match reply with
        | .data d p => if p.getLsbD (x % 128 / 16) then failed .poisonConsumed
          else u.setCtx ({ u.ctx with wait := none }.setX rd (extend sz sx (d.toNat % 256 ^ 2 ^ sz.toNat))).completed
        | .failed _ => failed .accessTarget))
    ∧ (∀ (d : BitVec 1024) (p : BitVec 8) (x len : Nat) (f : Nat × Option (BitVec 1024 × BitVec 8)) (tr : Transfer), a = .load x len → ask = .copy n ch tid →
      s.transfer n ch tid = some tr → tr.fetch = some f → let i : Instr := .peerCompletion id (.data d p)
      Completes i s (fun t => t.peerOut = out ∧ answers i [] t ∧ t.transfer n ch tid = some { tr with fetch := some (f.1, some (d, p)) }
        ∧ ∀ l, t.byteAt l = s.byteAt l))
    ∧ ∀ (reply : PeerReply) (o : Nat) (fn : BitVec 4) (dbl : Bool) (b cmp : Word) (r : FarReq), a = .atomic o fn dbl b cmp →
      ask = .far r → let i : Instr := .peerCompletion id reply
      Completes i s (fun t => t.peerOut = out ∧ t.flight = s.flight.erase i ++ (if r.reply then [.farAtomicReply r (match reply with
          | .data d _ => .old (if r.dbl then d.setWidth 64 else (d.setWidth 32 : BitVec 32).signExtend 64)
          | .failed c => .failed c)] else [])
        ∧ Same (fun x : State => { x with peerOut := [], flight := [] }) s t)

/-- The debugger (R371, R381, Tables 18.6, 23.1). DEBUG_HALT of a core at U that runs no chunk and no handler and whose
wait may be interrupted halts it in place; it keeps a barrier's wait and drops the others. RELEASE lets it go on.
READ_STATE gives and WRITE_STATE sets the named scalar, condition, vector, predicate or system register, program
counter, scratchpad byte, or code, position, scale, descriptor or shape of a stationary plane of a halted core; of
another core they give and set nothing. So it is while the package is neither in recovery (R386) nor in a recovery
sequence (R381). How a selector packs a plane's KIND and shape into a word is the model's choice (log 60). -/
def Obligations.DebuggerResult : Prop := ∀ (s : State) (n : Nat) (h : Bool) (v : Word), n < 780 →
  s.recovery = false → s.inSequence = false →
  let c := s.core n
  let x := c.ctx h
  let wakes := Instr.haltEvent (768 + dieOf n)
  let others (t : State) := (∀ k, k ≠ n → t.core k = s.core k)
  let quiet (t : State) := others t ∧ Same (fun y : State => { y with cores := [], flight := [] }) s t
  (c.halted = false → c.fenced = false → c.prv = false → c.run = none → s.chunkOn n = none →
    (∀ w, c.main.wait = some w → w.mustEnd = false) → Completes (.debugHalt n) s (fun t => quiet t
      ∧ t.core n = { c with halted := true, haltReq := true, main := { c.main with
            issued := false, stamped := false, wait := match c.main.wait with
              | some (.ybar y g) => some (.ybar y g) | some .join => some .join | some .halt => some .halt | _ => none } }
      ∧ t.flight = s.flight.erase (.debugHalt n) ++ (if c.haltReq then [] else [wakes])))
  ∧ (c.halted = false → c.run.isSome = true → s.chunkOn n = none → Completes (.debugHalt n) s (fun t => quiet t
      ∧ t.core n = { c with haltReq := true }))
  ∧ Completes (.release n) s (fun t => quiet t ∧ t.core n = { c with halted := false, haltReq := false }
      ∧ t.flight = s.flight.erase (.release n) ++ (if c.prv then [.haltEvent n] else []))
  ∧ (let reads (sel : StateSel) (d : BitVec 4096) := Completes (.readState n sel) s (fun t =>
        t.answers = s.answers ++ (if c.halted then [.state d] else []) ∧ t.flight = s.flight.erase (.readState n sel)
        ∧ Same (fun y : State => { y with answers := [], flight := [] }) s t)
    (∀ r : SReg, reads (.scalar h r.toNat) ((x.x r).setWidth 4096))
    ∧ (∀ k : KReg, reads (.cond h k.toNat) (if x.kb k then 1 else 0))
    ∧ (∀ (r : VReg) j, j < 64 → reads (.vectorWord h r.toNat j) (((x.vr r).extractLsb' (64 * j) 64).setWidth 4096))
    ∧ (∀ (r : PReg) j, j < 16 → reads (.predWord h r.toNat j) (((x.pr r).extractLsb' (64 * j) 64).setWidth 4096))
    ∧ reads (.pc h) (x.pc.setWidth 4096)
    ∧ (∀ off, reads (.scratchByte off) ((s.byteAt (.scratch n off)).setWidth 4096))
    ∧ (∀ (a : Bool) i j, let p := if a then c.active else c.shadowPlane
      reads (.planeValue a i j) (BitVec.ofNat 4096 (Bank.get 0 p.vals (i * 64 + j)))
      ∧ reads (.planePos a i j) (BitVec.ofNat 4096 (Bank.get 0 p.pos (i * 64 + j)))
      ∧ reads (.planeDesc a i j) (BitVec.ofNat 4096 (Bank.get 0 p.desc (i * 64 + j)))
      ∧ reads (.planeShape a) (BitVec.ofNat 4096 ((match p.kind with
          | .empty => 0 | .plain => 1 | .sparse2 => 2 | .sparse4 => 3 | .block => 4 | .aq => 5)
        + p.fmt % 256 * 2 ^ 8 + p.pk % 256 * 2 ^ 16 + p.pn % 256 * 2 ^ 24 + p.group % 256 * 2 ^ 32)))
    ∧ reads (.system 0x028) (c.lease.setWidth 4096) ∧ reads (.system 0x801) (c.epc.setWidth 4096))
  ∧ (let sets (sel : StateSel) (P : State → Prop) := Completes (.writeState n sel v) s (fun t =>
        (c.halted = true → P t) ∧ (c.halted = false → t.cores = s.cores) ∧ quiet t ∧ t.flight = s.flight.erase (.writeState n sel v))
    let side (t : State) (d : Ctx) := t.core n = c.setCtx h d
    let y (t : State) := (t.core n).ctx h
    (∀ r : SReg, r ≠ 0 → sets (.scalar h r.toNat) (fun t => side t { x with s := (y t).s } ∧ (y t).x r = v
      ∧ ∀ q, q ≠ r → (y t).x q = x.x q))
    ∧ (∀ k : KReg, sets (.cond h k.toNat) (fun t => side t { x with k := (y t).k } ∧ (y t).kb k = v.getLsbD 0
      ∧ ∀ q, q ≠ k → (y t).kb q = x.kb q))
    ∧ (∀ (r : VReg) j, j < 64 → sets (.vectorWord h r.toNat j) (fun t =>
        side t { x with v := (y t).v, vdirty := x.vdirty ||| BitVec.twoPow 32 r.toNat } ∧ (∀ q, q ≠ r → (y t).vr q = x.vr q)
        ∧ ∀ i < 64, ((y t).vr r).extractLsb' (64 * i) 64 = if i = j then v else (x.vr r).extractLsb' (64 * i) 64))
    ∧ (∀ (r : PReg) j, j < 16 → sets (.predWord h r.toNat j) (fun t =>
        side t { x with p := (y t).p } ∧ (∀ q, q ≠ r → (y t).pr q = x.pr q)
        ∧ ∀ i < 16, ((y t).pr r).extractLsb' (64 * i) 64 = if i = j then v else (x.pr r).extractLsb' (64 * i) 64))
    ∧ sets (.pc h) (fun t => side t { x with pc := v &&& ~~~1 })
    ∧ (∀ off, off < 0x80000 → sets (.scratchByte off) (fun t => t.byteAt (.scratch n off) = v.setWidth 8
        ∧ (t.core n).regs = c.regs ∧ ∀ l, l ≠ .scratch n off → t.byteAt l = s.byteAt l))
    ∧ (∀ (a : Bool) row col, row < 64 → col < 64 →
      let p (c : Core) := if a then c.active else c.shadowPlane
      let plane (t : State) (q : Plane) := p (t.core n) = { q with check := (p (t.core n)).check }
        ∧ t.core n = if a then { c with active := (t.core n).active } else { c with shadowPlane := (t.core n).shadowPlane }
      let put (new old : Bank Nat) := Bank.get 0 new (row * 64 + col) = v.toNat
        ∧ ∀ k, k ≠ row * 64 + col → Bank.get 0 new k = Bank.get 0 old k
      sets (.planeValue a row col) (fun t => put (p (t.core n)).vals (p c).vals ∧ plane t { p c with vals := (p (t.core n)).vals })
      ∧ sets (.planePos a row col) (fun t => put (p (t.core n)).pos (p c).pos ∧ plane t { p c with pos := (p (t.core n)).pos })
      ∧ sets (.planeDesc a row col) (fun t => put (p (t.core n)).desc (p c).desc ∧ plane t { p c with desc := (p (t.core n)).desc })
      ∧ sets (.planeShape a) (fun t => plane t { p c with kind := (p (t.core n)).kind, fmt := v.toNat / 2 ^ 8 % 256, pk := v.toNat / 2 ^ 16 % 256, pn := v.toNat / 2 ^ 24 % 256, group := v.toNat / 2 ^ 32 % 256 }
          ∧ ((p (t.core n)).kind = .plain ↔ v.toNat % 256 = 1) ∧ ((p (t.core n)).kind = .sparse2 ↔ v.toNat % 256 = 2)
          ∧ ((p (t.core n)).kind = .sparse4 ↔ v.toNat % 256 = 3) ∧ ((p (t.core n)).kind = .block ↔ v.toNat % 256 = 4)
          ∧ ((p (t.core n)).kind = .aq ↔ v.toNat % 256 = 5)))
    ∧ sets (.system 0x028) (fun t => t.core n = { c with lease := if v.toNat % 65536 = 0 then 1 else v.setWidth 16 })
    ∧ sets (.system 0x801) (fun t => t.core n = { c with epc := v &&& ~~~1 }))

/-- Logs, scrubbing, temperature, power, attestation and firmware (R377–R379, R381, R386–R390, Tables 23.1, 23.2). A log
is read by record and cleared, but for the drop log; a scrub of a place with one error corrects and counts it, or, where
ECC only detects it or a ninth burst fails, poisons what the read covers; up to 8 retries are logged; and no byte
changes; a frame of 64 corrections is reported. Temperatures set the rate, stop the clock at 115 °C and end all launches
there; a die's budget stays within the cap. The security counter rises only without a machine error, images are replaced
in recovery only, a good pair brings the package up with zero scratchpads, and a module reset keeps what is stored,
fused or outside. Management requests take effect outside recovery (R386) and outside recovery sequences (R381). The
model's choices: a POWER_LIMIT out of range is ignored and the clock stays stopped until a reset (log 60), the words of
the capability chain at its frame (log 10), the kinds of machine records (log 25), the package's number and its peer
setup as input data (log 77), and the values after a module reset that no table gives (log 7, log 34). -/
def Obligations.ManagementResult : Prop := ∀ s : State,
  let free : Prop := s.recovery = false ∧ s.inSequence = false
  let gives (i : Instr) (blank : State → State) (P : State → Prop) :=
    Completes i s (fun t => P t ∧ t.flight = s.flight.erase i ∧ Same (fun x : State => { blank x with flight := [] }) s t)
  let bytes (t : State) := ∀ l, t.byteAt l = s.byteAt l
  let noted (u k a : Nat) := keepNewest 4096 (s.logMachine ++ [LogRecord.machine u k a])
  (free → (∀ k n, let log : List LogRecord := match k with
      | .machine => s.logMachine | .launch => s.logLaunch | .refusal => s.logRefusal | .drop => s.logDrop
    gives (.readLog k n) (fun x => { x with answers := [] }) (fun t => t.answers = s.answers ++ [Answer.record log[n]?]))
  ∧ gives (.clearLog .machine) (fun x => { x with logMachine := [] }) (fun t => t.logMachine = [])
  ∧ gives (.clearLog .launch) (fun x => { x with logLaunch := [] }) (fun t => t.logLaunch = [])
  ∧ gives (.clearLog .refusal) (fun x => { x with logRefusal := [] }) (fun t => t.logRefusal = [])
  ∧ gives (.clearLog .drop) id (fun _ => True))
  ∧ (∀ loc, let rest := s.bitErrors.filter (fun e => decide (e.1 ≠ loc))
    let found := s.bitErrors.filter (fun e => decide (e.1 = loc))
    let poisons (e : ReadError) : Prop := e = .uncorrectable ∨ ∃ k, e = .crc k ∧ 8 < k
    (found = [] → gives (.patrolScrub loc) id (fun _ => True))
    ∧ (∀ pa e, loc = .hbm pa → found = [(loc, e)] →
        (poisons e → gives (.patrolScrub loc) (fun x => { x with bitErrors := [], poison := [], logMachine := [] })
          (fun t => t.bitErrors = rest ∧ t.logMachine = noted (s.homeOf pa) 1 pa ∧ bytes t
            ∧ ∀ g, Bank.get false t.poison g = (decide (g / 4 = pa / 64) || Bank.get false s.poison g)))
        ∧ (e = .corrected → gives (.patrolScrub loc) (fun x => { x with bitErrors := [], corrections := [], logMachine := [] })
          (fun t => t.bitErrors = rest ∧ t.logMachine = noted (s.homeOf pa) 0 pa ∧ bytes t
            ∧ ∀ f, Bank.get 0 t.corrections f = Bank.get 0 s.corrections f + if f = pa / 65536 then 1 else 0))
        ∧ (∀ k ≤ 8, e = .crc k → gives (.patrolScrub loc) (fun x => { x with bitErrors := [], logMachine := [] })
          (fun t => t.bitErrors = rest ∧ t.logMachine = noted (s.homeOf pa) 3 pa ∧ bytes t)))
    ∧ ∀ n off e, loc = .scratch n off → found = [(loc, e)] → poisons e → Completes (.patrolScrub loc) s (fun t => bytes t
        ∧ t.bitErrors = rest ∧ t.logMachine = noted n 1 off
        ∧ (∀ g, Bank.get false (t.core n).scratchPoison g = (decide (g = off / 16) || Bank.get false (s.core n).scratchPoison g))
        ∧ ∀ k, (t.core k).regs = (s.core k).regs))
  ∧ (∀ f, (64 ≤ Bank.get 0 s.corrections f → gives (.frameReport f) (fun x => { x with reported := [], corrections := [], logMachine := [] })
        (fun t => t.reported = s.reported ++ [f] ∧ t.logMachine = noted (s.homeOf (f * 65536)) 5 (f * 65536)
          ∧ ∀ g, Bank.get 0 t.corrections g = if g = f then 0 else Bank.get 0 s.corrections g))
      ∧ (Bank.get 0 s.corrections f < 64 → gives (.frameReport f) id (fun _ => True)))
  ∧ (∀ die c, die < 12 → Completes (.temperatureReport die c) s (fun t =>
      (∀ d, Bank.get 0 t.temperature d = if d = die then c else Bank.get 0 s.temperature d)
      ∧ (∀ d, t.halfRate.contains d = if d = die then decide (105 ≤ c) else s.halfRate.contains d)
      ∧ (∀ d, d ≠ die → Bank.get 0 t.budget d = Bank.get 0 s.budget d)
      ∧ (c < 95 → t.budget = s.budget) ∧ (95 ≤ c → 0 < Bank.get 0 s.budget die → Bank.get 0 t.budget die < Bank.get 0 s.budget die)
      ∧ t.clockStopped = (s.clockStopped || decide (115 ≤ c))
      ∧ (115 ≤ c → t.logMachine = noted die 4 c ∧ ∀ g < 96, (t.ring g).queue = [] ∧ (t.ring g).saved = []
          ∧ (t.ring g).running = (s.ring g).running ∧ ∀ l, (s.ring g).running = some l → .endLaunch g l.pkt.prio ∈ t.flight)
      ∧ (c < 115 → t.flight = s.flight.erase (.temperatureReport die c) ++ (if 95 ≤ c then [Instr.haltEvent (768 + die)] else [])
          ∧ t.logMachine = s.logMachine ∧ t.rings = s.rings ∧ t.logLaunch = s.logLaunch)
      ∧ Same (fun x : State => { x with temperature := [], halfRate := [], budget := [], choice := [], choices := 0, clockStopped := false, flight := [],
                                        logMachine := [], rings := [], logLaunch := [] }) s t))
  ∧ (∀ die w, die < 12 → Completes (.powerBudget die w) s (fun t =>
      Bank.get 0 t.budget die = Nat.min w (s.powerCap - (s.budget.filter (fun e => e.1 != die)).foldl (fun n e => n + e.2) 0)
      ∧ (∀ d, d ≠ die → Bank.get 0 t.budget d = Bank.get 0 s.budget d)
      ∧ t.flight = s.flight.erase (.powerBudget die w) ++ [Instr.haltEvent (768 + die)]
      ∧ Same (fun x : State => { x with budget := [], flight := [] }) s t))
  ∧ (∀ w, free → gives (.powerLimit w) (fun x => { x with powerCap := 0 }) (fun t =>
      t.powerCap = if 1200 ≤ w ∧ w ≤ 2600 then w else s.powerCap))
  ∧ (∀ n, gives (.securityCounter n) (fun x => { x with security := 0, machineError := false }) (fun t => s.security ≤ t.security
      ∧ t.machineError = false
      ∧ t.security = if s.machineError = false ∧ s.up = true ∧ (n = s.registrarImage.version ∨ n = s.curatorImage.version) ∧ n < 64 then Nat.max s.security n
          else s.security))
  ∧ (let asks (r : SpdmReq) (P : List Answer → Prop) := gives (.spdmRequest r) (fun x => { x with answers := [] }) (fun t =>
        ∃ l, t.answers = s.answers ++ l ∧ P l)
    (free → ∀ block slot nonce,
      asks (.measurement block nonce) (fun l => if 1 ≤ block ∧ block ≤ 6 then
          ∃ d, l = [Answer.measurement block d (Config.spdmSignature [block, nonce, d.toNat])] else l = [])
      ∧ asks (.certificate slot) (fun l => l = if slot = 0 then [Answer.certificate Config.certificateChain] else [])
      ∧ asks (.challenge slot nonce) (fun l => if slot = 0 then
          ∃ d, l = [Answer.challenge d (Config.spdmSignature [0, nonce, d.toNat])] else l = []))
    ∧ (s.recovery = true → ∀ r, asks r (fun l => l = [])))
  ∧ (∀ img : FirmwareImage, gives (.firmwareImageUpdate img) (fun x => { x with registrarImage := img, curatorImage := img, recovery := false })
      (fun t => let use := s.recovery && s.imageOk img
        t.registrarImage = (if use && !img.curator then img else s.registrarImage)
        ∧ t.curatorImage = (if use && img.curator then img else s.curatorImage)
        ∧ t.recovery = (s.recovery && !(use && s.imageOk t.registrarImage && s.imageOk t.curatorImage))))
  ∧ (s.up = false → s.recovery = false →
      let good := s.imageOk s.registrarImage && s.imageOk s.curatorImage
      (good = false → gives .powerOn (fun x => { x with recovery := false }) (fun t => t.recovery = true))
      ∧ (good = true → s.faultyCompute = [] → s.faultyMemory = [] → s.dropped = [] → s.fullDropped = [] →
        s.mpDie (s.capsFrame / 128) = none → Completes .powerOn s (fun t => t.up = true ∧ t.recovery = false
          ∧ t.homeMap = [] ∧ t.striped = [] ∧ t.qmap = [] ∧ t.vit = [] ∧ t.pkgNo = s.pkgAssigned ∧ t.machineError = false
          ∧ t.exBase = s.exAssigned.1 * 0x20000000 ∧ t.exLen = s.exAssigned.2 * 0x20000000 ∧ t.peers = s.peersAssigned
          ∧ (∀ n, t.core n = { s.core n with scratch := [], scratchPoison := [], active := {}, shadowPlane := {} })
          ∧ (∀ g, t.ring g = { s.ring g with lastAsid := none }) ∧ t.flight = s.flight.erase .powerOn
          ∧ (∀ b, b < 6 → t.deviceBytes (t.capsFrame + 8 * b) 8 = 0x801010001 + b) ∧ ∀ a, t.byteAt (.host a) = s.byteAt (.host a))))
  ∧ Completes .moduleReset s (fun t => t = { State.reset with
      agenda := s.agenda, choice := s.choice, choices := s.choices, hostMem := s.hostMem, hostPoison := s.hostPoison, pkgAssigned := s.pkgAssigned, answers := s.answers
      exAssigned := s.exAssigned, peersAssigned := s.peersAssigned, dropped := s.dropped, fullDropped := s.fullDropped, restorable := s.dropped.map (·.1), faultyCompute := s.faultyCompute, faultyMemory := s.faultyMemory
      logMachine := s.logMachine, logLaunch := s.logLaunch, logRefusal := s.logRefusal, logDrop := s.logDrop, logDead := s.logDead
      security := s.security, registrarImage := s.registrarImage, curatorImage := s.curatorImage, recovery := s.recovery })

/-- Decode of encode (R48–R64, Tables 3.2–3.15): the word that the encoder writes for a well-formed instruction, with every
operand at every value its encoding admits, decodes to that instruction, with its length. The four operations of the
context-save engine share one word, since the operation stands in the command (Table 18.5). -/
def Obligations.DecodeEncode : Prop := ∀ (i : Instr) (n w : Nat), i.wellFormed = true → encode i = some (n, w) →
  (n = 16 ∨ n = 32) ∧ w < 2 ^ n
  ∧ ((∀ rs, i ≠ .save rs ∧ i ≠ .restore rs ∧ i ≠ .abort rs) →
      decodeTableWord n w = some i ∧ decodeBytes (leBytes (n / 8) w) = .instr i (n / 8))
  ∧ ∀ rs, i = .save rs ∨ i = .restore rs ∨ i = .abort rs → decodeTableWord n w = some (.stop rs)

/-- Encode of decode: bytes that decode to an instruction are the bytes that the encoder writes for it, and no field of it
holds a reserved value; no bit of an instruction is without meaning (R50, R64). -/
def Obligations.EncodeDecode : Prop := ∀ (w len : Nat) (i : Instr), w < 2 ^ 32 → decodeBytes (leBytes 4 w) = .instr i len →
  encode i = some (8 * len, w % 2 ^ (8 * len)) ∧ i.wellFormed = true ∧ (len = if w / 2 ^ 14 % 4 = 3 then 4 else 2)

/-- Words written out from the encoding tables, one for each of several families, decode to the instructions they stand
for; reserved and permanently illegal encodings do not decode (R48, R50, R51). -/
def Obligations.DecodeWords : Prop :=
  decodeTableWord 32 0x1870C114 = some (.add false 5 6 7)
  ∧ decodeTableWord 16 0x005F = some (.cAddi 5 0xF)
  ∧ decodeTableWord 32 0x088DEC22 = some (.vfmacc false 3 4 1 2)
  ∧ decodeTableWord 32 0x0FFFC81F = some (.addi 7 3 0xFFF)
  ∧ decodeTableWord 32 0x0420D502 = some (.beq 1 2 2)
  ∧ decodeTableWord 32 0x0C01DF13 = some (.st 3 4 3 1)
  ∧ decodeTableWord 32 0x1001E508 = some (.yld 0x1001 2)
  ∧ decodeTableWord 32 0x1050FA00 = some (.mld 4 5)
  ∧ decodeTableWord 32 0x2400FC00 = some (.fork 9)
  ∧ decodeTableWord 32 0x0836FC04 = some (.frz 1 2 3)
  ∧ decodeTableWord 32 0x0480FD00 = some (.send 1 8)
  ∧ decodeTableWord 32 0x0120FE0C = some (.sysrd 0x012 3)
  ∧ decodeTableWord 16 0x4000 = some .cNop
  ∧ decodeTableWord 16 0x4083 = some (.cMv 2 3)
  ∧ decodeTableWord 32 0x0006FE00 = some .nop
  ∧ decodeTableWord 32 0x0005FE00 = some .halt
  ∧ decodeBytes [0, 0, 0, 0] = .permanentlyIllegal 2
  ∧ decodeBytes [0, 0xFF, 0, 0] = .permanentlyIllegal 4
  ∧ decodeBytes [0xA7, 0xC0, 0, 0] = .reserved 4
  ∧ decodeBytes [4, 0xC1, 0x30] = .truncated

/-- A step runs the decoded instruction (R49, R201, R243; steps 1 to 3 of Table 22.3). The context that the agenda names
may issue, its core's scalar unit and walker meet no upset and its reads no error, a chunk in it has no held cause and
no step to perform first, and a handler has budget; its program counter translates for a fetch to clean bytes of device
memory that decode to `i`, which names no register it lacks, is no instruction other than join at a region's join, and
waits for no live-in. Then the step is `i` executed in that context, with the translation kept and the instruction line,
for which a full L1 gives up another, the handler's count one higher, and a chunk's answered probes dropped. An event of
the agenda is executed as it stands. The agenda (log 1), and an instruction L1 of 512 lines in one set that keeps its
lines until iinv and whose victim is open (log 14), are the model's choices. -/
def Obligations.StepRunsDecoded : Prop := ∀ (s : State) (rest : List Act),
  (∀ (n : Nat) (h : Bool) (pa d len : Nat) (i : Instr) (tlb tlb' : List TlbEntry), s.agenda = .run n h :: rest →
    let a : State := { s with agenda := rest, cur := n, curH := h }
    let u : State := if a.ctx.issued then a else a.mapMyChunk (fun c => { c with probe := [], probing := none })
    let c := u.me
    let pc := u.ctx.pc
    let line := u.seenLine (dieOf n) (pa / 128)
    let old := Bank.find c.icache (pa / 128)
    let bad := u.seenPoison (dieOf n) (pa / 128)
    s.mayIssue n h = true → (∀ b, (s.core n).upset ≠ some (.scalar b) ∧ (s.core n).upset ≠ some (.walker b)) →
    s.bitErrors = [] → s.tagErrors = [] →
    (∀ k, a.chunk = some k → c.prv = true ∨ k.held = none ∧ k.stepFirst = false) →
    (h = true → u.ctx.issued = true ∨ ∀ r, c.run = some r → r.count < 512) →
    pc.toNat < Config.untranslated → (pc + 2).toNat < Config.untranslated → pa % 128 + 4 ≤ 128 → (old = none → touchesPoison bad (pa % 128) 4 = false) →
    resolveAt u n c.tlb c.asid.toNat c.ptbase.toNat u.atS .fetch pc.toNat = .ok (.hbm pa, tlb') →
    (len = 2 → tlb = tlb') →
    (len = 4 → resolveAt u n tlb' c.asid.toNat c.ptbase.toNat u.atS .fetch (pc + 2).toNat = .ok (.hbm (pa + 2), tlb)) →
    d = bits (old.getD line).toNat (8 * (pa % 128)) 32 →
    decodeBytes (leBytes 4 d) = .instr i len →
    beyondHandler u i = false → notJoin u i = false → awaitsLiveIns u i = [] →
    ∃ t, step s = exec i t ∧ t.me = { c with
        tlb := tlb, icache := t.me.icache
        run := if h && !u.ctx.issued then c.run.map (fun r => { r with count := r.count + 1 }) else c.run }
      ∧ (old.isSome = true ∨ bad ≠ 0 → t.me.icache = c.icache)
      ∧ (old = none → bad = 0 → c.icache.length < 512 → t.me.icache = Bank.put c.icache (pa / 128) line)
      ∧ (old = none → bad = 0 → 512 ≤ c.icache.length → ∃ k, t.me.icache = Bank.put (Bank.erase c.icache k) (pa / 128) line)
      ∧ (old.isSome = true ∨ bad ≠ 0 ∨ c.icache.length < 512 → t.choice = s.choice ∧ t.choices = s.choices)
      ∧ (∀ k, k ≠ n → t.core k = s.core k) ∧ Same (fun x : State => { x with cores := [], choice := [], choices := 0 }) u t)
  ∧ ∀ i, s.agenda = .event i :: rest → step s = exec i { s with agenda := rest }

/-- Reset (R20, R22, R389, Tables 1.3, 1.4, 17.6, 18.1): every context's registers and SEED as the tables give them,
checked issue on, LEASE 16, privilege U on ring cores and S on Curator cores, no region and no launch, TIMEOUT 100 and
QUANTUM 200; QMAP and the Vitrine empty, and no GO accepted yet. The model's choices: device memory lists nothing, so
that its bytes read 0 (log 8); no granule has a slot of its own (log 34); loop stacks, waits, launches and steps on
their way are empty (log 7). -/
def Obligations.ResetState : Prop := let s := State.reset
  (∀ n, let c := s.core n
    (∀ h, let x := c.ctx h
      x.vl = 0 ∧ x.vill = true ∧ x.ew = 0 ∧ x.vstart = 0 ∧ x.vdirty = 0 ∧ x.pixSel = 0 ∧ x.rndm = 0 ∧ x.fflags = 0
      ∧ x.seed = BitVec.ofNat 32 (0x10000 + n) ∧ x.done = 0xFFFFFFFF ∧ x.loops = [] ∧ x.wait = none)
    ∧ c.chk = true ∧ c.chkLock = false ∧ c.corr = 0 ∧ c.lease = 16 ∧ c.prv = decide (768 ≤ n) ∧ (∀ k, (c.chan k).doneId = 1)
    ∧ c.active.kind = .empty ∧ c.shadowPlane.kind = .empty ∧ c.run = none)
  ∧ (∀ g, (s.ring g).region = none ∧ (s.ring g).running = none ∧ (s.ring g).queue = [] ∧ (s.ring g).sqcnt = 0 ∧ (s.ring g).lastAsid = none)
  ∧ s.policyTimeout = 100 ∧ s.policyQuantum = 200 ∧ s.homeMap = [] ∧ s.qmap = [] ∧ s.vit = [] ∧ s.hbm = [] ∧ s.up = false
  ∧ s.flight = []

/-- Every step keeps memory in canonical form, from any state in which it is, reached or not: equal memories are equal
data. -/
def Obligations.MemoryStaysCanonical : Prop := ∀ s t : State, Memory.wf s = true → step s = .next t → Memory.wf t = true

/-- Every step keeps the package legal: the lists of cores, Annex lines, Vitrine entries and Catalogue entries in rising
order without repeats, and the live-ins of every region's record different registers that a live-in may name (R178, R182). -/
def Obligations.PackageStaysLegal : Prop := ∀ s t : State, s.Legal → step s = .next t → t.Legal

/-- Both invariants hold at reset. -/
def Obligations.InvariantsAtReset : Prop := Memory.wf State.reset = true ∧ State.reset.Legal

/-- Where the steps of the Vitrine, of commits and of the Catalogue complete, with the field or fields named here that each
sets (R184, R194–R196, R206, R230, R327–R333, R337–R343). Their whole effects and frames are those of the statements on the
Vitrine, on commits and on the Catalogue. -/
def Obligations.VitrineCommitCatalogueComplete : Prop :=
  (∀ (s : State) (rd rs1 rs2 : SReg) (fs : List Nat) (u : State) (i : Nat) (e : VitEntry), s.curH = false → s.speculative = false →
    let x := (s.ctx.x rs1).toNat
    let n := (s.ctx.x rs2).toNat
    let asid := s.me.asid.toNat
    let tk := Bank.get {} s.tickets asid
    (e.st = .active →
      (s.mirrorsDone (dieOf s.cur) = true → s.sound s.cur → x % 65536 = 0 → n % 65536 = 0 → n ≠ 0 → x + n ≤ 2 ^ 64 →
        framesFrom x (n / 65536) s = .ok (fs.map some, u) → e.depth < 15 →
        s.vit.find? (fun e => e.2.live && e.2.asid == asid && e.2.base == x && e.2.len == n) = some (i, e) →
        Completes (.frz rd rs1 rs2) s (fun t => (t.vitEntry i).depth = e.depth + 1
          ∧ t.ctx.x rd = if rd = 0 then 0 else handleOf i e))
      ∧ (s.handleEntry asid (s.ctx.x rs1) = some (i, e) → s.tagErrors = [] → Completes (.thaw rd rs1) s (fun t =>
          (t.vitEntry i).depth = e.depth - 1 ∧ (e.depth = 0 → (t.vitEntry i).st = .collecting)
          ∧ t.ctx.x rd = if rd = 0 ∨ 0 < e.depth then 0 else BitVec.ofNat 64 (tk.issued + 1))))
    ∧ (x ≤ tk.issued → x ≤ tk.done → Completes (.thawq rd rs1) s (fun t => t.ctx.x rd = if rd = 0 then 0 else BitVec.ofNat 64 tk.done)))
  ∧ (∀ (s : State) (i asid t0 n : Nat) (frames : List Nat) (rest : List (Nat × Nat × List Nat)) (rd : SReg) (v : Word),
    ((s.vitEntry i).st = .sealing → s.sealed (s.vitEntry i).frames = true →
      (∀ f ∈ (s.vitEntry i).frames, s.frame (f * 65536) = .sealing ∨ s.frame (f * 65536) = .frozen) →
      Completes (.sealComplete i) s (fun t => (t.vitEntry i).st = .active))
    ∧ ((Bank.get {} s.tickets asid).running = (t0, i, frames) :: rest →
      Completes (.ticketComplete asid) s (fun t => (Bank.get {} t.tickets asid).done = t0 ∧ (t.vitEntry i).st = .free))
    ∧ (let c := s.core n
       let d := (Bank.get {} s.tickets c.asid.toNat).done
       c.main.wait = some (.thawq rd v) → v.toNat ≤ d →
        Completes (.thawqReturn n) s (fun t => (t.core n).main.wait = none
          ∧ (t.core n).main.x rd = if rd = 0 then 0 else BitVec.ofNat 64 d)))
  ∧ (∀ (s : State) (ring q e : Nat) (r : Region) (c : Chunk) (own : Ctx), (s.ring ring).region = some r →
    let region (t : State) := (t.ring ring).region
    (r.find q = some c → c.pastCend = true → r.ensignQ = q → c.st ≠ .squashed → r.assured = true → s.assuredDone ring r c = true →
      Completes (.commitComplete ring q) s (fun t => (∃ r', region t = some r' ∧ r'.find q = none)
        ∧ t.flight = s.flight ++ [Instr.ensignArrival ring (q + 1) (Nat.max r.e (s.core (r.coreOf ring q)).lts)]))
    ∧ (s.mayDeliver ring (.ensignArrival ring q e) = true → Completes (.ensignArrival ring q e) s (fun t =>
      region t = some { r with ensignQ := q, e := e }))
    ∧ (r.parked = some own → r.complete = true → (s.core r.home).awake = true → own.atLoopEnd = false →
      Completes (.joinComplete ring) s (fun t => region t = none ∧ (t.core r.home).main.pc = own.pc + 4)))
  ∧ ∀ (s : State) (die line : Nat), die < 12 → line < 2 ^ 34 → s.homeLine line < 12 →
    let e := s.catEntry line
    let a := s.annexLine die line
    let st (t : State) := (t.annexLine die line).st
    (s.frame (line * 128) = .plain → e.busy = none → e.st = .none → s.hasRoom line = true → e.waiting = [] →
        s.pinned (s.homeLine line) line = false → s.tagErrors = [] → ∀ p ∈
        [(CatKind.rd, Instr.catalogueRd die line), (.rfo, .catalogueRfo die line), (.upg, .catalogueUpg die line)],
      Completes p.2 s (fun t => (t.catEntry line).busy = some ⟨die, p.1⟩))
    ∧ (∀ g, s.annexRoom die line = true → g.state ≠ .f → die ≠ s.homeLine line → (∀ o, a.st ≠ .mp o) → (∀ o, g.state ≠ .mp o) →
      Completes (.catalogueAnswer die line g) s (fun t => st t = g.state ∧ (t.catEntry line).busy = none))
    ∧ (s.pinned die line = false →
      (∀ d, a.st = .m → Completes (.forwardedRead die d line) s (fun t => st t = .o ∧ .catalogueAnswer d line ⟨.s, some (s.pointData die line), a.wts, a.wts⟩ ∈ t.flight))
      ∧ (∀ r, e.busy = some r → Completes (.invalidate die line) s (fun t => st t = .i))
      ∧ Completes (.recallLine die line) s (fun t => st t = .i ∧ s.reportedRts die line ≤ t.homeRts line)
      ∧ Completes (.freezeConvert die line) s (fun t => st t = (if a.st = .s ∧ s.homeLine line ≠ die then .f else .i)
          ∧ s.reportedRts die line ≤ t.homeRts line)
      ∧ (s.homeLine line ≠ die → a.st ≠ .i → (s.annexVictim die (s.annexSet die line)).map (·.1) = some (die * 2 ^ 34 + line) →
        Completes (.evictionNotice die line) s (fun t => st t = .i)))
    ∧ (∀ seq data mask w, seq = (Bank.get 0 s.mirrorDone (mirrorKey die line (s.homeLine line))).toNat →
      Completes (.mirrorWrite die line seq data mask w) s (fun t => t.homeData line = mergeLine (s.homeData line) data.bits mask
        ∧ .mirrorAck die line seq ∈ t.flight))
    ∧ ∀ seq o, a.st = .mp o → Completes (.mirrorAck die line seq) s (fun t =>
        (t.annexLine die line).pending = a.pending.erase seq)
end

