-- ==== Sys2Proof/Laws/Bank.lean ====
section
/-! SUPPORT. What a `Bank` does: a read after a write, and the canonical form that every write keeps. -/

namespace Sys2Proof

variable {α : Type}

@[simp] theorem Bank.get_nil (d : α) (k : Nat) : Bank.get d [] k = d := rfl
@[simp] theorem Bank.find_nil (k : Nat) : Bank.find ([] : Bank α) k = none := rfl

@[simp] theorem Bank.find_put_self (b : Bank α) (k : Nat) (v : α) : Bank.find (Bank.put b k v) k = some v := by
  induction b with
  | nil => simp [Bank.put, Bank.find]
  | cons e t ih =>
    obtain ⟨j, w⟩ := e
    simp only [Bank.put]
    split
    · simp [Bank.find]
    · split
      · next h => simp [Bank.find, h]
      · next h1 h2 => simp [Bank.find, h1, h2, ih]

theorem Bank.find_put_ne (b : Bank α) {k j : Nat} (v : α) (h : j ≠ k) :
    Bank.find (Bank.put b k v) j = Bank.find b j := by
  induction b with
  | nil => simp only [Bank.put, Bank.find, h]; split <;> rfl
  | cons e t ih =>
    obtain ⟨i, w⟩ := e
    simp only [Bank.put]
    by_cases h1 : k < i
    · simp only [h1, if_true, Bank.find, h, if_false]
      by_cases h2 : j < k
      · have : j < i := by omega
        simp [h2, this]
      · simp [h2]
    · by_cases h2 : k = i
      · subst h2; simp [Bank.find, h]
      · simp only [h1, h2, if_false, Bank.find, ih]

@[simp] theorem Bank.get_put_self (d : α) (b : Bank α) (k : Nat) (v : α) : Bank.get d (Bank.put b k v) k = v := by
  induction b with
  | nil => simp [Bank.put, Bank.get]
  | cons e t ih =>
    obtain ⟨j, w⟩ := e
    simp only [Bank.put]
    split
    · simp [Bank.get]
    · split
      · next h => simp [Bank.get, h]
      · next h1 h2 => simp [Bank.get, h1, h2, ih]

theorem Bank.get_put_ne (d : α) (b : Bank α) {k j : Nat} (v : α) (h : j ≠ k) :
    Bank.get d (Bank.put b k v) j = Bank.get d b j := by
  induction b with
  | nil => simp only [Bank.put, Bank.get, h]; split <;> rfl
  | cons e t ih =>
    obtain ⟨i, w⟩ := e
    simp only [Bank.put]
    by_cases h1 : k < i
    · simp only [h1, if_true, Bank.get, h, if_false]
      by_cases h2 : j < k
      · have : j < i := by omega
        simp [h2, this]
      · simp [h2]
    · by_cases h2 : k = i
      · subst h2; simp [Bank.get, h]
      · simp only [h1, h2, if_false, Bank.get, ih]

theorem Bank.get_dropLe_le (d : α) (k : Nat) (b : Bank α) {j : Nat} (h : j ≤ k) :
    Bank.get d (Bank.dropLe k b) j = d := by
  induction b with
  | nil => rfl
  | cons e t ih =>
    obtain ⟨i, w⟩ := e
    simp only [Bank.dropLe]
    split
    · exact ih
    · have : j < i := by omega
      simp [Bank.get, this]

theorem Bank.get_dropLe_gt (d : α) (k : Nat) (b : Bank α) {j : Nat} (h : k < j) :
    Bank.get d (Bank.dropLe k b) j = Bank.get d b j := by
  induction b with
  | nil => rfl
  | cons e t ih =>
    obtain ⟨i, w⟩ := e
    simp only [Bank.dropLe]
    split
    · have h1 : ¬ j < i := by omega
      have h2 : j ≠ i := by omega
      simp [Bank.get, h1, h2, ih]
    · rfl

variable [DecidableEq α]

/-- A read after a write to the same key. -/
@[simp] theorem Bank.get_set_self (d : α) (b : Bank α) (k : Nat) (v : α) : Bank.get d (Bank.set d b k v) k = v := by
  induction b with
  | nil => simp only [Bank.set]; split <;> simp_all [Bank.get]
  | cons e t ih =>
    obtain ⟨j, w⟩ := e
    simp only [Bank.set]
    split
    · next h => split <;> simp_all [Bank.get]
    · split
      · next h =>
        split
        · next h' => rw [Bank.get_dropLe_le d k t (Nat.le_refl k), h']
        · simp [Bank.get, h]
      · next h1 h2 => simp [Bank.get, h1, h2, ih]

/-- A write leaves every other key as it was. -/
theorem Bank.get_set_ne (d : α) (b : Bank α) {k j : Nat} (v : α) (h : j ≠ k) :
    Bank.get d (Bank.set d b k v) j = Bank.get d b j := by
  induction b with
  | nil => simp only [Bank.set]; split <;> simp [Bank.get, h]
  | cons e t ih =>
    obtain ⟨i, w⟩ := e
    simp only [Bank.set]
    by_cases h1 : k < i
    · simp only [h1, if_true]
      split
      · rfl
      · simp only [Bank.get, h, if_false]
        by_cases h2 : j < k
        · have : j < i := by omega
          simp [h2, this]
        · simp [h2]
    · by_cases h2 : k = i
      · subst h2
        simp only [Nat.lt_irrefl, if_false, if_true]
        split
        · simp only [Bank.get, h, if_false]
          by_cases h3 : j < k
          · rw [Bank.get_dropLe_le d k t (by omega)]; simp [h3]
          · rw [Bank.get_dropLe_gt d k t (by omega)]; simp [h3]
        · simp [Bank.get, h]
      · simp only [h1, h2, if_false, Bank.get, ih]

theorem Bank.wfFrom_mono (d : α) {k j : Nat} (b : Bank α) (h : k ≤ j) (hw : Bank.wfFrom d j b = true) :
    Bank.wfFrom d k b = true := by
  cases b with
  | nil => rfl
  | cons e t => simp only [Bank.wfFrom, Bool.and_eq_true, decide_eq_true_eq] at *; exact ⟨⟨by omega, hw.1.2⟩, hw.2⟩

theorem Bank.wfFrom_dropLe (d : α) (k : Nat) (b : Bank α) {j : Nat} (hw : Bank.wfFrom d j b = true) :
    Bank.wfFrom d j (Bank.dropLe k b) = true := by
  induction b generalizing j with
  | nil => rfl
  | cons e t ih =>
    obtain ⟨i, w⟩ := e
    simp only [Bank.dropLe]
    split
    · simp only [Bank.wfFrom, Bool.and_eq_true, decide_eq_true_eq] at hw
      exact ih (Bank.wfFrom_mono d t (by omega) hw.2)
    · exact hw

theorem Bank.wfFrom_set (d : α) (b : Bank α) (k : Nat) (v : α) {j : Nat} (hj : j ≤ k) (hw : Bank.wfFrom d j b = true) :
    Bank.wfFrom d j (Bank.set d b k v) = true := by
  induction b generalizing j with
  | nil => simp only [Bank.set]; split <;> simp_all [Bank.wfFrom]
  | cons e t ih =>
    obtain ⟨i, w⟩ := e
    have hw' := hw
    simp only [Bank.wfFrom, Bool.and_eq_true, decide_eq_true_eq] at hw'
    obtain ⟨⟨h1, h2⟩, h3⟩ := hw'
    simp only [Bank.set]
    split
    · next h =>
      split
      · exact hw
      · next hv =>
        simp only [Bank.wfFrom, Bool.and_eq_true, decide_eq_true_eq]
        exact ⟨⟨hj, hv⟩, ⟨by omega, h2⟩, h3⟩
    · split
      · split
        · exact Bank.wfFrom_dropLe d k t (Bank.wfFrom_mono d t (by omega) h3)
        · next hv =>
          simp only [Bank.wfFrom, Bool.and_eq_true, decide_eq_true_eq]
          exact ⟨⟨h1, hv⟩, h3⟩
      · simp only [Bank.wfFrom, Bool.and_eq_true, decide_eq_true_eq]
        exact ⟨⟨h1, h2⟩, ih (by omega) h3⟩

/-- A write keeps the canonical form. -/
theorem Bank.wf_set (d : α) (b : Bank α) (k : Nat) (v : α) (hw : Bank.wf d b = true) : Bank.wf d (Bank.set d b k v) = true :=
  Bank.wfFrom_set d b k v (Nat.zero_le k) hw

theorem Bank.wfFrom_filter (d : α) (p : Nat × α → Bool) (b : Bank α) {j : Nat} (hw : Bank.wfFrom d j b = true) :
    Bank.wfFrom d j (b.filter p) = true := by
  induction b generalizing j with
  | nil => rfl
  | cons e t ih =>
    simp only [Bank.wfFrom, Bool.and_eq_true, decide_eq_true_eq] at hw
    simp only [List.filter_cons]
    split
    · simp only [Bank.wfFrom, Bool.and_eq_true, decide_eq_true_eq]
      exact ⟨hw.1, ih hw.2⟩
    · exact ih (Bank.wfFrom_mono d t (by omega) hw.2)

/-- Leaving entries out keeps the canonical form. -/
theorem Bank.wf_filter (d : α) (p : Nat × α → Bool) (b : Bank α) (hw : Bank.wf d b = true) :
    Bank.wf d (b.filter p) = true := Bank.wfFrom_filter d p b hw

theorem Bank.get_of_wfFrom (d : α) (b : Bank α) {j k : Nat} (hk : k < j) (hw : Bank.wfFrom d j b = true) :
    Bank.get d b k = d := by
  cases b with
  | nil => rfl
  | cons e t =>
    simp only [Bank.wfFrom, Bool.and_eq_true, decide_eq_true_eq] at hw
    have : k < e.1 := by omega
    simp [Bank.get, this]

/-- Two canonical maps that read alike are the same data. -/
theorem Bank.ext_of_wfFrom (d : α) (a b : Bank α) {j : Nat} (ha : Bank.wfFrom d j a = true)
    (hb : Bank.wfFrom d j b = true) (h : ∀ k, Bank.get d a k = Bank.get d b k) : a = b := by
  induction a generalizing b j with
  | nil =>
    cases b with
    | nil => rfl
    | cons e t =>
      have := h e.1
      simp only [Bank.wfFrom, Bool.and_eq_true, decide_eq_true_eq] at hb
      simp [Bank.get] at this
      exact absurd this.symm hb.1.2
  | cons e t ih =>
    obtain ⟨i, v⟩ := e
    simp only [Bank.wfFrom, Bool.and_eq_true, decide_eq_true_eq] at ha
    cases b with
    | nil =>
      have := h i
      simp [Bank.get] at this
      exact absurd this ha.1.2
    | cons e' t' =>
      obtain ⟨i', v'⟩ := e'
      simp only [Bank.wfFrom, Bool.and_eq_true, decide_eq_true_eq] at hb
      have hi : i = i' := by
        rcases Nat.lt_trichotomy i i' with hlt | heq | hgt
        · have := h i
          simp [Bank.get, hlt] at this
          exact absurd this ha.1.2
        · exact heq
        · have := h i'
          simp [Bank.get, hgt] at this
          exact absurd this.symm hb.1.2
      subst hi
      have hv : v = v' := by simpa [Bank.get] using h i
      subst hv
      congr 1
      refine ih t' ha.2 hb.2 (fun k => ?_)
      by_cases hk : k ≤ i
      · rw [Bank.get_of_wfFrom d t (by omega) ha.2, Bank.get_of_wfFrom d t' (by omega) hb.2]
      · have := h k
        have h1 : ¬ k < i := by omega
        have h2 : k ≠ i := by omega
        simpa [Bank.get, h1, h2] using this

theorem Bank.ext_of_wf (d : α) (a b : Bank α) (ha : Bank.wf d a = true) (hb : Bank.wf d b = true)
    (h : ∀ k, Bank.get d a k = Bank.get d b k) : a = b := Bank.ext_of_wfFrom d a b ha hb h

end Sys2Proof
end

