-- ==== Sys2Proof/Laws/State.lean ====
section
/-! SUPPORT. What each update of a state record leaves in each field. -/

namespace Sys2Proof.Machine
open Sys2Proof

/-! ## State.setCore -/

@[simp] theorem State.setCore_cur (s : State) (n : Nat) (c : Core) : (s.setCore n c).cur = s.cur := rfl
@[simp] theorem State.setCore_curH (s : State) (n : Nat) (c : Core) : (s.setCore n c).curH = s.curH := rfl
@[simp] theorem State.setCore_agenda (s : State) (n : Nat) (c : Core) : (s.setCore n c).agenda = s.agenda := rfl
@[simp] theorem State.setCore_flight (s : State) (n : Nat) (c : Core) : (s.setCore n c).flight = s.flight := rfl
@[simp] theorem State.setCore_choice (s : State) (n : Nat) (c : Core) : (s.setCore n c).choice = s.choice := rfl
@[simp] theorem State.setCore_choices (s : State) (n : Nat) (c : Core) : (s.setCore n c).choices = s.choices := rfl
@[simp] theorem State.setCore_turn (s : State) (n : Nat) (c : Core) : (s.setCore n c).turn = s.turn := rfl
@[simp] theorem State.setCore_rings (s : State) (n : Nat) (c : Core) : (s.setCore n c).rings = s.rings := rfl
@[simp] theorem State.setCore_hbm (s : State) (n : Nat) (c : Core) : (s.setCore n c).hbm = s.hbm := rfl
@[simp] theorem State.setCore_wts (s : State) (n : Nat) (c : Core) : (s.setCore n c).wts = s.wts := rfl
@[simp] theorem State.setCore_rts (s : State) (n : Nat) (c : Core) : (s.setCore n c).rts = s.rts := rfl
@[simp] theorem State.setCore_poison (s : State) (n : Nat) (c : Core) : (s.setCore n c).poison = s.poison := rfl
@[simp] theorem State.setCore_homeMap (s : State) (n : Nat) (c : Core) : (s.setCore n c).homeMap = s.homeMap := rfl
@[simp] theorem State.setCore_striped (s : State) (n : Nat) (c : Core) : (s.setCore n c).striped = s.striped := rfl
@[simp] theorem State.setCore_locks (s : State) (n : Nat) (c : Core) : (s.setCore n c).locks = s.locks := rfl
@[simp] theorem State.setCore_pins (s : State) (n : Nat) (c : Core) : (s.setCore n c).pins = s.pins := rfl
@[simp] theorem State.setCore_annex (s : State) (n : Nat) (c : Core) : (s.setCore n c).annex = s.annex := rfl
@[simp] theorem State.setCore_cat (s : State) (n : Nat) (c : Core) : (s.setCore n c).cat = s.cat := rfl
@[simp] theorem State.setCore_catClock (s : State) (n : Nat) (c : Core) : (s.setCore n c).catClock = s.catClock := rfl
@[simp] theorem State.setCore_annexClock (s : State) (n : Nat) (c : Core) : (s.setCore n c).annexClock = s.annexClock := rfl
@[simp] theorem State.setCore_slices (s : State) (n : Nat) (c : Core) : (s.setCore n c).slices = s.slices := rfl
@[simp] theorem State.setCore_qmap (s : State) (n : Nat) (c : Core) : (s.setCore n c).qmap = s.qmap := rfl
@[simp] theorem State.setCore_mirrorSeq (s : State) (n : Nat) (c : Core) : (s.setCore n c).mirrorSeq = s.mirrorSeq := rfl
@[simp] theorem State.setCore_mirrorDone (s : State) (n : Nat) (c : Core) : (s.setCore n c).mirrorDone = s.mirrorDone := rfl
@[simp] theorem State.setCore_frames (s : State) (n : Nat) (c : Core) : (s.setCore n c).frames = s.frames := rfl
@[simp] theorem State.setCore_vit (s : State) (n : Nat) (c : Core) : (s.setCore n c).vit = s.vit := rfl
@[simp] theorem State.setCore_tickets (s : State) (n : Nat) (c : Core) : (s.setCore n c).tickets = s.tickets := rfl
@[simp] theorem State.setCore_sync (s : State) (n : Nat) (c : Core) : (s.setCore n c).sync = s.sync := rfl
@[simp] theorem State.setCore_mirror (s : State) (n : Nat) (c : Core) : (s.setCore n c).mirror = s.mirror := rfl
@[simp] theorem State.setCore_combine (s : State) (n : Nat) (c : Core) : (s.setCore n c).combine = s.combine := rfl
@[simp] theorem State.setCore_dropped (s : State) (n : Nat) (c : Core) : (s.setCore n c).dropped = s.dropped := rfl
@[simp] theorem State.setCore_shoots (s : State) (n : Nat) (c : Core) : (s.setCore n c).shoots = s.shoots := rfl
@[simp] theorem State.setCore_hostMem (s : State) (n : Nat) (c : Core) : (s.setCore n c).hostMem = s.hostMem := rfl
@[simp] theorem State.setCore_hostPoison (s : State) (n : Nat) (c : Core) : (s.setCore n c).hostPoison = s.hostPoison := rfl
@[simp] theorem State.setCore_pkgNo (s : State) (n : Nat) (c : Core) : (s.setCore n c).pkgNo = s.pkgNo := rfl
@[simp] theorem State.setCore_pkgAssigned (s : State) (n : Nat) (c : Core) : (s.setCore n c).pkgAssigned = s.pkgAssigned := rfl
@[simp] theorem State.setCore_exBase (s : State) (n : Nat) (c : Core) : (s.setCore n c).exBase = s.exBase := rfl
@[simp] theorem State.setCore_exLen (s : State) (n : Nat) (c : Core) : (s.setCore n c).exLen = s.exLen := rfl
@[simp] theorem State.setCore_peers (s : State) (n : Nat) (c : Core) : (s.setCore n c).peers = s.peers := rfl
@[simp] theorem State.setCore_peerOut (s : State) (n : Nat) (c : Core) : (s.setCore n c).peerOut = s.peerOut := rfl
@[simp] theorem State.setCore_peerNext (s : State) (n : Nat) (c : Core) : (s.setCore n c).peerNext = s.peerNext := rfl
@[simp] theorem State.setCore_peerSent (s : State) (n : Nat) (c : Core) : (s.setCore n c).peerSent = s.peerSent := rfl
@[simp] theorem State.setCore_spaces (s : State) (n : Nat) (c : Core) : (s.setCore n c).spaces = s.spaces := rfl
@[simp] theorem State.setCore_windows (s : State) (n : Nat) (c : Core) : (s.setCore n c).windows = s.windows := rfl
@[simp] theorem State.setCore_broadcastWin (s : State) (n : Nat) (c : Core) : (s.setCore n c).broadcastWin = s.broadcastWin := rfl
@[simp] theorem State.setCore_policyTimeout (s : State) (n : Nat) (c : Core) : (s.setCore n c).policyTimeout = s.policyTimeout := rfl
@[simp] theorem State.setCore_policyQuantum (s : State) (n : Nat) (c : Core) : (s.setCore n c).policyQuantum = s.policyQuantum := rfl
@[simp] theorem State.setCore_apbase (s : State) (n : Nat) (c : Core) : (s.setCore n c).apbase = s.apbase := rfl
@[simp] theorem State.setCore_bar2 (s : State) (n : Nat) (c : Core) : (s.setCore n c).bar2 = s.bar2 := rfl
@[simp] theorem State.setCore_mailboxes (s : State) (n : Nat) (c : Core) : (s.setCore n c).mailboxes = s.mailboxes := rfl
@[simp] theorem State.setCore_sendWin (s : State) (n : Nat) (c : Core) : (s.setCore n c).sendWin = s.sendWin := rfl
@[simp] theorem State.setCore_syncSel (s : State) (n : Nat) (c : Core) : (s.setCore n c).syncSel = s.syncSel := rfl
@[simp] theorem State.setCore_syncOld (s : State) (n : Nat) (c : Core) : (s.setCore n c).syncOld = s.syncOld := rfl
@[simp] theorem State.setCore_msix (s : State) (n : Nat) (c : Core) : (s.setCore n c).msix = s.msix := rfl
@[simp] theorem State.setCore_msixPending (s : State) (n : Nat) (c : Core) : (s.setCore n c).msixPending = s.msixPending := rfl
@[simp] theorem State.setCore_portHeld (s : State) (n : Nat) (c : Core) : (s.setCore n c).portHeld = s.portHeld := rfl
@[simp] theorem State.setCore_aer (s : State) (n : Nat) (c : Core) : (s.setCore n c).aer = s.aer := rfl
@[simp] theorem State.setCore_portSeq (s : State) (n : Nat) (c : Core) : (s.setCore n c).portSeq = s.portSeq := rfl
@[simp] theorem State.setCore_answers (s : State) (n : Nat) (c : Core) : (s.setCore n c).answers = s.answers := rfl
@[simp] theorem State.setCore_linkWidth (s : State) (n : Nat) (c : Core) : (s.setCore n c).linkWidth = s.linkWidth := rfl
@[simp] theorem State.setCore_linkSpeed (s : State) (n : Nat) (c : Core) : (s.setCore n c).linkSpeed = s.linkSpeed := rfl
@[simp] theorem State.setCore_hostLink (s : State) (n : Nat) (c : Core) : (s.setCore n c).hostLink = s.hostLink := rfl
@[simp] theorem State.setCore_stations (s : State) (n : Nat) (c : Core) : (s.setCore n c).stations = s.stations := rfl
@[simp] theorem State.setCore_lostXd (s : State) (n : Nat) (c : Core) : (s.setCore n c).lostXd = s.lostXd := rfl
@[simp] theorem State.setCore_fullDropped (s : State) (n : Nat) (c : Core) : (s.setCore n c).fullDropped = s.fullDropped := rfl
@[simp] theorem State.setCore_dropping (s : State) (n : Nat) (c : Core) : (s.setCore n c).dropping = s.dropping := rfl
@[simp] theorem State.setCore_faultyCompute (s : State) (n : Nat) (c : Core) : (s.setCore n c).faultyCompute = s.faultyCompute := rfl
@[simp] theorem State.setCore_faultyMemory (s : State) (n : Nat) (c : Core) : (s.setCore n c).faultyMemory = s.faultyMemory := rfl
@[simp] theorem State.setCore_bitErrors (s : State) (n : Nat) (c : Core) : (s.setCore n c).bitErrors = s.bitErrors := rfl
@[simp] theorem State.setCore_machineError (s : State) (n : Nat) (c : Core) : (s.setCore n c).machineError = s.machineError := rfl
@[simp] theorem State.setCore_areaCount (s : State) (n : Nat) (c : Core) : (s.setCore n c).areaCount = s.areaCount := rfl
@[simp] theorem State.setCore_tagErrors (s : State) (n : Nat) (c : Core) : (s.setCore n c).tagErrors = s.tagErrors := rfl
@[simp] theorem State.setCore_peersAssigned (s : State) (n : Nat) (c : Core) : (s.setCore n c).peersAssigned = s.peersAssigned := rfl
@[simp] theorem State.setCore_exAssigned (s : State) (n : Nat) (c : Core) : (s.setCore n c).exAssigned = s.exAssigned := rfl
@[simp] theorem State.setCore_restorable (s : State) (n : Nat) (c : Core) : (s.setCore n c).restorable = s.restorable := rfl
@[simp] theorem State.setCore_images (s : State) (n : Nat) (c : Core) : (s.setCore n c).images = s.images := rfl
@[simp] theorem State.setCore_logMachine (s : State) (n : Nat) (c : Core) : (s.setCore n c).logMachine = s.logMachine := rfl
@[simp] theorem State.setCore_logLaunch (s : State) (n : Nat) (c : Core) : (s.setCore n c).logLaunch = s.logLaunch := rfl
@[simp] theorem State.setCore_logRefusal (s : State) (n : Nat) (c : Core) : (s.setCore n c).logRefusal = s.logRefusal := rfl
@[simp] theorem State.setCore_logDrop (s : State) (n : Nat) (c : Core) : (s.setCore n c).logDrop = s.logDrop := rfl
@[simp] theorem State.setCore_logDead (s : State) (n : Nat) (c : Core) : (s.setCore n c).logDead = s.logDead := rfl
@[simp] theorem State.setCore_corrections (s : State) (n : Nat) (c : Core) : (s.setCore n c).corrections = s.corrections := rfl
@[simp] theorem State.setCore_reported (s : State) (n : Nat) (c : Core) : (s.setCore n c).reported = s.reported := rfl
@[simp] theorem State.setCore_temperature (s : State) (n : Nat) (c : Core) : (s.setCore n c).temperature = s.temperature := rfl
@[simp] theorem State.setCore_halfRate (s : State) (n : Nat) (c : Core) : (s.setCore n c).halfRate = s.halfRate := rfl
@[simp] theorem State.setCore_clockStopped (s : State) (n : Nat) (c : Core) : (s.setCore n c).clockStopped = s.clockStopped := rfl
@[simp] theorem State.setCore_budget (s : State) (n : Nat) (c : Core) : (s.setCore n c).budget = s.budget := rfl
@[simp] theorem State.setCore_powerCap (s : State) (n : Nat) (c : Core) : (s.setCore n c).powerCap = s.powerCap := rfl
@[simp] theorem State.setCore_security (s : State) (n : Nat) (c : Core) : (s.setCore n c).security = s.security := rfl
@[simp] theorem State.setCore_registrarImage (s : State) (n : Nat) (c : Core) : (s.setCore n c).registrarImage = s.registrarImage := rfl
@[simp] theorem State.setCore_curatorImage (s : State) (n : Nat) (c : Core) : (s.setCore n c).curatorImage = s.curatorImage := rfl
@[simp] theorem State.setCore_recovery (s : State) (n : Nat) (c : Core) : (s.setCore n c).recovery = s.recovery := rfl
@[simp] theorem State.setCore_up (s : State) (n : Nat) (c : Core) : (s.setCore n c).up = s.up := rfl

/-! ## State.mapCore -/

@[simp] theorem State.mapCore_cur (s : State) (n : Nat) (f : Core → Core) : (s.mapCore n f).cur = s.cur := rfl
@[simp] theorem State.mapCore_curH (s : State) (n : Nat) (f : Core → Core) : (s.mapCore n f).curH = s.curH := rfl
@[simp] theorem State.mapCore_agenda (s : State) (n : Nat) (f : Core → Core) : (s.mapCore n f).agenda = s.agenda := rfl
@[simp] theorem State.mapCore_flight (s : State) (n : Nat) (f : Core → Core) : (s.mapCore n f).flight = s.flight := rfl
@[simp] theorem State.mapCore_choice (s : State) (n : Nat) (f : Core → Core) : (s.mapCore n f).choice = s.choice := rfl
@[simp] theorem State.mapCore_choices (s : State) (n : Nat) (f : Core → Core) : (s.mapCore n f).choices = s.choices := rfl
@[simp] theorem State.mapCore_turn (s : State) (n : Nat) (f : Core → Core) : (s.mapCore n f).turn = s.turn := rfl
@[simp] theorem State.mapCore_rings (s : State) (n : Nat) (f : Core → Core) : (s.mapCore n f).rings = s.rings := rfl
@[simp] theorem State.mapCore_hbm (s : State) (n : Nat) (f : Core → Core) : (s.mapCore n f).hbm = s.hbm := rfl
@[simp] theorem State.mapCore_wts (s : State) (n : Nat) (f : Core → Core) : (s.mapCore n f).wts = s.wts := rfl
@[simp] theorem State.mapCore_rts (s : State) (n : Nat) (f : Core → Core) : (s.mapCore n f).rts = s.rts := rfl
@[simp] theorem State.mapCore_poison (s : State) (n : Nat) (f : Core → Core) : (s.mapCore n f).poison = s.poison := rfl
@[simp] theorem State.mapCore_homeMap (s : State) (n : Nat) (f : Core → Core) : (s.mapCore n f).homeMap = s.homeMap := rfl
@[simp] theorem State.mapCore_striped (s : State) (n : Nat) (f : Core → Core) : (s.mapCore n f).striped = s.striped := rfl
@[simp] theorem State.mapCore_locks (s : State) (n : Nat) (f : Core → Core) : (s.mapCore n f).locks = s.locks := rfl
@[simp] theorem State.mapCore_pins (s : State) (n : Nat) (f : Core → Core) : (s.mapCore n f).pins = s.pins := rfl
@[simp] theorem State.mapCore_annex (s : State) (n : Nat) (f : Core → Core) : (s.mapCore n f).annex = s.annex := rfl
@[simp] theorem State.mapCore_cat (s : State) (n : Nat) (f : Core → Core) : (s.mapCore n f).cat = s.cat := rfl
@[simp] theorem State.mapCore_catClock (s : State) (n : Nat) (f : Core → Core) : (s.mapCore n f).catClock = s.catClock := rfl
@[simp] theorem State.mapCore_annexClock (s : State) (n : Nat) (f : Core → Core) : (s.mapCore n f).annexClock = s.annexClock := rfl
@[simp] theorem State.mapCore_slices (s : State) (n : Nat) (f : Core → Core) : (s.mapCore n f).slices = s.slices := rfl
@[simp] theorem State.mapCore_qmap (s : State) (n : Nat) (f : Core → Core) : (s.mapCore n f).qmap = s.qmap := rfl
@[simp] theorem State.mapCore_mirrorSeq (s : State) (n : Nat) (f : Core → Core) : (s.mapCore n f).mirrorSeq = s.mirrorSeq := rfl
@[simp] theorem State.mapCore_mirrorDone (s : State) (n : Nat) (f : Core → Core) : (s.mapCore n f).mirrorDone = s.mirrorDone := rfl
@[simp] theorem State.mapCore_frames (s : State) (n : Nat) (f : Core → Core) : (s.mapCore n f).frames = s.frames := rfl
@[simp] theorem State.mapCore_vit (s : State) (n : Nat) (f : Core → Core) : (s.mapCore n f).vit = s.vit := rfl
@[simp] theorem State.mapCore_tickets (s : State) (n : Nat) (f : Core → Core) : (s.mapCore n f).tickets = s.tickets := rfl
@[simp] theorem State.mapCore_sync (s : State) (n : Nat) (f : Core → Core) : (s.mapCore n f).sync = s.sync := rfl
@[simp] theorem State.mapCore_mirror (s : State) (n : Nat) (f : Core → Core) : (s.mapCore n f).mirror = s.mirror := rfl
@[simp] theorem State.mapCore_combine (s : State) (n : Nat) (f : Core → Core) : (s.mapCore n f).combine = s.combine := rfl
@[simp] theorem State.mapCore_dropped (s : State) (n : Nat) (f : Core → Core) : (s.mapCore n f).dropped = s.dropped := rfl
@[simp] theorem State.mapCore_shoots (s : State) (n : Nat) (f : Core → Core) : (s.mapCore n f).shoots = s.shoots := rfl
@[simp] theorem State.mapCore_hostMem (s : State) (n : Nat) (f : Core → Core) : (s.mapCore n f).hostMem = s.hostMem := rfl
@[simp] theorem State.mapCore_hostPoison (s : State) (n : Nat) (f : Core → Core) : (s.mapCore n f).hostPoison = s.hostPoison := rfl
@[simp] theorem State.mapCore_pkgNo (s : State) (n : Nat) (f : Core → Core) : (s.mapCore n f).pkgNo = s.pkgNo := rfl
@[simp] theorem State.mapCore_pkgAssigned (s : State) (n : Nat) (f : Core → Core) : (s.mapCore n f).pkgAssigned = s.pkgAssigned := rfl
@[simp] theorem State.mapCore_exBase (s : State) (n : Nat) (f : Core → Core) : (s.mapCore n f).exBase = s.exBase := rfl
@[simp] theorem State.mapCore_exLen (s : State) (n : Nat) (f : Core → Core) : (s.mapCore n f).exLen = s.exLen := rfl
@[simp] theorem State.mapCore_peers (s : State) (n : Nat) (f : Core → Core) : (s.mapCore n f).peers = s.peers := rfl
@[simp] theorem State.mapCore_peerOut (s : State) (n : Nat) (f : Core → Core) : (s.mapCore n f).peerOut = s.peerOut := rfl
@[simp] theorem State.mapCore_peerNext (s : State) (n : Nat) (f : Core → Core) : (s.mapCore n f).peerNext = s.peerNext := rfl
@[simp] theorem State.mapCore_peerSent (s : State) (n : Nat) (f : Core → Core) : (s.mapCore n f).peerSent = s.peerSent := rfl
@[simp] theorem State.mapCore_spaces (s : State) (n : Nat) (f : Core → Core) : (s.mapCore n f).spaces = s.spaces := rfl
@[simp] theorem State.mapCore_windows (s : State) (n : Nat) (f : Core → Core) : (s.mapCore n f).windows = s.windows := rfl
@[simp] theorem State.mapCore_broadcastWin (s : State) (n : Nat) (f : Core → Core) : (s.mapCore n f).broadcastWin = s.broadcastWin := rfl
@[simp] theorem State.mapCore_policyTimeout (s : State) (n : Nat) (f : Core → Core) : (s.mapCore n f).policyTimeout = s.policyTimeout := rfl
@[simp] theorem State.mapCore_policyQuantum (s : State) (n : Nat) (f : Core → Core) : (s.mapCore n f).policyQuantum = s.policyQuantum := rfl
@[simp] theorem State.mapCore_apbase (s : State) (n : Nat) (f : Core → Core) : (s.mapCore n f).apbase = s.apbase := rfl
@[simp] theorem State.mapCore_bar2 (s : State) (n : Nat) (f : Core → Core) : (s.mapCore n f).bar2 = s.bar2 := rfl
@[simp] theorem State.mapCore_mailboxes (s : State) (n : Nat) (f : Core → Core) : (s.mapCore n f).mailboxes = s.mailboxes := rfl
@[simp] theorem State.mapCore_sendWin (s : State) (n : Nat) (f : Core → Core) : (s.mapCore n f).sendWin = s.sendWin := rfl
@[simp] theorem State.mapCore_syncSel (s : State) (n : Nat) (f : Core → Core) : (s.mapCore n f).syncSel = s.syncSel := rfl
@[simp] theorem State.mapCore_syncOld (s : State) (n : Nat) (f : Core → Core) : (s.mapCore n f).syncOld = s.syncOld := rfl
@[simp] theorem State.mapCore_msix (s : State) (n : Nat) (f : Core → Core) : (s.mapCore n f).msix = s.msix := rfl
@[simp] theorem State.mapCore_msixPending (s : State) (n : Nat) (f : Core → Core) : (s.mapCore n f).msixPending = s.msixPending := rfl
@[simp] theorem State.mapCore_portHeld (s : State) (n : Nat) (f : Core → Core) : (s.mapCore n f).portHeld = s.portHeld := rfl
@[simp] theorem State.mapCore_aer (s : State) (n : Nat) (f : Core → Core) : (s.mapCore n f).aer = s.aer := rfl
@[simp] theorem State.mapCore_portSeq (s : State) (n : Nat) (f : Core → Core) : (s.mapCore n f).portSeq = s.portSeq := rfl
@[simp] theorem State.mapCore_answers (s : State) (n : Nat) (f : Core → Core) : (s.mapCore n f).answers = s.answers := rfl
@[simp] theorem State.mapCore_linkWidth (s : State) (n : Nat) (f : Core → Core) : (s.mapCore n f).linkWidth = s.linkWidth := rfl
@[simp] theorem State.mapCore_linkSpeed (s : State) (n : Nat) (f : Core → Core) : (s.mapCore n f).linkSpeed = s.linkSpeed := rfl
@[simp] theorem State.mapCore_hostLink (s : State) (n : Nat) (f : Core → Core) : (s.mapCore n f).hostLink = s.hostLink := rfl
@[simp] theorem State.mapCore_stations (s : State) (n : Nat) (f : Core → Core) : (s.mapCore n f).stations = s.stations := rfl
@[simp] theorem State.mapCore_lostXd (s : State) (n : Nat) (f : Core → Core) : (s.mapCore n f).lostXd = s.lostXd := rfl
@[simp] theorem State.mapCore_fullDropped (s : State) (n : Nat) (f : Core → Core) : (s.mapCore n f).fullDropped = s.fullDropped := rfl
@[simp] theorem State.mapCore_dropping (s : State) (n : Nat) (f : Core → Core) : (s.mapCore n f).dropping = s.dropping := rfl
@[simp] theorem State.mapCore_faultyCompute (s : State) (n : Nat) (f : Core → Core) : (s.mapCore n f).faultyCompute = s.faultyCompute := rfl
@[simp] theorem State.mapCore_faultyMemory (s : State) (n : Nat) (f : Core → Core) : (s.mapCore n f).faultyMemory = s.faultyMemory := rfl
@[simp] theorem State.mapCore_bitErrors (s : State) (n : Nat) (f : Core → Core) : (s.mapCore n f).bitErrors = s.bitErrors := rfl
@[simp] theorem State.mapCore_machineError (s : State) (n : Nat) (f : Core → Core) : (s.mapCore n f).machineError = s.machineError := rfl
@[simp] theorem State.mapCore_areaCount (s : State) (n : Nat) (f : Core → Core) : (s.mapCore n f).areaCount = s.areaCount := rfl
@[simp] theorem State.mapCore_tagErrors (s : State) (n : Nat) (f : Core → Core) : (s.mapCore n f).tagErrors = s.tagErrors := rfl
@[simp] theorem State.mapCore_peersAssigned (s : State) (n : Nat) (f : Core → Core) : (s.mapCore n f).peersAssigned = s.peersAssigned := rfl
@[simp] theorem State.mapCore_exAssigned (s : State) (n : Nat) (f : Core → Core) : (s.mapCore n f).exAssigned = s.exAssigned := rfl
@[simp] theorem State.mapCore_restorable (s : State) (n : Nat) (f : Core → Core) : (s.mapCore n f).restorable = s.restorable := rfl
@[simp] theorem State.mapCore_images (s : State) (n : Nat) (f : Core → Core) : (s.mapCore n f).images = s.images := rfl
@[simp] theorem State.mapCore_logMachine (s : State) (n : Nat) (f : Core → Core) : (s.mapCore n f).logMachine = s.logMachine := rfl
@[simp] theorem State.mapCore_logLaunch (s : State) (n : Nat) (f : Core → Core) : (s.mapCore n f).logLaunch = s.logLaunch := rfl
@[simp] theorem State.mapCore_logRefusal (s : State) (n : Nat) (f : Core → Core) : (s.mapCore n f).logRefusal = s.logRefusal := rfl
@[simp] theorem State.mapCore_logDrop (s : State) (n : Nat) (f : Core → Core) : (s.mapCore n f).logDrop = s.logDrop := rfl
@[simp] theorem State.mapCore_logDead (s : State) (n : Nat) (f : Core → Core) : (s.mapCore n f).logDead = s.logDead := rfl
@[simp] theorem State.mapCore_corrections (s : State) (n : Nat) (f : Core → Core) : (s.mapCore n f).corrections = s.corrections := rfl
@[simp] theorem State.mapCore_reported (s : State) (n : Nat) (f : Core → Core) : (s.mapCore n f).reported = s.reported := rfl
@[simp] theorem State.mapCore_temperature (s : State) (n : Nat) (f : Core → Core) : (s.mapCore n f).temperature = s.temperature := rfl
@[simp] theorem State.mapCore_halfRate (s : State) (n : Nat) (f : Core → Core) : (s.mapCore n f).halfRate = s.halfRate := rfl
@[simp] theorem State.mapCore_clockStopped (s : State) (n : Nat) (f : Core → Core) : (s.mapCore n f).clockStopped = s.clockStopped := rfl
@[simp] theorem State.mapCore_budget (s : State) (n : Nat) (f : Core → Core) : (s.mapCore n f).budget = s.budget := rfl
@[simp] theorem State.mapCore_powerCap (s : State) (n : Nat) (f : Core → Core) : (s.mapCore n f).powerCap = s.powerCap := rfl
@[simp] theorem State.mapCore_security (s : State) (n : Nat) (f : Core → Core) : (s.mapCore n f).security = s.security := rfl
@[simp] theorem State.mapCore_registrarImage (s : State) (n : Nat) (f : Core → Core) : (s.mapCore n f).registrarImage = s.registrarImage := rfl
@[simp] theorem State.mapCore_curatorImage (s : State) (n : Nat) (f : Core → Core) : (s.mapCore n f).curatorImage = s.curatorImage := rfl
@[simp] theorem State.mapCore_recovery (s : State) (n : Nat) (f : Core → Core) : (s.mapCore n f).recovery = s.recovery := rfl
@[simp] theorem State.mapCore_up (s : State) (n : Nat) (f : Core → Core) : (s.mapCore n f).up = s.up := rfl

/-! ## State.setCtx -/

@[simp] theorem State.setCtx_cur (s : State) (x : Ctx) : (s.setCtx x).cur = s.cur := rfl
@[simp] theorem State.setCtx_curH (s : State) (x : Ctx) : (s.setCtx x).curH = s.curH := rfl
@[simp] theorem State.setCtx_agenda (s : State) (x : Ctx) : (s.setCtx x).agenda = s.agenda := rfl
@[simp] theorem State.setCtx_flight (s : State) (x : Ctx) : (s.setCtx x).flight = s.flight := rfl
@[simp] theorem State.setCtx_choice (s : State) (x : Ctx) : (s.setCtx x).choice = s.choice := rfl
@[simp] theorem State.setCtx_choices (s : State) (x : Ctx) : (s.setCtx x).choices = s.choices := rfl
@[simp] theorem State.setCtx_turn (s : State) (x : Ctx) : (s.setCtx x).turn = s.turn := rfl
@[simp] theorem State.setCtx_rings (s : State) (x : Ctx) : (s.setCtx x).rings = s.rings := rfl
@[simp] theorem State.setCtx_hbm (s : State) (x : Ctx) : (s.setCtx x).hbm = s.hbm := rfl
@[simp] theorem State.setCtx_wts (s : State) (x : Ctx) : (s.setCtx x).wts = s.wts := rfl
@[simp] theorem State.setCtx_rts (s : State) (x : Ctx) : (s.setCtx x).rts = s.rts := rfl
@[simp] theorem State.setCtx_poison (s : State) (x : Ctx) : (s.setCtx x).poison = s.poison := rfl
@[simp] theorem State.setCtx_homeMap (s : State) (x : Ctx) : (s.setCtx x).homeMap = s.homeMap := rfl
@[simp] theorem State.setCtx_striped (s : State) (x : Ctx) : (s.setCtx x).striped = s.striped := rfl
@[simp] theorem State.setCtx_locks (s : State) (x : Ctx) : (s.setCtx x).locks = s.locks := rfl
@[simp] theorem State.setCtx_pins (s : State) (x : Ctx) : (s.setCtx x).pins = s.pins := rfl
@[simp] theorem State.setCtx_annex (s : State) (x : Ctx) : (s.setCtx x).annex = s.annex := rfl
@[simp] theorem State.setCtx_cat (s : State) (x : Ctx) : (s.setCtx x).cat = s.cat := rfl
@[simp] theorem State.setCtx_catClock (s : State) (x : Ctx) : (s.setCtx x).catClock = s.catClock := rfl
@[simp] theorem State.setCtx_annexClock (s : State) (x : Ctx) : (s.setCtx x).annexClock = s.annexClock := rfl
@[simp] theorem State.setCtx_slices (s : State) (x : Ctx) : (s.setCtx x).slices = s.slices := rfl
@[simp] theorem State.setCtx_qmap (s : State) (x : Ctx) : (s.setCtx x).qmap = s.qmap := rfl
@[simp] theorem State.setCtx_mirrorSeq (s : State) (x : Ctx) : (s.setCtx x).mirrorSeq = s.mirrorSeq := rfl
@[simp] theorem State.setCtx_mirrorDone (s : State) (x : Ctx) : (s.setCtx x).mirrorDone = s.mirrorDone := rfl
@[simp] theorem State.setCtx_frames (s : State) (x : Ctx) : (s.setCtx x).frames = s.frames := rfl
@[simp] theorem State.setCtx_vit (s : State) (x : Ctx) : (s.setCtx x).vit = s.vit := rfl
@[simp] theorem State.setCtx_tickets (s : State) (x : Ctx) : (s.setCtx x).tickets = s.tickets := rfl
@[simp] theorem State.setCtx_sync (s : State) (x : Ctx) : (s.setCtx x).sync = s.sync := rfl
@[simp] theorem State.setCtx_mirror (s : State) (x : Ctx) : (s.setCtx x).mirror = s.mirror := rfl
@[simp] theorem State.setCtx_combine (s : State) (x : Ctx) : (s.setCtx x).combine = s.combine := rfl
@[simp] theorem State.setCtx_dropped (s : State) (x : Ctx) : (s.setCtx x).dropped = s.dropped := rfl
@[simp] theorem State.setCtx_shoots (s : State) (x : Ctx) : (s.setCtx x).shoots = s.shoots := rfl
@[simp] theorem State.setCtx_hostMem (s : State) (x : Ctx) : (s.setCtx x).hostMem = s.hostMem := rfl
@[simp] theorem State.setCtx_hostPoison (s : State) (x : Ctx) : (s.setCtx x).hostPoison = s.hostPoison := rfl
@[simp] theorem State.setCtx_pkgNo (s : State) (x : Ctx) : (s.setCtx x).pkgNo = s.pkgNo := rfl
@[simp] theorem State.setCtx_pkgAssigned (s : State) (x : Ctx) : (s.setCtx x).pkgAssigned = s.pkgAssigned := rfl
@[simp] theorem State.setCtx_exBase (s : State) (x : Ctx) : (s.setCtx x).exBase = s.exBase := rfl
@[simp] theorem State.setCtx_exLen (s : State) (x : Ctx) : (s.setCtx x).exLen = s.exLen := rfl
@[simp] theorem State.setCtx_peers (s : State) (x : Ctx) : (s.setCtx x).peers = s.peers := rfl
@[simp] theorem State.setCtx_peerOut (s : State) (x : Ctx) : (s.setCtx x).peerOut = s.peerOut := rfl
@[simp] theorem State.setCtx_peerNext (s : State) (x : Ctx) : (s.setCtx x).peerNext = s.peerNext := rfl
@[simp] theorem State.setCtx_peerSent (s : State) (x : Ctx) : (s.setCtx x).peerSent = s.peerSent := rfl
@[simp] theorem State.setCtx_spaces (s : State) (x : Ctx) : (s.setCtx x).spaces = s.spaces := rfl
@[simp] theorem State.setCtx_windows (s : State) (x : Ctx) : (s.setCtx x).windows = s.windows := rfl
@[simp] theorem State.setCtx_broadcastWin (s : State) (x : Ctx) : (s.setCtx x).broadcastWin = s.broadcastWin := rfl
@[simp] theorem State.setCtx_policyTimeout (s : State) (x : Ctx) : (s.setCtx x).policyTimeout = s.policyTimeout := rfl
@[simp] theorem State.setCtx_policyQuantum (s : State) (x : Ctx) : (s.setCtx x).policyQuantum = s.policyQuantum := rfl
@[simp] theorem State.setCtx_apbase (s : State) (x : Ctx) : (s.setCtx x).apbase = s.apbase := rfl
@[simp] theorem State.setCtx_bar2 (s : State) (x : Ctx) : (s.setCtx x).bar2 = s.bar2 := rfl
@[simp] theorem State.setCtx_mailboxes (s : State) (x : Ctx) : (s.setCtx x).mailboxes = s.mailboxes := rfl
@[simp] theorem State.setCtx_sendWin (s : State) (x : Ctx) : (s.setCtx x).sendWin = s.sendWin := rfl
@[simp] theorem State.setCtx_syncSel (s : State) (x : Ctx) : (s.setCtx x).syncSel = s.syncSel := rfl
@[simp] theorem State.setCtx_syncOld (s : State) (x : Ctx) : (s.setCtx x).syncOld = s.syncOld := rfl
@[simp] theorem State.setCtx_msix (s : State) (x : Ctx) : (s.setCtx x).msix = s.msix := rfl
@[simp] theorem State.setCtx_msixPending (s : State) (x : Ctx) : (s.setCtx x).msixPending = s.msixPending := rfl
@[simp] theorem State.setCtx_portHeld (s : State) (x : Ctx) : (s.setCtx x).portHeld = s.portHeld := rfl
@[simp] theorem State.setCtx_aer (s : State) (x : Ctx) : (s.setCtx x).aer = s.aer := rfl
@[simp] theorem State.setCtx_portSeq (s : State) (x : Ctx) : (s.setCtx x).portSeq = s.portSeq := rfl
@[simp] theorem State.setCtx_answers (s : State) (x : Ctx) : (s.setCtx x).answers = s.answers := rfl
@[simp] theorem State.setCtx_linkWidth (s : State) (x : Ctx) : (s.setCtx x).linkWidth = s.linkWidth := rfl
@[simp] theorem State.setCtx_linkSpeed (s : State) (x : Ctx) : (s.setCtx x).linkSpeed = s.linkSpeed := rfl
@[simp] theorem State.setCtx_hostLink (s : State) (x : Ctx) : (s.setCtx x).hostLink = s.hostLink := rfl
@[simp] theorem State.setCtx_stations (s : State) (x : Ctx) : (s.setCtx x).stations = s.stations := rfl
@[simp] theorem State.setCtx_lostXd (s : State) (x : Ctx) : (s.setCtx x).lostXd = s.lostXd := rfl
@[simp] theorem State.setCtx_fullDropped (s : State) (x : Ctx) : (s.setCtx x).fullDropped = s.fullDropped := rfl
@[simp] theorem State.setCtx_dropping (s : State) (x : Ctx) : (s.setCtx x).dropping = s.dropping := rfl
@[simp] theorem State.setCtx_faultyCompute (s : State) (x : Ctx) : (s.setCtx x).faultyCompute = s.faultyCompute := rfl
@[simp] theorem State.setCtx_faultyMemory (s : State) (x : Ctx) : (s.setCtx x).faultyMemory = s.faultyMemory := rfl
@[simp] theorem State.setCtx_bitErrors (s : State) (x : Ctx) : (s.setCtx x).bitErrors = s.bitErrors := rfl
@[simp] theorem State.setCtx_machineError (s : State) (x : Ctx) : (s.setCtx x).machineError = s.machineError := rfl
@[simp] theorem State.setCtx_areaCount (s : State) (x : Ctx) : (s.setCtx x).areaCount = s.areaCount := rfl
@[simp] theorem State.setCtx_tagErrors (s : State) (x : Ctx) : (s.setCtx x).tagErrors = s.tagErrors := rfl
@[simp] theorem State.setCtx_peersAssigned (s : State) (x : Ctx) : (s.setCtx x).peersAssigned = s.peersAssigned := rfl
@[simp] theorem State.setCtx_exAssigned (s : State) (x : Ctx) : (s.setCtx x).exAssigned = s.exAssigned := rfl
@[simp] theorem State.setCtx_restorable (s : State) (x : Ctx) : (s.setCtx x).restorable = s.restorable := rfl
@[simp] theorem State.setCtx_images (s : State) (x : Ctx) : (s.setCtx x).images = s.images := rfl
@[simp] theorem State.setCtx_logMachine (s : State) (x : Ctx) : (s.setCtx x).logMachine = s.logMachine := rfl
@[simp] theorem State.setCtx_logLaunch (s : State) (x : Ctx) : (s.setCtx x).logLaunch = s.logLaunch := rfl
@[simp] theorem State.setCtx_logRefusal (s : State) (x : Ctx) : (s.setCtx x).logRefusal = s.logRefusal := rfl
@[simp] theorem State.setCtx_logDrop (s : State) (x : Ctx) : (s.setCtx x).logDrop = s.logDrop := rfl
@[simp] theorem State.setCtx_logDead (s : State) (x : Ctx) : (s.setCtx x).logDead = s.logDead := rfl
@[simp] theorem State.setCtx_corrections (s : State) (x : Ctx) : (s.setCtx x).corrections = s.corrections := rfl
@[simp] theorem State.setCtx_reported (s : State) (x : Ctx) : (s.setCtx x).reported = s.reported := rfl
@[simp] theorem State.setCtx_temperature (s : State) (x : Ctx) : (s.setCtx x).temperature = s.temperature := rfl
@[simp] theorem State.setCtx_halfRate (s : State) (x : Ctx) : (s.setCtx x).halfRate = s.halfRate := rfl
@[simp] theorem State.setCtx_clockStopped (s : State) (x : Ctx) : (s.setCtx x).clockStopped = s.clockStopped := rfl
@[simp] theorem State.setCtx_budget (s : State) (x : Ctx) : (s.setCtx x).budget = s.budget := rfl
@[simp] theorem State.setCtx_powerCap (s : State) (x : Ctx) : (s.setCtx x).powerCap = s.powerCap := rfl
@[simp] theorem State.setCtx_security (s : State) (x : Ctx) : (s.setCtx x).security = s.security := rfl
@[simp] theorem State.setCtx_registrarImage (s : State) (x : Ctx) : (s.setCtx x).registrarImage = s.registrarImage := rfl
@[simp] theorem State.setCtx_curatorImage (s : State) (x : Ctx) : (s.setCtx x).curatorImage = s.curatorImage := rfl
@[simp] theorem State.setCtx_recovery (s : State) (x : Ctx) : (s.setCtx x).recovery = s.recovery := rfl
@[simp] theorem State.setCtx_up (s : State) (x : Ctx) : (s.setCtx x).up = s.up := rfl

/-! ## State.mapCtx -/

@[simp] theorem State.mapCtx_cur (s : State) (f : Ctx → Ctx) : (s.mapCtx f).cur = s.cur := rfl
@[simp] theorem State.mapCtx_curH (s : State) (f : Ctx → Ctx) : (s.mapCtx f).curH = s.curH := rfl
@[simp] theorem State.mapCtx_agenda (s : State) (f : Ctx → Ctx) : (s.mapCtx f).agenda = s.agenda := rfl
@[simp] theorem State.mapCtx_flight (s : State) (f : Ctx → Ctx) : (s.mapCtx f).flight = s.flight := rfl
@[simp] theorem State.mapCtx_choice (s : State) (f : Ctx → Ctx) : (s.mapCtx f).choice = s.choice := rfl
@[simp] theorem State.mapCtx_choices (s : State) (f : Ctx → Ctx) : (s.mapCtx f).choices = s.choices := rfl
@[simp] theorem State.mapCtx_turn (s : State) (f : Ctx → Ctx) : (s.mapCtx f).turn = s.turn := rfl
@[simp] theorem State.mapCtx_rings (s : State) (f : Ctx → Ctx) : (s.mapCtx f).rings = s.rings := rfl
@[simp] theorem State.mapCtx_hbm (s : State) (f : Ctx → Ctx) : (s.mapCtx f).hbm = s.hbm := rfl
@[simp] theorem State.mapCtx_wts (s : State) (f : Ctx → Ctx) : (s.mapCtx f).wts = s.wts := rfl
@[simp] theorem State.mapCtx_rts (s : State) (f : Ctx → Ctx) : (s.mapCtx f).rts = s.rts := rfl
@[simp] theorem State.mapCtx_poison (s : State) (f : Ctx → Ctx) : (s.mapCtx f).poison = s.poison := rfl
@[simp] theorem State.mapCtx_homeMap (s : State) (f : Ctx → Ctx) : (s.mapCtx f).homeMap = s.homeMap := rfl
@[simp] theorem State.mapCtx_striped (s : State) (f : Ctx → Ctx) : (s.mapCtx f).striped = s.striped := rfl
@[simp] theorem State.mapCtx_locks (s : State) (f : Ctx → Ctx) : (s.mapCtx f).locks = s.locks := rfl
@[simp] theorem State.mapCtx_pins (s : State) (f : Ctx → Ctx) : (s.mapCtx f).pins = s.pins := rfl
@[simp] theorem State.mapCtx_annex (s : State) (f : Ctx → Ctx) : (s.mapCtx f).annex = s.annex := rfl
@[simp] theorem State.mapCtx_cat (s : State) (f : Ctx → Ctx) : (s.mapCtx f).cat = s.cat := rfl
@[simp] theorem State.mapCtx_catClock (s : State) (f : Ctx → Ctx) : (s.mapCtx f).catClock = s.catClock := rfl
@[simp] theorem State.mapCtx_annexClock (s : State) (f : Ctx → Ctx) : (s.mapCtx f).annexClock = s.annexClock := rfl
@[simp] theorem State.mapCtx_slices (s : State) (f : Ctx → Ctx) : (s.mapCtx f).slices = s.slices := rfl
@[simp] theorem State.mapCtx_qmap (s : State) (f : Ctx → Ctx) : (s.mapCtx f).qmap = s.qmap := rfl
@[simp] theorem State.mapCtx_mirrorSeq (s : State) (f : Ctx → Ctx) : (s.mapCtx f).mirrorSeq = s.mirrorSeq := rfl
@[simp] theorem State.mapCtx_mirrorDone (s : State) (f : Ctx → Ctx) : (s.mapCtx f).mirrorDone = s.mirrorDone := rfl
@[simp] theorem State.mapCtx_frames (s : State) (f : Ctx → Ctx) : (s.mapCtx f).frames = s.frames := rfl
@[simp] theorem State.mapCtx_vit (s : State) (f : Ctx → Ctx) : (s.mapCtx f).vit = s.vit := rfl
@[simp] theorem State.mapCtx_tickets (s : State) (f : Ctx → Ctx) : (s.mapCtx f).tickets = s.tickets := rfl
@[simp] theorem State.mapCtx_sync (s : State) (f : Ctx → Ctx) : (s.mapCtx f).sync = s.sync := rfl
@[simp] theorem State.mapCtx_mirror (s : State) (f : Ctx → Ctx) : (s.mapCtx f).mirror = s.mirror := rfl
@[simp] theorem State.mapCtx_combine (s : State) (f : Ctx → Ctx) : (s.mapCtx f).combine = s.combine := rfl
@[simp] theorem State.mapCtx_dropped (s : State) (f : Ctx → Ctx) : (s.mapCtx f).dropped = s.dropped := rfl
@[simp] theorem State.mapCtx_shoots (s : State) (f : Ctx → Ctx) : (s.mapCtx f).shoots = s.shoots := rfl
@[simp] theorem State.mapCtx_hostMem (s : State) (f : Ctx → Ctx) : (s.mapCtx f).hostMem = s.hostMem := rfl
@[simp] theorem State.mapCtx_hostPoison (s : State) (f : Ctx → Ctx) : (s.mapCtx f).hostPoison = s.hostPoison := rfl
@[simp] theorem State.mapCtx_pkgNo (s : State) (f : Ctx → Ctx) : (s.mapCtx f).pkgNo = s.pkgNo := rfl
@[simp] theorem State.mapCtx_pkgAssigned (s : State) (f : Ctx → Ctx) : (s.mapCtx f).pkgAssigned = s.pkgAssigned := rfl
@[simp] theorem State.mapCtx_exBase (s : State) (f : Ctx → Ctx) : (s.mapCtx f).exBase = s.exBase := rfl
@[simp] theorem State.mapCtx_exLen (s : State) (f : Ctx → Ctx) : (s.mapCtx f).exLen = s.exLen := rfl
@[simp] theorem State.mapCtx_peers (s : State) (f : Ctx → Ctx) : (s.mapCtx f).peers = s.peers := rfl
@[simp] theorem State.mapCtx_peerOut (s : State) (f : Ctx → Ctx) : (s.mapCtx f).peerOut = s.peerOut := rfl
@[simp] theorem State.mapCtx_peerNext (s : State) (f : Ctx → Ctx) : (s.mapCtx f).peerNext = s.peerNext := rfl
@[simp] theorem State.mapCtx_peerSent (s : State) (f : Ctx → Ctx) : (s.mapCtx f).peerSent = s.peerSent := rfl
@[simp] theorem State.mapCtx_spaces (s : State) (f : Ctx → Ctx) : (s.mapCtx f).spaces = s.spaces := rfl
@[simp] theorem State.mapCtx_windows (s : State) (f : Ctx → Ctx) : (s.mapCtx f).windows = s.windows := rfl
@[simp] theorem State.mapCtx_broadcastWin (s : State) (f : Ctx → Ctx) : (s.mapCtx f).broadcastWin = s.broadcastWin := rfl
@[simp] theorem State.mapCtx_policyTimeout (s : State) (f : Ctx → Ctx) : (s.mapCtx f).policyTimeout = s.policyTimeout := rfl
@[simp] theorem State.mapCtx_policyQuantum (s : State) (f : Ctx → Ctx) : (s.mapCtx f).policyQuantum = s.policyQuantum := rfl
@[simp] theorem State.mapCtx_apbase (s : State) (f : Ctx → Ctx) : (s.mapCtx f).apbase = s.apbase := rfl
@[simp] theorem State.mapCtx_bar2 (s : State) (f : Ctx → Ctx) : (s.mapCtx f).bar2 = s.bar2 := rfl
@[simp] theorem State.mapCtx_mailboxes (s : State) (f : Ctx → Ctx) : (s.mapCtx f).mailboxes = s.mailboxes := rfl
@[simp] theorem State.mapCtx_sendWin (s : State) (f : Ctx → Ctx) : (s.mapCtx f).sendWin = s.sendWin := rfl
@[simp] theorem State.mapCtx_syncSel (s : State) (f : Ctx → Ctx) : (s.mapCtx f).syncSel = s.syncSel := rfl
@[simp] theorem State.mapCtx_syncOld (s : State) (f : Ctx → Ctx) : (s.mapCtx f).syncOld = s.syncOld := rfl
@[simp] theorem State.mapCtx_msix (s : State) (f : Ctx → Ctx) : (s.mapCtx f).msix = s.msix := rfl
@[simp] theorem State.mapCtx_msixPending (s : State) (f : Ctx → Ctx) : (s.mapCtx f).msixPending = s.msixPending := rfl
@[simp] theorem State.mapCtx_portHeld (s : State) (f : Ctx → Ctx) : (s.mapCtx f).portHeld = s.portHeld := rfl
@[simp] theorem State.mapCtx_aer (s : State) (f : Ctx → Ctx) : (s.mapCtx f).aer = s.aer := rfl
@[simp] theorem State.mapCtx_portSeq (s : State) (f : Ctx → Ctx) : (s.mapCtx f).portSeq = s.portSeq := rfl
@[simp] theorem State.mapCtx_answers (s : State) (f : Ctx → Ctx) : (s.mapCtx f).answers = s.answers := rfl
@[simp] theorem State.mapCtx_linkWidth (s : State) (f : Ctx → Ctx) : (s.mapCtx f).linkWidth = s.linkWidth := rfl
@[simp] theorem State.mapCtx_linkSpeed (s : State) (f : Ctx → Ctx) : (s.mapCtx f).linkSpeed = s.linkSpeed := rfl
@[simp] theorem State.mapCtx_hostLink (s : State) (f : Ctx → Ctx) : (s.mapCtx f).hostLink = s.hostLink := rfl
@[simp] theorem State.mapCtx_stations (s : State) (f : Ctx → Ctx) : (s.mapCtx f).stations = s.stations := rfl
@[simp] theorem State.mapCtx_lostXd (s : State) (f : Ctx → Ctx) : (s.mapCtx f).lostXd = s.lostXd := rfl
@[simp] theorem State.mapCtx_fullDropped (s : State) (f : Ctx → Ctx) : (s.mapCtx f).fullDropped = s.fullDropped := rfl
@[simp] theorem State.mapCtx_dropping (s : State) (f : Ctx → Ctx) : (s.mapCtx f).dropping = s.dropping := rfl
@[simp] theorem State.mapCtx_faultyCompute (s : State) (f : Ctx → Ctx) : (s.mapCtx f).faultyCompute = s.faultyCompute := rfl
@[simp] theorem State.mapCtx_faultyMemory (s : State) (f : Ctx → Ctx) : (s.mapCtx f).faultyMemory = s.faultyMemory := rfl
@[simp] theorem State.mapCtx_bitErrors (s : State) (f : Ctx → Ctx) : (s.mapCtx f).bitErrors = s.bitErrors := rfl
@[simp] theorem State.mapCtx_machineError (s : State) (f : Ctx → Ctx) : (s.mapCtx f).machineError = s.machineError := rfl
@[simp] theorem State.mapCtx_areaCount (s : State) (f : Ctx → Ctx) : (s.mapCtx f).areaCount = s.areaCount := rfl
@[simp] theorem State.mapCtx_tagErrors (s : State) (f : Ctx → Ctx) : (s.mapCtx f).tagErrors = s.tagErrors := rfl
@[simp] theorem State.mapCtx_peersAssigned (s : State) (f : Ctx → Ctx) : (s.mapCtx f).peersAssigned = s.peersAssigned := rfl
@[simp] theorem State.mapCtx_exAssigned (s : State) (f : Ctx → Ctx) : (s.mapCtx f).exAssigned = s.exAssigned := rfl
@[simp] theorem State.mapCtx_restorable (s : State) (f : Ctx → Ctx) : (s.mapCtx f).restorable = s.restorable := rfl
@[simp] theorem State.mapCtx_images (s : State) (f : Ctx → Ctx) : (s.mapCtx f).images = s.images := rfl
@[simp] theorem State.mapCtx_logMachine (s : State) (f : Ctx → Ctx) : (s.mapCtx f).logMachine = s.logMachine := rfl
@[simp] theorem State.mapCtx_logLaunch (s : State) (f : Ctx → Ctx) : (s.mapCtx f).logLaunch = s.logLaunch := rfl
@[simp] theorem State.mapCtx_logRefusal (s : State) (f : Ctx → Ctx) : (s.mapCtx f).logRefusal = s.logRefusal := rfl
@[simp] theorem State.mapCtx_logDrop (s : State) (f : Ctx → Ctx) : (s.mapCtx f).logDrop = s.logDrop := rfl
@[simp] theorem State.mapCtx_logDead (s : State) (f : Ctx → Ctx) : (s.mapCtx f).logDead = s.logDead := rfl
@[simp] theorem State.mapCtx_corrections (s : State) (f : Ctx → Ctx) : (s.mapCtx f).corrections = s.corrections := rfl
@[simp] theorem State.mapCtx_reported (s : State) (f : Ctx → Ctx) : (s.mapCtx f).reported = s.reported := rfl
@[simp] theorem State.mapCtx_temperature (s : State) (f : Ctx → Ctx) : (s.mapCtx f).temperature = s.temperature := rfl
@[simp] theorem State.mapCtx_halfRate (s : State) (f : Ctx → Ctx) : (s.mapCtx f).halfRate = s.halfRate := rfl
@[simp] theorem State.mapCtx_clockStopped (s : State) (f : Ctx → Ctx) : (s.mapCtx f).clockStopped = s.clockStopped := rfl
@[simp] theorem State.mapCtx_budget (s : State) (f : Ctx → Ctx) : (s.mapCtx f).budget = s.budget := rfl
@[simp] theorem State.mapCtx_powerCap (s : State) (f : Ctx → Ctx) : (s.mapCtx f).powerCap = s.powerCap := rfl
@[simp] theorem State.mapCtx_security (s : State) (f : Ctx → Ctx) : (s.mapCtx f).security = s.security := rfl
@[simp] theorem State.mapCtx_registrarImage (s : State) (f : Ctx → Ctx) : (s.mapCtx f).registrarImage = s.registrarImage := rfl
@[simp] theorem State.mapCtx_curatorImage (s : State) (f : Ctx → Ctx) : (s.mapCtx f).curatorImage = s.curatorImage := rfl
@[simp] theorem State.mapCtx_recovery (s : State) (f : Ctx → Ctx) : (s.mapCtx f).recovery = s.recovery := rfl
@[simp] theorem State.mapCtx_up (s : State) (f : Ctx → Ctx) : (s.mapCtx f).up = s.up := rfl

/-! ## State.setRing -/

@[simp] theorem State.setRing_cur (s : State) (r : Nat) (x : Ring) : (s.setRing r x).cur = s.cur := rfl
@[simp] theorem State.setRing_curH (s : State) (r : Nat) (x : Ring) : (s.setRing r x).curH = s.curH := rfl
@[simp] theorem State.setRing_agenda (s : State) (r : Nat) (x : Ring) : (s.setRing r x).agenda = s.agenda := rfl
@[simp] theorem State.setRing_flight (s : State) (r : Nat) (x : Ring) : (s.setRing r x).flight = s.flight := rfl
@[simp] theorem State.setRing_choice (s : State) (r : Nat) (x : Ring) : (s.setRing r x).choice = s.choice := rfl
@[simp] theorem State.setRing_choices (s : State) (r : Nat) (x : Ring) : (s.setRing r x).choices = s.choices := rfl
@[simp] theorem State.setRing_turn (s : State) (r : Nat) (x : Ring) : (s.setRing r x).turn = s.turn := rfl
@[simp] theorem State.setRing_cores (s : State) (r : Nat) (x : Ring) : (s.setRing r x).cores = s.cores := rfl
@[simp] theorem State.setRing_hbm (s : State) (r : Nat) (x : Ring) : (s.setRing r x).hbm = s.hbm := rfl
@[simp] theorem State.setRing_wts (s : State) (r : Nat) (x : Ring) : (s.setRing r x).wts = s.wts := rfl
@[simp] theorem State.setRing_rts (s : State) (r : Nat) (x : Ring) : (s.setRing r x).rts = s.rts := rfl
@[simp] theorem State.setRing_poison (s : State) (r : Nat) (x : Ring) : (s.setRing r x).poison = s.poison := rfl
@[simp] theorem State.setRing_homeMap (s : State) (r : Nat) (x : Ring) : (s.setRing r x).homeMap = s.homeMap := rfl
@[simp] theorem State.setRing_striped (s : State) (r : Nat) (x : Ring) : (s.setRing r x).striped = s.striped := rfl
@[simp] theorem State.setRing_locks (s : State) (r : Nat) (x : Ring) : (s.setRing r x).locks = s.locks := rfl
@[simp] theorem State.setRing_pins (s : State) (r : Nat) (x : Ring) : (s.setRing r x).pins = s.pins := rfl
@[simp] theorem State.setRing_annex (s : State) (r : Nat) (x : Ring) : (s.setRing r x).annex = s.annex := rfl
@[simp] theorem State.setRing_cat (s : State) (r : Nat) (x : Ring) : (s.setRing r x).cat = s.cat := rfl
@[simp] theorem State.setRing_catClock (s : State) (r : Nat) (x : Ring) : (s.setRing r x).catClock = s.catClock := rfl
@[simp] theorem State.setRing_annexClock (s : State) (r : Nat) (x : Ring) : (s.setRing r x).annexClock = s.annexClock := rfl
@[simp] theorem State.setRing_slices (s : State) (r : Nat) (x : Ring) : (s.setRing r x).slices = s.slices := rfl
@[simp] theorem State.setRing_qmap (s : State) (r : Nat) (x : Ring) : (s.setRing r x).qmap = s.qmap := rfl
@[simp] theorem State.setRing_mirrorSeq (s : State) (r : Nat) (x : Ring) : (s.setRing r x).mirrorSeq = s.mirrorSeq := rfl
@[simp] theorem State.setRing_mirrorDone (s : State) (r : Nat) (x : Ring) : (s.setRing r x).mirrorDone = s.mirrorDone := rfl
@[simp] theorem State.setRing_frames (s : State) (r : Nat) (x : Ring) : (s.setRing r x).frames = s.frames := rfl
@[simp] theorem State.setRing_vit (s : State) (r : Nat) (x : Ring) : (s.setRing r x).vit = s.vit := rfl
@[simp] theorem State.setRing_tickets (s : State) (r : Nat) (x : Ring) : (s.setRing r x).tickets = s.tickets := rfl
@[simp] theorem State.setRing_sync (s : State) (r : Nat) (x : Ring) : (s.setRing r x).sync = s.sync := rfl
@[simp] theorem State.setRing_mirror (s : State) (r : Nat) (x : Ring) : (s.setRing r x).mirror = s.mirror := rfl
@[simp] theorem State.setRing_combine (s : State) (r : Nat) (x : Ring) : (s.setRing r x).combine = s.combine := rfl
@[simp] theorem State.setRing_dropped (s : State) (r : Nat) (x : Ring) : (s.setRing r x).dropped = s.dropped := rfl
@[simp] theorem State.setRing_shoots (s : State) (r : Nat) (x : Ring) : (s.setRing r x).shoots = s.shoots := rfl
@[simp] theorem State.setRing_hostMem (s : State) (r : Nat) (x : Ring) : (s.setRing r x).hostMem = s.hostMem := rfl
@[simp] theorem State.setRing_hostPoison (s : State) (r : Nat) (x : Ring) : (s.setRing r x).hostPoison = s.hostPoison := rfl
@[simp] theorem State.setRing_pkgNo (s : State) (r : Nat) (x : Ring) : (s.setRing r x).pkgNo = s.pkgNo := rfl
@[simp] theorem State.setRing_pkgAssigned (s : State) (r : Nat) (x : Ring) : (s.setRing r x).pkgAssigned = s.pkgAssigned := rfl
@[simp] theorem State.setRing_exBase (s : State) (r : Nat) (x : Ring) : (s.setRing r x).exBase = s.exBase := rfl
@[simp] theorem State.setRing_exLen (s : State) (r : Nat) (x : Ring) : (s.setRing r x).exLen = s.exLen := rfl
@[simp] theorem State.setRing_peers (s : State) (r : Nat) (x : Ring) : (s.setRing r x).peers = s.peers := rfl
@[simp] theorem State.setRing_peerOut (s : State) (r : Nat) (x : Ring) : (s.setRing r x).peerOut = s.peerOut := rfl
@[simp] theorem State.setRing_peerNext (s : State) (r : Nat) (x : Ring) : (s.setRing r x).peerNext = s.peerNext := rfl
@[simp] theorem State.setRing_peerSent (s : State) (r : Nat) (x : Ring) : (s.setRing r x).peerSent = s.peerSent := rfl
@[simp] theorem State.setRing_spaces (s : State) (r : Nat) (x : Ring) : (s.setRing r x).spaces = s.spaces := rfl
@[simp] theorem State.setRing_windows (s : State) (r : Nat) (x : Ring) : (s.setRing r x).windows = s.windows := rfl
@[simp] theorem State.setRing_broadcastWin (s : State) (r : Nat) (x : Ring) : (s.setRing r x).broadcastWin = s.broadcastWin := rfl
@[simp] theorem State.setRing_policyTimeout (s : State) (r : Nat) (x : Ring) : (s.setRing r x).policyTimeout = s.policyTimeout := rfl
@[simp] theorem State.setRing_policyQuantum (s : State) (r : Nat) (x : Ring) : (s.setRing r x).policyQuantum = s.policyQuantum := rfl
@[simp] theorem State.setRing_apbase (s : State) (r : Nat) (x : Ring) : (s.setRing r x).apbase = s.apbase := rfl
@[simp] theorem State.setRing_bar2 (s : State) (r : Nat) (x : Ring) : (s.setRing r x).bar2 = s.bar2 := rfl
@[simp] theorem State.setRing_mailboxes (s : State) (r : Nat) (x : Ring) : (s.setRing r x).mailboxes = s.mailboxes := rfl
@[simp] theorem State.setRing_sendWin (s : State) (r : Nat) (x : Ring) : (s.setRing r x).sendWin = s.sendWin := rfl
@[simp] theorem State.setRing_syncSel (s : State) (r : Nat) (x : Ring) : (s.setRing r x).syncSel = s.syncSel := rfl
@[simp] theorem State.setRing_syncOld (s : State) (r : Nat) (x : Ring) : (s.setRing r x).syncOld = s.syncOld := rfl
@[simp] theorem State.setRing_msix (s : State) (r : Nat) (x : Ring) : (s.setRing r x).msix = s.msix := rfl
@[simp] theorem State.setRing_msixPending (s : State) (r : Nat) (x : Ring) : (s.setRing r x).msixPending = s.msixPending := rfl
@[simp] theorem State.setRing_portHeld (s : State) (r : Nat) (x : Ring) : (s.setRing r x).portHeld = s.portHeld := rfl
@[simp] theorem State.setRing_aer (s : State) (r : Nat) (x : Ring) : (s.setRing r x).aer = s.aer := rfl
@[simp] theorem State.setRing_portSeq (s : State) (r : Nat) (x : Ring) : (s.setRing r x).portSeq = s.portSeq := rfl
@[simp] theorem State.setRing_answers (s : State) (r : Nat) (x : Ring) : (s.setRing r x).answers = s.answers := rfl
@[simp] theorem State.setRing_linkWidth (s : State) (r : Nat) (x : Ring) : (s.setRing r x).linkWidth = s.linkWidth := rfl
@[simp] theorem State.setRing_linkSpeed (s : State) (r : Nat) (x : Ring) : (s.setRing r x).linkSpeed = s.linkSpeed := rfl
@[simp] theorem State.setRing_hostLink (s : State) (r : Nat) (x : Ring) : (s.setRing r x).hostLink = s.hostLink := rfl
@[simp] theorem State.setRing_stations (s : State) (r : Nat) (x : Ring) : (s.setRing r x).stations = s.stations := rfl
@[simp] theorem State.setRing_lostXd (s : State) (r : Nat) (x : Ring) : (s.setRing r x).lostXd = s.lostXd := rfl
@[simp] theorem State.setRing_fullDropped (s : State) (r : Nat) (x : Ring) : (s.setRing r x).fullDropped = s.fullDropped := rfl
@[simp] theorem State.setRing_dropping (s : State) (r : Nat) (x : Ring) : (s.setRing r x).dropping = s.dropping := rfl
@[simp] theorem State.setRing_faultyCompute (s : State) (r : Nat) (x : Ring) : (s.setRing r x).faultyCompute = s.faultyCompute := rfl
@[simp] theorem State.setRing_faultyMemory (s : State) (r : Nat) (x : Ring) : (s.setRing r x).faultyMemory = s.faultyMemory := rfl
@[simp] theorem State.setRing_bitErrors (s : State) (r : Nat) (x : Ring) : (s.setRing r x).bitErrors = s.bitErrors := rfl
@[simp] theorem State.setRing_machineError (s : State) (r : Nat) (x : Ring) : (s.setRing r x).machineError = s.machineError := rfl
@[simp] theorem State.setRing_areaCount (s : State) (r : Nat) (x : Ring) : (s.setRing r x).areaCount = s.areaCount := rfl
@[simp] theorem State.setRing_tagErrors (s : State) (r : Nat) (x : Ring) : (s.setRing r x).tagErrors = s.tagErrors := rfl
@[simp] theorem State.setRing_peersAssigned (s : State) (r : Nat) (x : Ring) : (s.setRing r x).peersAssigned = s.peersAssigned := rfl
@[simp] theorem State.setRing_exAssigned (s : State) (r : Nat) (x : Ring) : (s.setRing r x).exAssigned = s.exAssigned := rfl
@[simp] theorem State.setRing_restorable (s : State) (r : Nat) (x : Ring) : (s.setRing r x).restorable = s.restorable := rfl
@[simp] theorem State.setRing_images (s : State) (r : Nat) (x : Ring) : (s.setRing r x).images = s.images := rfl
@[simp] theorem State.setRing_logMachine (s : State) (r : Nat) (x : Ring) : (s.setRing r x).logMachine = s.logMachine := rfl
@[simp] theorem State.setRing_logLaunch (s : State) (r : Nat) (x : Ring) : (s.setRing r x).logLaunch = s.logLaunch := rfl
@[simp] theorem State.setRing_logRefusal (s : State) (r : Nat) (x : Ring) : (s.setRing r x).logRefusal = s.logRefusal := rfl
@[simp] theorem State.setRing_logDrop (s : State) (r : Nat) (x : Ring) : (s.setRing r x).logDrop = s.logDrop := rfl
@[simp] theorem State.setRing_logDead (s : State) (r : Nat) (x : Ring) : (s.setRing r x).logDead = s.logDead := rfl
@[simp] theorem State.setRing_corrections (s : State) (r : Nat) (x : Ring) : (s.setRing r x).corrections = s.corrections := rfl
@[simp] theorem State.setRing_reported (s : State) (r : Nat) (x : Ring) : (s.setRing r x).reported = s.reported := rfl
@[simp] theorem State.setRing_temperature (s : State) (r : Nat) (x : Ring) : (s.setRing r x).temperature = s.temperature := rfl
@[simp] theorem State.setRing_halfRate (s : State) (r : Nat) (x : Ring) : (s.setRing r x).halfRate = s.halfRate := rfl
@[simp] theorem State.setRing_clockStopped (s : State) (r : Nat) (x : Ring) : (s.setRing r x).clockStopped = s.clockStopped := rfl
@[simp] theorem State.setRing_budget (s : State) (r : Nat) (x : Ring) : (s.setRing r x).budget = s.budget := rfl
@[simp] theorem State.setRing_powerCap (s : State) (r : Nat) (x : Ring) : (s.setRing r x).powerCap = s.powerCap := rfl
@[simp] theorem State.setRing_security (s : State) (r : Nat) (x : Ring) : (s.setRing r x).security = s.security := rfl
@[simp] theorem State.setRing_registrarImage (s : State) (r : Nat) (x : Ring) : (s.setRing r x).registrarImage = s.registrarImage := rfl
@[simp] theorem State.setRing_curatorImage (s : State) (r : Nat) (x : Ring) : (s.setRing r x).curatorImage = s.curatorImage := rfl
@[simp] theorem State.setRing_recovery (s : State) (r : Nat) (x : Ring) : (s.setRing r x).recovery = s.recovery := rfl
@[simp] theorem State.setRing_up (s : State) (r : Nat) (x : Ring) : (s.setRing r x).up = s.up := rfl

/-! ## State.mapRing -/

@[simp] theorem State.mapRing_cur (s : State) (r : Nat) (f : Ring → Ring) : (s.mapRing r f).cur = s.cur := rfl
@[simp] theorem State.mapRing_curH (s : State) (r : Nat) (f : Ring → Ring) : (s.mapRing r f).curH = s.curH := rfl
@[simp] theorem State.mapRing_agenda (s : State) (r : Nat) (f : Ring → Ring) : (s.mapRing r f).agenda = s.agenda := rfl
@[simp] theorem State.mapRing_flight (s : State) (r : Nat) (f : Ring → Ring) : (s.mapRing r f).flight = s.flight := rfl
@[simp] theorem State.mapRing_choice (s : State) (r : Nat) (f : Ring → Ring) : (s.mapRing r f).choice = s.choice := rfl
@[simp] theorem State.mapRing_choices (s : State) (r : Nat) (f : Ring → Ring) : (s.mapRing r f).choices = s.choices := rfl
@[simp] theorem State.mapRing_turn (s : State) (r : Nat) (f : Ring → Ring) : (s.mapRing r f).turn = s.turn := rfl
@[simp] theorem State.mapRing_cores (s : State) (r : Nat) (f : Ring → Ring) : (s.mapRing r f).cores = s.cores := rfl
@[simp] theorem State.mapRing_hbm (s : State) (r : Nat) (f : Ring → Ring) : (s.mapRing r f).hbm = s.hbm := rfl
@[simp] theorem State.mapRing_wts (s : State) (r : Nat) (f : Ring → Ring) : (s.mapRing r f).wts = s.wts := rfl
@[simp] theorem State.mapRing_rts (s : State) (r : Nat) (f : Ring → Ring) : (s.mapRing r f).rts = s.rts := rfl
@[simp] theorem State.mapRing_poison (s : State) (r : Nat) (f : Ring → Ring) : (s.mapRing r f).poison = s.poison := rfl
@[simp] theorem State.mapRing_homeMap (s : State) (r : Nat) (f : Ring → Ring) : (s.mapRing r f).homeMap = s.homeMap := rfl
@[simp] theorem State.mapRing_striped (s : State) (r : Nat) (f : Ring → Ring) : (s.mapRing r f).striped = s.striped := rfl
@[simp] theorem State.mapRing_locks (s : State) (r : Nat) (f : Ring → Ring) : (s.mapRing r f).locks = s.locks := rfl
@[simp] theorem State.mapRing_pins (s : State) (r : Nat) (f : Ring → Ring) : (s.mapRing r f).pins = s.pins := rfl
@[simp] theorem State.mapRing_annex (s : State) (r : Nat) (f : Ring → Ring) : (s.mapRing r f).annex = s.annex := rfl
@[simp] theorem State.mapRing_cat (s : State) (r : Nat) (f : Ring → Ring) : (s.mapRing r f).cat = s.cat := rfl
@[simp] theorem State.mapRing_catClock (s : State) (r : Nat) (f : Ring → Ring) : (s.mapRing r f).catClock = s.catClock := rfl
@[simp] theorem State.mapRing_annexClock (s : State) (r : Nat) (f : Ring → Ring) : (s.mapRing r f).annexClock = s.annexClock := rfl
@[simp] theorem State.mapRing_slices (s : State) (r : Nat) (f : Ring → Ring) : (s.mapRing r f).slices = s.slices := rfl
@[simp] theorem State.mapRing_qmap (s : State) (r : Nat) (f : Ring → Ring) : (s.mapRing r f).qmap = s.qmap := rfl
@[simp] theorem State.mapRing_mirrorSeq (s : State) (r : Nat) (f : Ring → Ring) : (s.mapRing r f).mirrorSeq = s.mirrorSeq := rfl
@[simp] theorem State.mapRing_mirrorDone (s : State) (r : Nat) (f : Ring → Ring) : (s.mapRing r f).mirrorDone = s.mirrorDone := rfl
@[simp] theorem State.mapRing_frames (s : State) (r : Nat) (f : Ring → Ring) : (s.mapRing r f).frames = s.frames := rfl
@[simp] theorem State.mapRing_vit (s : State) (r : Nat) (f : Ring → Ring) : (s.mapRing r f).vit = s.vit := rfl
@[simp] theorem State.mapRing_tickets (s : State) (r : Nat) (f : Ring → Ring) : (s.mapRing r f).tickets = s.tickets := rfl
@[simp] theorem State.mapRing_sync (s : State) (r : Nat) (f : Ring → Ring) : (s.mapRing r f).sync = s.sync := rfl
@[simp] theorem State.mapRing_mirror (s : State) (r : Nat) (f : Ring → Ring) : (s.mapRing r f).mirror = s.mirror := rfl
@[simp] theorem State.mapRing_combine (s : State) (r : Nat) (f : Ring → Ring) : (s.mapRing r f).combine = s.combine := rfl
@[simp] theorem State.mapRing_dropped (s : State) (r : Nat) (f : Ring → Ring) : (s.mapRing r f).dropped = s.dropped := rfl
@[simp] theorem State.mapRing_shoots (s : State) (r : Nat) (f : Ring → Ring) : (s.mapRing r f).shoots = s.shoots := rfl
@[simp] theorem State.mapRing_hostMem (s : State) (r : Nat) (f : Ring → Ring) : (s.mapRing r f).hostMem = s.hostMem := rfl
@[simp] theorem State.mapRing_hostPoison (s : State) (r : Nat) (f : Ring → Ring) : (s.mapRing r f).hostPoison = s.hostPoison := rfl
@[simp] theorem State.mapRing_pkgNo (s : State) (r : Nat) (f : Ring → Ring) : (s.mapRing r f).pkgNo = s.pkgNo := rfl
@[simp] theorem State.mapRing_pkgAssigned (s : State) (r : Nat) (f : Ring → Ring) : (s.mapRing r f).pkgAssigned = s.pkgAssigned := rfl
@[simp] theorem State.mapRing_exBase (s : State) (r : Nat) (f : Ring → Ring) : (s.mapRing r f).exBase = s.exBase := rfl
@[simp] theorem State.mapRing_exLen (s : State) (r : Nat) (f : Ring → Ring) : (s.mapRing r f).exLen = s.exLen := rfl
@[simp] theorem State.mapRing_peers (s : State) (r : Nat) (f : Ring → Ring) : (s.mapRing r f).peers = s.peers := rfl
@[simp] theorem State.mapRing_peerOut (s : State) (r : Nat) (f : Ring → Ring) : (s.mapRing r f).peerOut = s.peerOut := rfl
@[simp] theorem State.mapRing_peerNext (s : State) (r : Nat) (f : Ring → Ring) : (s.mapRing r f).peerNext = s.peerNext := rfl
@[simp] theorem State.mapRing_peerSent (s : State) (r : Nat) (f : Ring → Ring) : (s.mapRing r f).peerSent = s.peerSent := rfl
@[simp] theorem State.mapRing_spaces (s : State) (r : Nat) (f : Ring → Ring) : (s.mapRing r f).spaces = s.spaces := rfl
@[simp] theorem State.mapRing_windows (s : State) (r : Nat) (f : Ring → Ring) : (s.mapRing r f).windows = s.windows := rfl
@[simp] theorem State.mapRing_broadcastWin (s : State) (r : Nat) (f : Ring → Ring) : (s.mapRing r f).broadcastWin = s.broadcastWin := rfl
@[simp] theorem State.mapRing_policyTimeout (s : State) (r : Nat) (f : Ring → Ring) : (s.mapRing r f).policyTimeout = s.policyTimeout := rfl
@[simp] theorem State.mapRing_policyQuantum (s : State) (r : Nat) (f : Ring → Ring) : (s.mapRing r f).policyQuantum = s.policyQuantum := rfl
@[simp] theorem State.mapRing_apbase (s : State) (r : Nat) (f : Ring → Ring) : (s.mapRing r f).apbase = s.apbase := rfl
@[simp] theorem State.mapRing_bar2 (s : State) (r : Nat) (f : Ring → Ring) : (s.mapRing r f).bar2 = s.bar2 := rfl
@[simp] theorem State.mapRing_mailboxes (s : State) (r : Nat) (f : Ring → Ring) : (s.mapRing r f).mailboxes = s.mailboxes := rfl
@[simp] theorem State.mapRing_sendWin (s : State) (r : Nat) (f : Ring → Ring) : (s.mapRing r f).sendWin = s.sendWin := rfl
@[simp] theorem State.mapRing_syncSel (s : State) (r : Nat) (f : Ring → Ring) : (s.mapRing r f).syncSel = s.syncSel := rfl
@[simp] theorem State.mapRing_syncOld (s : State) (r : Nat) (f : Ring → Ring) : (s.mapRing r f).syncOld = s.syncOld := rfl
@[simp] theorem State.mapRing_msix (s : State) (r : Nat) (f : Ring → Ring) : (s.mapRing r f).msix = s.msix := rfl
@[simp] theorem State.mapRing_msixPending (s : State) (r : Nat) (f : Ring → Ring) : (s.mapRing r f).msixPending = s.msixPending := rfl
@[simp] theorem State.mapRing_portHeld (s : State) (r : Nat) (f : Ring → Ring) : (s.mapRing r f).portHeld = s.portHeld := rfl
@[simp] theorem State.mapRing_aer (s : State) (r : Nat) (f : Ring → Ring) : (s.mapRing r f).aer = s.aer := rfl
@[simp] theorem State.mapRing_portSeq (s : State) (r : Nat) (f : Ring → Ring) : (s.mapRing r f).portSeq = s.portSeq := rfl
@[simp] theorem State.mapRing_answers (s : State) (r : Nat) (f : Ring → Ring) : (s.mapRing r f).answers = s.answers := rfl
@[simp] theorem State.mapRing_linkWidth (s : State) (r : Nat) (f : Ring → Ring) : (s.mapRing r f).linkWidth = s.linkWidth := rfl
@[simp] theorem State.mapRing_linkSpeed (s : State) (r : Nat) (f : Ring → Ring) : (s.mapRing r f).linkSpeed = s.linkSpeed := rfl
@[simp] theorem State.mapRing_hostLink (s : State) (r : Nat) (f : Ring → Ring) : (s.mapRing r f).hostLink = s.hostLink := rfl
@[simp] theorem State.mapRing_stations (s : State) (r : Nat) (f : Ring → Ring) : (s.mapRing r f).stations = s.stations := rfl
@[simp] theorem State.mapRing_lostXd (s : State) (r : Nat) (f : Ring → Ring) : (s.mapRing r f).lostXd = s.lostXd := rfl
@[simp] theorem State.mapRing_fullDropped (s : State) (r : Nat) (f : Ring → Ring) : (s.mapRing r f).fullDropped = s.fullDropped := rfl
@[simp] theorem State.mapRing_dropping (s : State) (r : Nat) (f : Ring → Ring) : (s.mapRing r f).dropping = s.dropping := rfl
@[simp] theorem State.mapRing_faultyCompute (s : State) (r : Nat) (f : Ring → Ring) : (s.mapRing r f).faultyCompute = s.faultyCompute := rfl
@[simp] theorem State.mapRing_faultyMemory (s : State) (r : Nat) (f : Ring → Ring) : (s.mapRing r f).faultyMemory = s.faultyMemory := rfl
@[simp] theorem State.mapRing_bitErrors (s : State) (r : Nat) (f : Ring → Ring) : (s.mapRing r f).bitErrors = s.bitErrors := rfl
@[simp] theorem State.mapRing_machineError (s : State) (r : Nat) (f : Ring → Ring) : (s.mapRing r f).machineError = s.machineError := rfl
@[simp] theorem State.mapRing_areaCount (s : State) (r : Nat) (f : Ring → Ring) : (s.mapRing r f).areaCount = s.areaCount := rfl
@[simp] theorem State.mapRing_tagErrors (s : State) (r : Nat) (f : Ring → Ring) : (s.mapRing r f).tagErrors = s.tagErrors := rfl
@[simp] theorem State.mapRing_peersAssigned (s : State) (r : Nat) (f : Ring → Ring) : (s.mapRing r f).peersAssigned = s.peersAssigned := rfl
@[simp] theorem State.mapRing_exAssigned (s : State) (r : Nat) (f : Ring → Ring) : (s.mapRing r f).exAssigned = s.exAssigned := rfl
@[simp] theorem State.mapRing_restorable (s : State) (r : Nat) (f : Ring → Ring) : (s.mapRing r f).restorable = s.restorable := rfl
@[simp] theorem State.mapRing_images (s : State) (r : Nat) (f : Ring → Ring) : (s.mapRing r f).images = s.images := rfl
@[simp] theorem State.mapRing_logMachine (s : State) (r : Nat) (f : Ring → Ring) : (s.mapRing r f).logMachine = s.logMachine := rfl
@[simp] theorem State.mapRing_logLaunch (s : State) (r : Nat) (f : Ring → Ring) : (s.mapRing r f).logLaunch = s.logLaunch := rfl
@[simp] theorem State.mapRing_logRefusal (s : State) (r : Nat) (f : Ring → Ring) : (s.mapRing r f).logRefusal = s.logRefusal := rfl
@[simp] theorem State.mapRing_logDrop (s : State) (r : Nat) (f : Ring → Ring) : (s.mapRing r f).logDrop = s.logDrop := rfl
@[simp] theorem State.mapRing_logDead (s : State) (r : Nat) (f : Ring → Ring) : (s.mapRing r f).logDead = s.logDead := rfl
@[simp] theorem State.mapRing_corrections (s : State) (r : Nat) (f : Ring → Ring) : (s.mapRing r f).corrections = s.corrections := rfl
@[simp] theorem State.mapRing_reported (s : State) (r : Nat) (f : Ring → Ring) : (s.mapRing r f).reported = s.reported := rfl
@[simp] theorem State.mapRing_temperature (s : State) (r : Nat) (f : Ring → Ring) : (s.mapRing r f).temperature = s.temperature := rfl
@[simp] theorem State.mapRing_halfRate (s : State) (r : Nat) (f : Ring → Ring) : (s.mapRing r f).halfRate = s.halfRate := rfl
@[simp] theorem State.mapRing_clockStopped (s : State) (r : Nat) (f : Ring → Ring) : (s.mapRing r f).clockStopped = s.clockStopped := rfl
@[simp] theorem State.mapRing_budget (s : State) (r : Nat) (f : Ring → Ring) : (s.mapRing r f).budget = s.budget := rfl
@[simp] theorem State.mapRing_powerCap (s : State) (r : Nat) (f : Ring → Ring) : (s.mapRing r f).powerCap = s.powerCap := rfl
@[simp] theorem State.mapRing_security (s : State) (r : Nat) (f : Ring → Ring) : (s.mapRing r f).security = s.security := rfl
@[simp] theorem State.mapRing_registrarImage (s : State) (r : Nat) (f : Ring → Ring) : (s.mapRing r f).registrarImage = s.registrarImage := rfl
@[simp] theorem State.mapRing_curatorImage (s : State) (r : Nat) (f : Ring → Ring) : (s.mapRing r f).curatorImage = s.curatorImage := rfl
@[simp] theorem State.mapRing_recovery (s : State) (r : Nat) (f : Ring → Ring) : (s.mapRing r f).recovery = s.recovery := rfl
@[simp] theorem State.mapRing_up (s : State) (r : Nat) (f : Ring → Ring) : (s.mapRing r f).up = s.up := rfl

/-! ## State.mapRegion -/

@[simp] theorem State.mapRegion_cur (s : State) (r : Nat) (f : Region → Region) : (s.mapRegion r f).cur = s.cur := rfl
@[simp] theorem State.mapRegion_curH (s : State) (r : Nat) (f : Region → Region) : (s.mapRegion r f).curH = s.curH := rfl
@[simp] theorem State.mapRegion_agenda (s : State) (r : Nat) (f : Region → Region) : (s.mapRegion r f).agenda = s.agenda := rfl
@[simp] theorem State.mapRegion_flight (s : State) (r : Nat) (f : Region → Region) : (s.mapRegion r f).flight = s.flight := rfl
@[simp] theorem State.mapRegion_choice (s : State) (r : Nat) (f : Region → Region) : (s.mapRegion r f).choice = s.choice := rfl
@[simp] theorem State.mapRegion_choices (s : State) (r : Nat) (f : Region → Region) : (s.mapRegion r f).choices = s.choices := rfl
@[simp] theorem State.mapRegion_turn (s : State) (r : Nat) (f : Region → Region) : (s.mapRegion r f).turn = s.turn := rfl
@[simp] theorem State.mapRegion_cores (s : State) (r : Nat) (f : Region → Region) : (s.mapRegion r f).cores = s.cores := rfl
@[simp] theorem State.mapRegion_hbm (s : State) (r : Nat) (f : Region → Region) : (s.mapRegion r f).hbm = s.hbm := rfl
@[simp] theorem State.mapRegion_wts (s : State) (r : Nat) (f : Region → Region) : (s.mapRegion r f).wts = s.wts := rfl
@[simp] theorem State.mapRegion_rts (s : State) (r : Nat) (f : Region → Region) : (s.mapRegion r f).rts = s.rts := rfl
@[simp] theorem State.mapRegion_poison (s : State) (r : Nat) (f : Region → Region) : (s.mapRegion r f).poison = s.poison := rfl
@[simp] theorem State.mapRegion_homeMap (s : State) (r : Nat) (f : Region → Region) : (s.mapRegion r f).homeMap = s.homeMap := rfl
@[simp] theorem State.mapRegion_striped (s : State) (r : Nat) (f : Region → Region) : (s.mapRegion r f).striped = s.striped := rfl
@[simp] theorem State.mapRegion_locks (s : State) (r : Nat) (f : Region → Region) : (s.mapRegion r f).locks = s.locks := rfl
@[simp] theorem State.mapRegion_pins (s : State) (r : Nat) (f : Region → Region) : (s.mapRegion r f).pins = s.pins := rfl
@[simp] theorem State.mapRegion_annex (s : State) (r : Nat) (f : Region → Region) : (s.mapRegion r f).annex = s.annex := rfl
@[simp] theorem State.mapRegion_cat (s : State) (r : Nat) (f : Region → Region) : (s.mapRegion r f).cat = s.cat := rfl
@[simp] theorem State.mapRegion_catClock (s : State) (r : Nat) (f : Region → Region) : (s.mapRegion r f).catClock = s.catClock := rfl
@[simp] theorem State.mapRegion_annexClock (s : State) (r : Nat) (f : Region → Region) : (s.mapRegion r f).annexClock = s.annexClock := rfl
@[simp] theorem State.mapRegion_slices (s : State) (r : Nat) (f : Region → Region) : (s.mapRegion r f).slices = s.slices := rfl
@[simp] theorem State.mapRegion_qmap (s : State) (r : Nat) (f : Region → Region) : (s.mapRegion r f).qmap = s.qmap := rfl
@[simp] theorem State.mapRegion_mirrorSeq (s : State) (r : Nat) (f : Region → Region) : (s.mapRegion r f).mirrorSeq = s.mirrorSeq := rfl
@[simp] theorem State.mapRegion_mirrorDone (s : State) (r : Nat) (f : Region → Region) : (s.mapRegion r f).mirrorDone = s.mirrorDone := rfl
@[simp] theorem State.mapRegion_frames (s : State) (r : Nat) (f : Region → Region) : (s.mapRegion r f).frames = s.frames := rfl
@[simp] theorem State.mapRegion_vit (s : State) (r : Nat) (f : Region → Region) : (s.mapRegion r f).vit = s.vit := rfl
@[simp] theorem State.mapRegion_tickets (s : State) (r : Nat) (f : Region → Region) : (s.mapRegion r f).tickets = s.tickets := rfl
@[simp] theorem State.mapRegion_sync (s : State) (r : Nat) (f : Region → Region) : (s.mapRegion r f).sync = s.sync := rfl
@[simp] theorem State.mapRegion_mirror (s : State) (r : Nat) (f : Region → Region) : (s.mapRegion r f).mirror = s.mirror := rfl
@[simp] theorem State.mapRegion_combine (s : State) (r : Nat) (f : Region → Region) : (s.mapRegion r f).combine = s.combine := rfl
@[simp] theorem State.mapRegion_dropped (s : State) (r : Nat) (f : Region → Region) : (s.mapRegion r f).dropped = s.dropped := rfl
@[simp] theorem State.mapRegion_shoots (s : State) (r : Nat) (f : Region → Region) : (s.mapRegion r f).shoots = s.shoots := rfl
@[simp] theorem State.mapRegion_hostMem (s : State) (r : Nat) (f : Region → Region) : (s.mapRegion r f).hostMem = s.hostMem := rfl
@[simp] theorem State.mapRegion_hostPoison (s : State) (r : Nat) (f : Region → Region) : (s.mapRegion r f).hostPoison = s.hostPoison := rfl
@[simp] theorem State.mapRegion_pkgNo (s : State) (r : Nat) (f : Region → Region) : (s.mapRegion r f).pkgNo = s.pkgNo := rfl
@[simp] theorem State.mapRegion_pkgAssigned (s : State) (r : Nat) (f : Region → Region) : (s.mapRegion r f).pkgAssigned = s.pkgAssigned := rfl
@[simp] theorem State.mapRegion_exBase (s : State) (r : Nat) (f : Region → Region) : (s.mapRegion r f).exBase = s.exBase := rfl
@[simp] theorem State.mapRegion_exLen (s : State) (r : Nat) (f : Region → Region) : (s.mapRegion r f).exLen = s.exLen := rfl
@[simp] theorem State.mapRegion_peers (s : State) (r : Nat) (f : Region → Region) : (s.mapRegion r f).peers = s.peers := rfl
@[simp] theorem State.mapRegion_peerOut (s : State) (r : Nat) (f : Region → Region) : (s.mapRegion r f).peerOut = s.peerOut := rfl
@[simp] theorem State.mapRegion_peerNext (s : State) (r : Nat) (f : Region → Region) : (s.mapRegion r f).peerNext = s.peerNext := rfl
@[simp] theorem State.mapRegion_peerSent (s : State) (r : Nat) (f : Region → Region) : (s.mapRegion r f).peerSent = s.peerSent := rfl
@[simp] theorem State.mapRegion_spaces (s : State) (r : Nat) (f : Region → Region) : (s.mapRegion r f).spaces = s.spaces := rfl
@[simp] theorem State.mapRegion_windows (s : State) (r : Nat) (f : Region → Region) : (s.mapRegion r f).windows = s.windows := rfl
@[simp] theorem State.mapRegion_broadcastWin (s : State) (r : Nat) (f : Region → Region) : (s.mapRegion r f).broadcastWin = s.broadcastWin := rfl
@[simp] theorem State.mapRegion_policyTimeout (s : State) (r : Nat) (f : Region → Region) : (s.mapRegion r f).policyTimeout = s.policyTimeout := rfl
@[simp] theorem State.mapRegion_policyQuantum (s : State) (r : Nat) (f : Region → Region) : (s.mapRegion r f).policyQuantum = s.policyQuantum := rfl
@[simp] theorem State.mapRegion_apbase (s : State) (r : Nat) (f : Region → Region) : (s.mapRegion r f).apbase = s.apbase := rfl
@[simp] theorem State.mapRegion_bar2 (s : State) (r : Nat) (f : Region → Region) : (s.mapRegion r f).bar2 = s.bar2 := rfl
@[simp] theorem State.mapRegion_mailboxes (s : State) (r : Nat) (f : Region → Region) : (s.mapRegion r f).mailboxes = s.mailboxes := rfl
@[simp] theorem State.mapRegion_sendWin (s : State) (r : Nat) (f : Region → Region) : (s.mapRegion r f).sendWin = s.sendWin := rfl
@[simp] theorem State.mapRegion_syncSel (s : State) (r : Nat) (f : Region → Region) : (s.mapRegion r f).syncSel = s.syncSel := rfl
@[simp] theorem State.mapRegion_syncOld (s : State) (r : Nat) (f : Region → Region) : (s.mapRegion r f).syncOld = s.syncOld := rfl
@[simp] theorem State.mapRegion_msix (s : State) (r : Nat) (f : Region → Region) : (s.mapRegion r f).msix = s.msix := rfl
@[simp] theorem State.mapRegion_msixPending (s : State) (r : Nat) (f : Region → Region) : (s.mapRegion r f).msixPending = s.msixPending := rfl
@[simp] theorem State.mapRegion_portHeld (s : State) (r : Nat) (f : Region → Region) : (s.mapRegion r f).portHeld = s.portHeld := rfl
@[simp] theorem State.mapRegion_aer (s : State) (r : Nat) (f : Region → Region) : (s.mapRegion r f).aer = s.aer := rfl
@[simp] theorem State.mapRegion_portSeq (s : State) (r : Nat) (f : Region → Region) : (s.mapRegion r f).portSeq = s.portSeq := rfl
@[simp] theorem State.mapRegion_answers (s : State) (r : Nat) (f : Region → Region) : (s.mapRegion r f).answers = s.answers := rfl
@[simp] theorem State.mapRegion_linkWidth (s : State) (r : Nat) (f : Region → Region) : (s.mapRegion r f).linkWidth = s.linkWidth := rfl
@[simp] theorem State.mapRegion_linkSpeed (s : State) (r : Nat) (f : Region → Region) : (s.mapRegion r f).linkSpeed = s.linkSpeed := rfl
@[simp] theorem State.mapRegion_hostLink (s : State) (r : Nat) (f : Region → Region) : (s.mapRegion r f).hostLink = s.hostLink := rfl
@[simp] theorem State.mapRegion_stations (s : State) (r : Nat) (f : Region → Region) : (s.mapRegion r f).stations = s.stations := rfl
@[simp] theorem State.mapRegion_lostXd (s : State) (r : Nat) (f : Region → Region) : (s.mapRegion r f).lostXd = s.lostXd := rfl
@[simp] theorem State.mapRegion_fullDropped (s : State) (r : Nat) (f : Region → Region) : (s.mapRegion r f).fullDropped = s.fullDropped := rfl
@[simp] theorem State.mapRegion_dropping (s : State) (r : Nat) (f : Region → Region) : (s.mapRegion r f).dropping = s.dropping := rfl
@[simp] theorem State.mapRegion_faultyCompute (s : State) (r : Nat) (f : Region → Region) : (s.mapRegion r f).faultyCompute = s.faultyCompute := rfl
@[simp] theorem State.mapRegion_faultyMemory (s : State) (r : Nat) (f : Region → Region) : (s.mapRegion r f).faultyMemory = s.faultyMemory := rfl
@[simp] theorem State.mapRegion_bitErrors (s : State) (r : Nat) (f : Region → Region) : (s.mapRegion r f).bitErrors = s.bitErrors := rfl
@[simp] theorem State.mapRegion_machineError (s : State) (r : Nat) (f : Region → Region) : (s.mapRegion r f).machineError = s.machineError := rfl
@[simp] theorem State.mapRegion_areaCount (s : State) (r : Nat) (f : Region → Region) : (s.mapRegion r f).areaCount = s.areaCount := rfl
@[simp] theorem State.mapRegion_tagErrors (s : State) (r : Nat) (f : Region → Region) : (s.mapRegion r f).tagErrors = s.tagErrors := rfl
@[simp] theorem State.mapRegion_peersAssigned (s : State) (r : Nat) (f : Region → Region) : (s.mapRegion r f).peersAssigned = s.peersAssigned := rfl
@[simp] theorem State.mapRegion_exAssigned (s : State) (r : Nat) (f : Region → Region) : (s.mapRegion r f).exAssigned = s.exAssigned := rfl
@[simp] theorem State.mapRegion_restorable (s : State) (r : Nat) (f : Region → Region) : (s.mapRegion r f).restorable = s.restorable := rfl
@[simp] theorem State.mapRegion_images (s : State) (r : Nat) (f : Region → Region) : (s.mapRegion r f).images = s.images := rfl
@[simp] theorem State.mapRegion_logMachine (s : State) (r : Nat) (f : Region → Region) : (s.mapRegion r f).logMachine = s.logMachine := rfl
@[simp] theorem State.mapRegion_logLaunch (s : State) (r : Nat) (f : Region → Region) : (s.mapRegion r f).logLaunch = s.logLaunch := rfl
@[simp] theorem State.mapRegion_logRefusal (s : State) (r : Nat) (f : Region → Region) : (s.mapRegion r f).logRefusal = s.logRefusal := rfl
@[simp] theorem State.mapRegion_logDrop (s : State) (r : Nat) (f : Region → Region) : (s.mapRegion r f).logDrop = s.logDrop := rfl
@[simp] theorem State.mapRegion_logDead (s : State) (r : Nat) (f : Region → Region) : (s.mapRegion r f).logDead = s.logDead := rfl
@[simp] theorem State.mapRegion_corrections (s : State) (r : Nat) (f : Region → Region) : (s.mapRegion r f).corrections = s.corrections := rfl
@[simp] theorem State.mapRegion_reported (s : State) (r : Nat) (f : Region → Region) : (s.mapRegion r f).reported = s.reported := rfl
@[simp] theorem State.mapRegion_temperature (s : State) (r : Nat) (f : Region → Region) : (s.mapRegion r f).temperature = s.temperature := rfl
@[simp] theorem State.mapRegion_halfRate (s : State) (r : Nat) (f : Region → Region) : (s.mapRegion r f).halfRate = s.halfRate := rfl
@[simp] theorem State.mapRegion_clockStopped (s : State) (r : Nat) (f : Region → Region) : (s.mapRegion r f).clockStopped = s.clockStopped := rfl
@[simp] theorem State.mapRegion_budget (s : State) (r : Nat) (f : Region → Region) : (s.mapRegion r f).budget = s.budget := rfl
@[simp] theorem State.mapRegion_powerCap (s : State) (r : Nat) (f : Region → Region) : (s.mapRegion r f).powerCap = s.powerCap := rfl
@[simp] theorem State.mapRegion_security (s : State) (r : Nat) (f : Region → Region) : (s.mapRegion r f).security = s.security := rfl
@[simp] theorem State.mapRegion_registrarImage (s : State) (r : Nat) (f : Region → Region) : (s.mapRegion r f).registrarImage = s.registrarImage := rfl
@[simp] theorem State.mapRegion_curatorImage (s : State) (r : Nat) (f : Region → Region) : (s.mapRegion r f).curatorImage = s.curatorImage := rfl
@[simp] theorem State.mapRegion_recovery (s : State) (r : Nat) (f : Region → Region) : (s.mapRegion r f).recovery = s.recovery := rfl
@[simp] theorem State.mapRegion_up (s : State) (r : Nat) (f : Region → Region) : (s.mapRegion r f).up = s.up := rfl

/-! ## State.mapChunk -/

@[simp] theorem State.mapChunk_cur (s : State) (r q : Nat) (f : Chunk → Chunk) : (s.mapChunk r q f).cur = s.cur := rfl
@[simp] theorem State.mapChunk_curH (s : State) (r q : Nat) (f : Chunk → Chunk) : (s.mapChunk r q f).curH = s.curH := rfl
@[simp] theorem State.mapChunk_agenda (s : State) (r q : Nat) (f : Chunk → Chunk) : (s.mapChunk r q f).agenda = s.agenda := rfl
@[simp] theorem State.mapChunk_flight (s : State) (r q : Nat) (f : Chunk → Chunk) : (s.mapChunk r q f).flight = s.flight := rfl
@[simp] theorem State.mapChunk_choice (s : State) (r q : Nat) (f : Chunk → Chunk) : (s.mapChunk r q f).choice = s.choice := rfl
@[simp] theorem State.mapChunk_choices (s : State) (r q : Nat) (f : Chunk → Chunk) : (s.mapChunk r q f).choices = s.choices := rfl
@[simp] theorem State.mapChunk_turn (s : State) (r q : Nat) (f : Chunk → Chunk) : (s.mapChunk r q f).turn = s.turn := rfl
@[simp] theorem State.mapChunk_cores (s : State) (r q : Nat) (f : Chunk → Chunk) : (s.mapChunk r q f).cores = s.cores := rfl
@[simp] theorem State.mapChunk_hbm (s : State) (r q : Nat) (f : Chunk → Chunk) : (s.mapChunk r q f).hbm = s.hbm := rfl
@[simp] theorem State.mapChunk_wts (s : State) (r q : Nat) (f : Chunk → Chunk) : (s.mapChunk r q f).wts = s.wts := rfl
@[simp] theorem State.mapChunk_rts (s : State) (r q : Nat) (f : Chunk → Chunk) : (s.mapChunk r q f).rts = s.rts := rfl
@[simp] theorem State.mapChunk_poison (s : State) (r q : Nat) (f : Chunk → Chunk) : (s.mapChunk r q f).poison = s.poison := rfl
@[simp] theorem State.mapChunk_homeMap (s : State) (r q : Nat) (f : Chunk → Chunk) : (s.mapChunk r q f).homeMap = s.homeMap := rfl
@[simp] theorem State.mapChunk_striped (s : State) (r q : Nat) (f : Chunk → Chunk) : (s.mapChunk r q f).striped = s.striped := rfl
@[simp] theorem State.mapChunk_locks (s : State) (r q : Nat) (f : Chunk → Chunk) : (s.mapChunk r q f).locks = s.locks := rfl
@[simp] theorem State.mapChunk_pins (s : State) (r q : Nat) (f : Chunk → Chunk) : (s.mapChunk r q f).pins = s.pins := rfl
@[simp] theorem State.mapChunk_annex (s : State) (r q : Nat) (f : Chunk → Chunk) : (s.mapChunk r q f).annex = s.annex := rfl
@[simp] theorem State.mapChunk_cat (s : State) (r q : Nat) (f : Chunk → Chunk) : (s.mapChunk r q f).cat = s.cat := rfl
@[simp] theorem State.mapChunk_catClock (s : State) (r q : Nat) (f : Chunk → Chunk) : (s.mapChunk r q f).catClock = s.catClock := rfl
@[simp] theorem State.mapChunk_annexClock (s : State) (r q : Nat) (f : Chunk → Chunk) : (s.mapChunk r q f).annexClock = s.annexClock := rfl
@[simp] theorem State.mapChunk_slices (s : State) (r q : Nat) (f : Chunk → Chunk) : (s.mapChunk r q f).slices = s.slices := rfl
@[simp] theorem State.mapChunk_qmap (s : State) (r q : Nat) (f : Chunk → Chunk) : (s.mapChunk r q f).qmap = s.qmap := rfl
@[simp] theorem State.mapChunk_mirrorSeq (s : State) (r q : Nat) (f : Chunk → Chunk) : (s.mapChunk r q f).mirrorSeq = s.mirrorSeq := rfl
@[simp] theorem State.mapChunk_mirrorDone (s : State) (r q : Nat) (f : Chunk → Chunk) : (s.mapChunk r q f).mirrorDone = s.mirrorDone := rfl
@[simp] theorem State.mapChunk_frames (s : State) (r q : Nat) (f : Chunk → Chunk) : (s.mapChunk r q f).frames = s.frames := rfl
@[simp] theorem State.mapChunk_vit (s : State) (r q : Nat) (f : Chunk → Chunk) : (s.mapChunk r q f).vit = s.vit := rfl
@[simp] theorem State.mapChunk_tickets (s : State) (r q : Nat) (f : Chunk → Chunk) : (s.mapChunk r q f).tickets = s.tickets := rfl
@[simp] theorem State.mapChunk_sync (s : State) (r q : Nat) (f : Chunk → Chunk) : (s.mapChunk r q f).sync = s.sync := rfl
@[simp] theorem State.mapChunk_mirror (s : State) (r q : Nat) (f : Chunk → Chunk) : (s.mapChunk r q f).mirror = s.mirror := rfl
@[simp] theorem State.mapChunk_combine (s : State) (r q : Nat) (f : Chunk → Chunk) : (s.mapChunk r q f).combine = s.combine := rfl
@[simp] theorem State.mapChunk_dropped (s : State) (r q : Nat) (f : Chunk → Chunk) : (s.mapChunk r q f).dropped = s.dropped := rfl
@[simp] theorem State.mapChunk_shoots (s : State) (r q : Nat) (f : Chunk → Chunk) : (s.mapChunk r q f).shoots = s.shoots := rfl
@[simp] theorem State.mapChunk_hostMem (s : State) (r q : Nat) (f : Chunk → Chunk) : (s.mapChunk r q f).hostMem = s.hostMem := rfl
@[simp] theorem State.mapChunk_hostPoison (s : State) (r q : Nat) (f : Chunk → Chunk) : (s.mapChunk r q f).hostPoison = s.hostPoison := rfl
@[simp] theorem State.mapChunk_pkgNo (s : State) (r q : Nat) (f : Chunk → Chunk) : (s.mapChunk r q f).pkgNo = s.pkgNo := rfl
@[simp] theorem State.mapChunk_pkgAssigned (s : State) (r q : Nat) (f : Chunk → Chunk) : (s.mapChunk r q f).pkgAssigned = s.pkgAssigned := rfl
@[simp] theorem State.mapChunk_exBase (s : State) (r q : Nat) (f : Chunk → Chunk) : (s.mapChunk r q f).exBase = s.exBase := rfl
@[simp] theorem State.mapChunk_exLen (s : State) (r q : Nat) (f : Chunk → Chunk) : (s.mapChunk r q f).exLen = s.exLen := rfl
@[simp] theorem State.mapChunk_peers (s : State) (r q : Nat) (f : Chunk → Chunk) : (s.mapChunk r q f).peers = s.peers := rfl
@[simp] theorem State.mapChunk_peerOut (s : State) (r q : Nat) (f : Chunk → Chunk) : (s.mapChunk r q f).peerOut = s.peerOut := rfl
@[simp] theorem State.mapChunk_peerNext (s : State) (r q : Nat) (f : Chunk → Chunk) : (s.mapChunk r q f).peerNext = s.peerNext := rfl
@[simp] theorem State.mapChunk_peerSent (s : State) (r q : Nat) (f : Chunk → Chunk) : (s.mapChunk r q f).peerSent = s.peerSent := rfl
@[simp] theorem State.mapChunk_spaces (s : State) (r q : Nat) (f : Chunk → Chunk) : (s.mapChunk r q f).spaces = s.spaces := rfl
@[simp] theorem State.mapChunk_windows (s : State) (r q : Nat) (f : Chunk → Chunk) : (s.mapChunk r q f).windows = s.windows := rfl
@[simp] theorem State.mapChunk_broadcastWin (s : State) (r q : Nat) (f : Chunk → Chunk) : (s.mapChunk r q f).broadcastWin = s.broadcastWin := rfl
@[simp] theorem State.mapChunk_policyTimeout (s : State) (r q : Nat) (f : Chunk → Chunk) : (s.mapChunk r q f).policyTimeout = s.policyTimeout := rfl
@[simp] theorem State.mapChunk_policyQuantum (s : State) (r q : Nat) (f : Chunk → Chunk) : (s.mapChunk r q f).policyQuantum = s.policyQuantum := rfl
@[simp] theorem State.mapChunk_apbase (s : State) (r q : Nat) (f : Chunk → Chunk) : (s.mapChunk r q f).apbase = s.apbase := rfl
@[simp] theorem State.mapChunk_bar2 (s : State) (r q : Nat) (f : Chunk → Chunk) : (s.mapChunk r q f).bar2 = s.bar2 := rfl
@[simp] theorem State.mapChunk_mailboxes (s : State) (r q : Nat) (f : Chunk → Chunk) : (s.mapChunk r q f).mailboxes = s.mailboxes := rfl
@[simp] theorem State.mapChunk_sendWin (s : State) (r q : Nat) (f : Chunk → Chunk) : (s.mapChunk r q f).sendWin = s.sendWin := rfl
@[simp] theorem State.mapChunk_syncSel (s : State) (r q : Nat) (f : Chunk → Chunk) : (s.mapChunk r q f).syncSel = s.syncSel := rfl
@[simp] theorem State.mapChunk_syncOld (s : State) (r q : Nat) (f : Chunk → Chunk) : (s.mapChunk r q f).syncOld = s.syncOld := rfl
@[simp] theorem State.mapChunk_msix (s : State) (r q : Nat) (f : Chunk → Chunk) : (s.mapChunk r q f).msix = s.msix := rfl
@[simp] theorem State.mapChunk_msixPending (s : State) (r q : Nat) (f : Chunk → Chunk) : (s.mapChunk r q f).msixPending = s.msixPending := rfl
@[simp] theorem State.mapChunk_portHeld (s : State) (r q : Nat) (f : Chunk → Chunk) : (s.mapChunk r q f).portHeld = s.portHeld := rfl
@[simp] theorem State.mapChunk_aer (s : State) (r q : Nat) (f : Chunk → Chunk) : (s.mapChunk r q f).aer = s.aer := rfl
@[simp] theorem State.mapChunk_portSeq (s : State) (r q : Nat) (f : Chunk → Chunk) : (s.mapChunk r q f).portSeq = s.portSeq := rfl
@[simp] theorem State.mapChunk_answers (s : State) (r q : Nat) (f : Chunk → Chunk) : (s.mapChunk r q f).answers = s.answers := rfl
@[simp] theorem State.mapChunk_linkWidth (s : State) (r q : Nat) (f : Chunk → Chunk) : (s.mapChunk r q f).linkWidth = s.linkWidth := rfl
@[simp] theorem State.mapChunk_linkSpeed (s : State) (r q : Nat) (f : Chunk → Chunk) : (s.mapChunk r q f).linkSpeed = s.linkSpeed := rfl
@[simp] theorem State.mapChunk_hostLink (s : State) (r q : Nat) (f : Chunk → Chunk) : (s.mapChunk r q f).hostLink = s.hostLink := rfl
@[simp] theorem State.mapChunk_stations (s : State) (r q : Nat) (f : Chunk → Chunk) : (s.mapChunk r q f).stations = s.stations := rfl
@[simp] theorem State.mapChunk_lostXd (s : State) (r q : Nat) (f : Chunk → Chunk) : (s.mapChunk r q f).lostXd = s.lostXd := rfl
@[simp] theorem State.mapChunk_fullDropped (s : State) (r q : Nat) (f : Chunk → Chunk) : (s.mapChunk r q f).fullDropped = s.fullDropped := rfl
@[simp] theorem State.mapChunk_dropping (s : State) (r q : Nat) (f : Chunk → Chunk) : (s.mapChunk r q f).dropping = s.dropping := rfl
@[simp] theorem State.mapChunk_faultyCompute (s : State) (r q : Nat) (f : Chunk → Chunk) : (s.mapChunk r q f).faultyCompute = s.faultyCompute := rfl
@[simp] theorem State.mapChunk_faultyMemory (s : State) (r q : Nat) (f : Chunk → Chunk) : (s.mapChunk r q f).faultyMemory = s.faultyMemory := rfl
@[simp] theorem State.mapChunk_bitErrors (s : State) (r q : Nat) (f : Chunk → Chunk) : (s.mapChunk r q f).bitErrors = s.bitErrors := rfl
@[simp] theorem State.mapChunk_machineError (s : State) (r q : Nat) (f : Chunk → Chunk) : (s.mapChunk r q f).machineError = s.machineError := rfl
@[simp] theorem State.mapChunk_areaCount (s : State) (r q : Nat) (f : Chunk → Chunk) : (s.mapChunk r q f).areaCount = s.areaCount := rfl
@[simp] theorem State.mapChunk_tagErrors (s : State) (r q : Nat) (f : Chunk → Chunk) : (s.mapChunk r q f).tagErrors = s.tagErrors := rfl
@[simp] theorem State.mapChunk_peersAssigned (s : State) (r q : Nat) (f : Chunk → Chunk) : (s.mapChunk r q f).peersAssigned = s.peersAssigned := rfl
@[simp] theorem State.mapChunk_exAssigned (s : State) (r q : Nat) (f : Chunk → Chunk) : (s.mapChunk r q f).exAssigned = s.exAssigned := rfl
@[simp] theorem State.mapChunk_restorable (s : State) (r q : Nat) (f : Chunk → Chunk) : (s.mapChunk r q f).restorable = s.restorable := rfl
@[simp] theorem State.mapChunk_images (s : State) (r q : Nat) (f : Chunk → Chunk) : (s.mapChunk r q f).images = s.images := rfl
@[simp] theorem State.mapChunk_logMachine (s : State) (r q : Nat) (f : Chunk → Chunk) : (s.mapChunk r q f).logMachine = s.logMachine := rfl
@[simp] theorem State.mapChunk_logLaunch (s : State) (r q : Nat) (f : Chunk → Chunk) : (s.mapChunk r q f).logLaunch = s.logLaunch := rfl
@[simp] theorem State.mapChunk_logRefusal (s : State) (r q : Nat) (f : Chunk → Chunk) : (s.mapChunk r q f).logRefusal = s.logRefusal := rfl
@[simp] theorem State.mapChunk_logDrop (s : State) (r q : Nat) (f : Chunk → Chunk) : (s.mapChunk r q f).logDrop = s.logDrop := rfl
@[simp] theorem State.mapChunk_logDead (s : State) (r q : Nat) (f : Chunk → Chunk) : (s.mapChunk r q f).logDead = s.logDead := rfl
@[simp] theorem State.mapChunk_corrections (s : State) (r q : Nat) (f : Chunk → Chunk) : (s.mapChunk r q f).corrections = s.corrections := rfl
@[simp] theorem State.mapChunk_reported (s : State) (r q : Nat) (f : Chunk → Chunk) : (s.mapChunk r q f).reported = s.reported := rfl
@[simp] theorem State.mapChunk_temperature (s : State) (r q : Nat) (f : Chunk → Chunk) : (s.mapChunk r q f).temperature = s.temperature := rfl
@[simp] theorem State.mapChunk_halfRate (s : State) (r q : Nat) (f : Chunk → Chunk) : (s.mapChunk r q f).halfRate = s.halfRate := rfl
@[simp] theorem State.mapChunk_clockStopped (s : State) (r q : Nat) (f : Chunk → Chunk) : (s.mapChunk r q f).clockStopped = s.clockStopped := rfl
@[simp] theorem State.mapChunk_budget (s : State) (r q : Nat) (f : Chunk → Chunk) : (s.mapChunk r q f).budget = s.budget := rfl
@[simp] theorem State.mapChunk_powerCap (s : State) (r q : Nat) (f : Chunk → Chunk) : (s.mapChunk r q f).powerCap = s.powerCap := rfl
@[simp] theorem State.mapChunk_security (s : State) (r q : Nat) (f : Chunk → Chunk) : (s.mapChunk r q f).security = s.security := rfl
@[simp] theorem State.mapChunk_registrarImage (s : State) (r q : Nat) (f : Chunk → Chunk) : (s.mapChunk r q f).registrarImage = s.registrarImage := rfl
@[simp] theorem State.mapChunk_curatorImage (s : State) (r q : Nat) (f : Chunk → Chunk) : (s.mapChunk r q f).curatorImage = s.curatorImage := rfl
@[simp] theorem State.mapChunk_recovery (s : State) (r q : Nat) (f : Chunk → Chunk) : (s.mapChunk r q f).recovery = s.recovery := rfl
@[simp] theorem State.mapChunk_up (s : State) (r q : Nat) (f : Chunk → Chunk) : (s.mapChunk r q f).up = s.up := rfl

/-! ## State.post -/

@[simp] theorem State.post_cur (s : State) (i : Instr) : (s.post i).cur = s.cur := rfl
@[simp] theorem State.post_curH (s : State) (i : Instr) : (s.post i).curH = s.curH := rfl
@[simp] theorem State.post_agenda (s : State) (i : Instr) : (s.post i).agenda = s.agenda := rfl
@[simp] theorem State.post_choice (s : State) (i : Instr) : (s.post i).choice = s.choice := rfl
@[simp] theorem State.post_choices (s : State) (i : Instr) : (s.post i).choices = s.choices := rfl
@[simp] theorem State.post_turn (s : State) (i : Instr) : (s.post i).turn = s.turn := rfl
@[simp] theorem State.post_cores (s : State) (i : Instr) : (s.post i).cores = s.cores := rfl
@[simp] theorem State.post_rings (s : State) (i : Instr) : (s.post i).rings = s.rings := rfl
@[simp] theorem State.post_hbm (s : State) (i : Instr) : (s.post i).hbm = s.hbm := rfl
@[simp] theorem State.post_wts (s : State) (i : Instr) : (s.post i).wts = s.wts := rfl
@[simp] theorem State.post_rts (s : State) (i : Instr) : (s.post i).rts = s.rts := rfl
@[simp] theorem State.post_poison (s : State) (i : Instr) : (s.post i).poison = s.poison := rfl
@[simp] theorem State.post_homeMap (s : State) (i : Instr) : (s.post i).homeMap = s.homeMap := rfl
@[simp] theorem State.post_striped (s : State) (i : Instr) : (s.post i).striped = s.striped := rfl
@[simp] theorem State.post_locks (s : State) (i : Instr) : (s.post i).locks = s.locks := rfl
@[simp] theorem State.post_pins (s : State) (i : Instr) : (s.post i).pins = s.pins := rfl
@[simp] theorem State.post_annex (s : State) (i : Instr) : (s.post i).annex = s.annex := rfl
@[simp] theorem State.post_cat (s : State) (i : Instr) : (s.post i).cat = s.cat := rfl
@[simp] theorem State.post_catClock (s : State) (i : Instr) : (s.post i).catClock = s.catClock := rfl
@[simp] theorem State.post_annexClock (s : State) (i : Instr) : (s.post i).annexClock = s.annexClock := rfl
@[simp] theorem State.post_slices (s : State) (i : Instr) : (s.post i).slices = s.slices := rfl
@[simp] theorem State.post_qmap (s : State) (i : Instr) : (s.post i).qmap = s.qmap := rfl
@[simp] theorem State.post_mirrorSeq (s : State) (i : Instr) : (s.post i).mirrorSeq = s.mirrorSeq := rfl
@[simp] theorem State.post_mirrorDone (s : State) (i : Instr) : (s.post i).mirrorDone = s.mirrorDone := rfl
@[simp] theorem State.post_frames (s : State) (i : Instr) : (s.post i).frames = s.frames := rfl
@[simp] theorem State.post_vit (s : State) (i : Instr) : (s.post i).vit = s.vit := rfl
@[simp] theorem State.post_tickets (s : State) (i : Instr) : (s.post i).tickets = s.tickets := rfl
@[simp] theorem State.post_sync (s : State) (i : Instr) : (s.post i).sync = s.sync := rfl
@[simp] theorem State.post_mirror (s : State) (i : Instr) : (s.post i).mirror = s.mirror := rfl
@[simp] theorem State.post_combine (s : State) (i : Instr) : (s.post i).combine = s.combine := rfl
@[simp] theorem State.post_dropped (s : State) (i : Instr) : (s.post i).dropped = s.dropped := rfl
@[simp] theorem State.post_shoots (s : State) (i : Instr) : (s.post i).shoots = s.shoots := rfl
@[simp] theorem State.post_hostMem (s : State) (i : Instr) : (s.post i).hostMem = s.hostMem := rfl
@[simp] theorem State.post_hostPoison (s : State) (i : Instr) : (s.post i).hostPoison = s.hostPoison := rfl
@[simp] theorem State.post_pkgNo (s : State) (i : Instr) : (s.post i).pkgNo = s.pkgNo := rfl
@[simp] theorem State.post_pkgAssigned (s : State) (i : Instr) : (s.post i).pkgAssigned = s.pkgAssigned := rfl
@[simp] theorem State.post_exBase (s : State) (i : Instr) : (s.post i).exBase = s.exBase := rfl
@[simp] theorem State.post_exLen (s : State) (i : Instr) : (s.post i).exLen = s.exLen := rfl
@[simp] theorem State.post_peers (s : State) (i : Instr) : (s.post i).peers = s.peers := rfl
@[simp] theorem State.post_peerOut (s : State) (i : Instr) : (s.post i).peerOut = s.peerOut := rfl
@[simp] theorem State.post_peerNext (s : State) (i : Instr) : (s.post i).peerNext = s.peerNext := rfl
@[simp] theorem State.post_peerSent (s : State) (i : Instr) : (s.post i).peerSent = s.peerSent := rfl
@[simp] theorem State.post_spaces (s : State) (i : Instr) : (s.post i).spaces = s.spaces := rfl
@[simp] theorem State.post_windows (s : State) (i : Instr) : (s.post i).windows = s.windows := rfl
@[simp] theorem State.post_broadcastWin (s : State) (i : Instr) : (s.post i).broadcastWin = s.broadcastWin := rfl
@[simp] theorem State.post_policyTimeout (s : State) (i : Instr) : (s.post i).policyTimeout = s.policyTimeout := rfl
@[simp] theorem State.post_policyQuantum (s : State) (i : Instr) : (s.post i).policyQuantum = s.policyQuantum := rfl
@[simp] theorem State.post_apbase (s : State) (i : Instr) : (s.post i).apbase = s.apbase := rfl
@[simp] theorem State.post_bar2 (s : State) (i : Instr) : (s.post i).bar2 = s.bar2 := rfl
@[simp] theorem State.post_mailboxes (s : State) (i : Instr) : (s.post i).mailboxes = s.mailboxes := rfl
@[simp] theorem State.post_sendWin (s : State) (i : Instr) : (s.post i).sendWin = s.sendWin := rfl
@[simp] theorem State.post_syncSel (s : State) (i : Instr) : (s.post i).syncSel = s.syncSel := rfl
@[simp] theorem State.post_syncOld (s : State) (i : Instr) : (s.post i).syncOld = s.syncOld := rfl
@[simp] theorem State.post_msix (s : State) (i : Instr) : (s.post i).msix = s.msix := rfl
@[simp] theorem State.post_msixPending (s : State) (i : Instr) : (s.post i).msixPending = s.msixPending := rfl
@[simp] theorem State.post_portHeld (s : State) (i : Instr) : (s.post i).portHeld = s.portHeld := rfl
@[simp] theorem State.post_aer (s : State) (i : Instr) : (s.post i).aer = s.aer := rfl
@[simp] theorem State.post_portSeq (s : State) (i : Instr) : (s.post i).portSeq = s.portSeq := rfl
@[simp] theorem State.post_answers (s : State) (i : Instr) : (s.post i).answers = s.answers := rfl
@[simp] theorem State.post_linkWidth (s : State) (i : Instr) : (s.post i).linkWidth = s.linkWidth := rfl
@[simp] theorem State.post_linkSpeed (s : State) (i : Instr) : (s.post i).linkSpeed = s.linkSpeed := rfl
@[simp] theorem State.post_hostLink (s : State) (i : Instr) : (s.post i).hostLink = s.hostLink := rfl
@[simp] theorem State.post_stations (s : State) (i : Instr) : (s.post i).stations = s.stations := rfl
@[simp] theorem State.post_lostXd (s : State) (i : Instr) : (s.post i).lostXd = s.lostXd := rfl
@[simp] theorem State.post_fullDropped (s : State) (i : Instr) : (s.post i).fullDropped = s.fullDropped := rfl
@[simp] theorem State.post_dropping (s : State) (i : Instr) : (s.post i).dropping = s.dropping := rfl
@[simp] theorem State.post_faultyCompute (s : State) (i : Instr) : (s.post i).faultyCompute = s.faultyCompute := rfl
@[simp] theorem State.post_faultyMemory (s : State) (i : Instr) : (s.post i).faultyMemory = s.faultyMemory := rfl
@[simp] theorem State.post_bitErrors (s : State) (i : Instr) : (s.post i).bitErrors = s.bitErrors := rfl
@[simp] theorem State.post_machineError (s : State) (i : Instr) : (s.post i).machineError = s.machineError := rfl
@[simp] theorem State.post_areaCount (s : State) (i : Instr) : (s.post i).areaCount = s.areaCount := rfl
@[simp] theorem State.post_tagErrors (s : State) (i : Instr) : (s.post i).tagErrors = s.tagErrors := rfl
@[simp] theorem State.post_peersAssigned (s : State) (i : Instr) : (s.post i).peersAssigned = s.peersAssigned := rfl
@[simp] theorem State.post_exAssigned (s : State) (i : Instr) : (s.post i).exAssigned = s.exAssigned := rfl
@[simp] theorem State.post_restorable (s : State) (i : Instr) : (s.post i).restorable = s.restorable := rfl
@[simp] theorem State.post_images (s : State) (i : Instr) : (s.post i).images = s.images := rfl
@[simp] theorem State.post_logMachine (s : State) (i : Instr) : (s.post i).logMachine = s.logMachine := rfl
@[simp] theorem State.post_logLaunch (s : State) (i : Instr) : (s.post i).logLaunch = s.logLaunch := rfl
@[simp] theorem State.post_logRefusal (s : State) (i : Instr) : (s.post i).logRefusal = s.logRefusal := rfl
@[simp] theorem State.post_logDrop (s : State) (i : Instr) : (s.post i).logDrop = s.logDrop := rfl
@[simp] theorem State.post_logDead (s : State) (i : Instr) : (s.post i).logDead = s.logDead := rfl
@[simp] theorem State.post_corrections (s : State) (i : Instr) : (s.post i).corrections = s.corrections := rfl
@[simp] theorem State.post_reported (s : State) (i : Instr) : (s.post i).reported = s.reported := rfl
@[simp] theorem State.post_temperature (s : State) (i : Instr) : (s.post i).temperature = s.temperature := rfl
@[simp] theorem State.post_halfRate (s : State) (i : Instr) : (s.post i).halfRate = s.halfRate := rfl
@[simp] theorem State.post_clockStopped (s : State) (i : Instr) : (s.post i).clockStopped = s.clockStopped := rfl
@[simp] theorem State.post_budget (s : State) (i : Instr) : (s.post i).budget = s.budget := rfl
@[simp] theorem State.post_powerCap (s : State) (i : Instr) : (s.post i).powerCap = s.powerCap := rfl
@[simp] theorem State.post_security (s : State) (i : Instr) : (s.post i).security = s.security := rfl
@[simp] theorem State.post_registrarImage (s : State) (i : Instr) : (s.post i).registrarImage = s.registrarImage := rfl
@[simp] theorem State.post_curatorImage (s : State) (i : Instr) : (s.post i).curatorImage = s.curatorImage := rfl
@[simp] theorem State.post_recovery (s : State) (i : Instr) : (s.post i).recovery = s.recovery := rfl
@[simp] theorem State.post_up (s : State) (i : Instr) : (s.post i).up = s.up := rfl

/-! ## State.take -/

@[simp] theorem State.take_cur (s : State) (i : Instr) : (s.take i).cur = s.cur := rfl
@[simp] theorem State.take_curH (s : State) (i : Instr) : (s.take i).curH = s.curH := rfl
@[simp] theorem State.take_agenda (s : State) (i : Instr) : (s.take i).agenda = s.agenda := rfl
@[simp] theorem State.take_choice (s : State) (i : Instr) : (s.take i).choice = s.choice := rfl
@[simp] theorem State.take_choices (s : State) (i : Instr) : (s.take i).choices = s.choices := rfl
@[simp] theorem State.take_turn (s : State) (i : Instr) : (s.take i).turn = s.turn := rfl
@[simp] theorem State.take_cores (s : State) (i : Instr) : (s.take i).cores = s.cores := rfl
@[simp] theorem State.take_rings (s : State) (i : Instr) : (s.take i).rings = s.rings := rfl
@[simp] theorem State.take_hbm (s : State) (i : Instr) : (s.take i).hbm = s.hbm := rfl
@[simp] theorem State.take_wts (s : State) (i : Instr) : (s.take i).wts = s.wts := rfl
@[simp] theorem State.take_rts (s : State) (i : Instr) : (s.take i).rts = s.rts := rfl
@[simp] theorem State.take_poison (s : State) (i : Instr) : (s.take i).poison = s.poison := rfl
@[simp] theorem State.take_homeMap (s : State) (i : Instr) : (s.take i).homeMap = s.homeMap := rfl
@[simp] theorem State.take_striped (s : State) (i : Instr) : (s.take i).striped = s.striped := rfl
@[simp] theorem State.take_locks (s : State) (i : Instr) : (s.take i).locks = s.locks := rfl
@[simp] theorem State.take_pins (s : State) (i : Instr) : (s.take i).pins = s.pins := rfl
@[simp] theorem State.take_annex (s : State) (i : Instr) : (s.take i).annex = s.annex := rfl
@[simp] theorem State.take_cat (s : State) (i : Instr) : (s.take i).cat = s.cat := rfl
@[simp] theorem State.take_catClock (s : State) (i : Instr) : (s.take i).catClock = s.catClock := rfl
@[simp] theorem State.take_annexClock (s : State) (i : Instr) : (s.take i).annexClock = s.annexClock := rfl
@[simp] theorem State.take_slices (s : State) (i : Instr) : (s.take i).slices = s.slices := rfl
@[simp] theorem State.take_qmap (s : State) (i : Instr) : (s.take i).qmap = s.qmap := rfl
@[simp] theorem State.take_mirrorSeq (s : State) (i : Instr) : (s.take i).mirrorSeq = s.mirrorSeq := rfl
@[simp] theorem State.take_mirrorDone (s : State) (i : Instr) : (s.take i).mirrorDone = s.mirrorDone := rfl
@[simp] theorem State.take_frames (s : State) (i : Instr) : (s.take i).frames = s.frames := rfl
@[simp] theorem State.take_vit (s : State) (i : Instr) : (s.take i).vit = s.vit := rfl
@[simp] theorem State.take_tickets (s : State) (i : Instr) : (s.take i).tickets = s.tickets := rfl
@[simp] theorem State.take_sync (s : State) (i : Instr) : (s.take i).sync = s.sync := rfl
@[simp] theorem State.take_mirror (s : State) (i : Instr) : (s.take i).mirror = s.mirror := rfl
@[simp] theorem State.take_combine (s : State) (i : Instr) : (s.take i).combine = s.combine := rfl
@[simp] theorem State.take_dropped (s : State) (i : Instr) : (s.take i).dropped = s.dropped := rfl
@[simp] theorem State.take_shoots (s : State) (i : Instr) : (s.take i).shoots = s.shoots := rfl
@[simp] theorem State.take_hostMem (s : State) (i : Instr) : (s.take i).hostMem = s.hostMem := rfl
@[simp] theorem State.take_hostPoison (s : State) (i : Instr) : (s.take i).hostPoison = s.hostPoison := rfl
@[simp] theorem State.take_pkgNo (s : State) (i : Instr) : (s.take i).pkgNo = s.pkgNo := rfl
@[simp] theorem State.take_pkgAssigned (s : State) (i : Instr) : (s.take i).pkgAssigned = s.pkgAssigned := rfl
@[simp] theorem State.take_exBase (s : State) (i : Instr) : (s.take i).exBase = s.exBase := rfl
@[simp] theorem State.take_exLen (s : State) (i : Instr) : (s.take i).exLen = s.exLen := rfl
@[simp] theorem State.take_peers (s : State) (i : Instr) : (s.take i).peers = s.peers := rfl
@[simp] theorem State.take_peerOut (s : State) (i : Instr) : (s.take i).peerOut = s.peerOut := rfl
@[simp] theorem State.take_peerNext (s : State) (i : Instr) : (s.take i).peerNext = s.peerNext := rfl
@[simp] theorem State.take_peerSent (s : State) (i : Instr) : (s.take i).peerSent = s.peerSent := rfl
@[simp] theorem State.take_spaces (s : State) (i : Instr) : (s.take i).spaces = s.spaces := rfl
@[simp] theorem State.take_windows (s : State) (i : Instr) : (s.take i).windows = s.windows := rfl
@[simp] theorem State.take_broadcastWin (s : State) (i : Instr) : (s.take i).broadcastWin = s.broadcastWin := rfl
@[simp] theorem State.take_policyTimeout (s : State) (i : Instr) : (s.take i).policyTimeout = s.policyTimeout := rfl
@[simp] theorem State.take_policyQuantum (s : State) (i : Instr) : (s.take i).policyQuantum = s.policyQuantum := rfl
@[simp] theorem State.take_apbase (s : State) (i : Instr) : (s.take i).apbase = s.apbase := rfl
@[simp] theorem State.take_bar2 (s : State) (i : Instr) : (s.take i).bar2 = s.bar2 := rfl
@[simp] theorem State.take_mailboxes (s : State) (i : Instr) : (s.take i).mailboxes = s.mailboxes := rfl
@[simp] theorem State.take_sendWin (s : State) (i : Instr) : (s.take i).sendWin = s.sendWin := rfl
@[simp] theorem State.take_syncSel (s : State) (i : Instr) : (s.take i).syncSel = s.syncSel := rfl
@[simp] theorem State.take_syncOld (s : State) (i : Instr) : (s.take i).syncOld = s.syncOld := rfl
@[simp] theorem State.take_msix (s : State) (i : Instr) : (s.take i).msix = s.msix := rfl
@[simp] theorem State.take_msixPending (s : State) (i : Instr) : (s.take i).msixPending = s.msixPending := rfl
@[simp] theorem State.take_portHeld (s : State) (i : Instr) : (s.take i).portHeld = s.portHeld := rfl
@[simp] theorem State.take_aer (s : State) (i : Instr) : (s.take i).aer = s.aer := rfl
@[simp] theorem State.take_portSeq (s : State) (i : Instr) : (s.take i).portSeq = s.portSeq := rfl
@[simp] theorem State.take_answers (s : State) (i : Instr) : (s.take i).answers = s.answers := rfl
@[simp] theorem State.take_linkWidth (s : State) (i : Instr) : (s.take i).linkWidth = s.linkWidth := rfl
@[simp] theorem State.take_linkSpeed (s : State) (i : Instr) : (s.take i).linkSpeed = s.linkSpeed := rfl
@[simp] theorem State.take_hostLink (s : State) (i : Instr) : (s.take i).hostLink = s.hostLink := rfl
@[simp] theorem State.take_stations (s : State) (i : Instr) : (s.take i).stations = s.stations := rfl
@[simp] theorem State.take_lostXd (s : State) (i : Instr) : (s.take i).lostXd = s.lostXd := rfl
@[simp] theorem State.take_fullDropped (s : State) (i : Instr) : (s.take i).fullDropped = s.fullDropped := rfl
@[simp] theorem State.take_dropping (s : State) (i : Instr) : (s.take i).dropping = s.dropping := rfl
@[simp] theorem State.take_faultyCompute (s : State) (i : Instr) : (s.take i).faultyCompute = s.faultyCompute := rfl
@[simp] theorem State.take_faultyMemory (s : State) (i : Instr) : (s.take i).faultyMemory = s.faultyMemory := rfl
@[simp] theorem State.take_bitErrors (s : State) (i : Instr) : (s.take i).bitErrors = s.bitErrors := rfl
@[simp] theorem State.take_machineError (s : State) (i : Instr) : (s.take i).machineError = s.machineError := rfl
@[simp] theorem State.take_areaCount (s : State) (i : Instr) : (s.take i).areaCount = s.areaCount := rfl
@[simp] theorem State.take_tagErrors (s : State) (i : Instr) : (s.take i).tagErrors = s.tagErrors := rfl
@[simp] theorem State.take_peersAssigned (s : State) (i : Instr) : (s.take i).peersAssigned = s.peersAssigned := rfl
@[simp] theorem State.take_exAssigned (s : State) (i : Instr) : (s.take i).exAssigned = s.exAssigned := rfl
@[simp] theorem State.take_restorable (s : State) (i : Instr) : (s.take i).restorable = s.restorable := rfl
@[simp] theorem State.take_images (s : State) (i : Instr) : (s.take i).images = s.images := rfl
@[simp] theorem State.take_logMachine (s : State) (i : Instr) : (s.take i).logMachine = s.logMachine := rfl
@[simp] theorem State.take_logLaunch (s : State) (i : Instr) : (s.take i).logLaunch = s.logLaunch := rfl
@[simp] theorem State.take_logRefusal (s : State) (i : Instr) : (s.take i).logRefusal = s.logRefusal := rfl
@[simp] theorem State.take_logDrop (s : State) (i : Instr) : (s.take i).logDrop = s.logDrop := rfl
@[simp] theorem State.take_logDead (s : State) (i : Instr) : (s.take i).logDead = s.logDead := rfl
@[simp] theorem State.take_corrections (s : State) (i : Instr) : (s.take i).corrections = s.corrections := rfl
@[simp] theorem State.take_reported (s : State) (i : Instr) : (s.take i).reported = s.reported := rfl
@[simp] theorem State.take_temperature (s : State) (i : Instr) : (s.take i).temperature = s.temperature := rfl
@[simp] theorem State.take_halfRate (s : State) (i : Instr) : (s.take i).halfRate = s.halfRate := rfl
@[simp] theorem State.take_clockStopped (s : State) (i : Instr) : (s.take i).clockStopped = s.clockStopped := rfl
@[simp] theorem State.take_budget (s : State) (i : Instr) : (s.take i).budget = s.budget := rfl
@[simp] theorem State.take_powerCap (s : State) (i : Instr) : (s.take i).powerCap = s.powerCap := rfl
@[simp] theorem State.take_security (s : State) (i : Instr) : (s.take i).security = s.security := rfl
@[simp] theorem State.take_registrarImage (s : State) (i : Instr) : (s.take i).registrarImage = s.registrarImage := rfl
@[simp] theorem State.take_curatorImage (s : State) (i : Instr) : (s.take i).curatorImage = s.curatorImage := rfl
@[simp] theorem State.take_recovery (s : State) (i : Instr) : (s.take i).recovery = s.recovery := rfl
@[simp] theorem State.take_up (s : State) (i : Instr) : (s.take i).up = s.up := rfl

/-! ## Ctx.setK -/

@[simp] theorem Ctx.setK_pc (c : Ctx) (n : KReg) (b : Bool) : (c.setK n b).pc = c.pc := rfl
@[simp] theorem Ctx.setK_s (c : Ctx) (n : KReg) (b : Bool) : (c.setK n b).s = c.s := rfl
@[simp] theorem Ctx.setK_v (c : Ctx) (n : KReg) (b : Bool) : (c.setK n b).v = c.v := rfl
@[simp] theorem Ctx.setK_p (c : Ctx) (n : KReg) (b : Bool) : (c.setK n b).p = c.p := rfl
@[simp] theorem Ctx.setK_prog (c : Ctx) (n : KReg) (b : Bool) : (c.setK n b).prog = c.prog := rfl
@[simp] theorem Ctx.setK_done (c : Ctx) (n : KReg) (b : Bool) : (c.setK n b).done = c.done := rfl
@[simp] theorem Ctx.setK_vl (c : Ctx) (n : KReg) (b : Bool) : (c.setK n b).vl = c.vl := rfl
@[simp] theorem Ctx.setK_vill (c : Ctx) (n : KReg) (b : Bool) : (c.setK n b).vill = c.vill := rfl
@[simp] theorem Ctx.setK_ew (c : Ctx) (n : KReg) (b : Bool) : (c.setK n b).ew = c.ew := rfl
@[simp] theorem Ctx.setK_vstart (c : Ctx) (n : KReg) (b : Bool) : (c.setK n b).vstart = c.vstart := rfl
@[simp] theorem Ctx.setK_vdirty (c : Ctx) (n : KReg) (b : Bool) : (c.setK n b).vdirty = c.vdirty := rfl
@[simp] theorem Ctx.setK_pixSel (c : Ctx) (n : KReg) (b : Bool) : (c.setK n b).pixSel = c.pixSel := rfl
@[simp] theorem Ctx.setK_rndm (c : Ctx) (n : KReg) (b : Bool) : (c.setK n b).rndm = c.rndm := rfl
@[simp] theorem Ctx.setK_fflags (c : Ctx) (n : KReg) (b : Bool) : (c.setK n b).fflags = c.fflags := rfl
@[simp] theorem Ctx.setK_seed (c : Ctx) (n : KReg) (b : Bool) : (c.setK n b).seed = c.seed := rfl
@[simp] theorem Ctx.setK_loops (c : Ctx) (n : KReg) (b : Bool) : (c.setK n b).loops = c.loops := rfl
@[simp] theorem Ctx.setK_shadow (c : Ctx) (n : KReg) (b : Bool) : (c.setK n b).shadow = c.shadow := rfl
@[simp] theorem Ctx.setK_wait (c : Ctx) (n : KReg) (b : Bool) : (c.setK n b).wait = c.wait := rfl
@[simp] theorem Ctx.setK_event (c : Ctx) (n : KReg) (b : Bool) : (c.setK n b).event = c.event := rfl
@[simp] theorem Ctx.setK_issued (c : Ctx) (n : KReg) (b : Bool) : (c.setK n b).issued = c.issued := rfl
@[simp] theorem Ctx.setK_stamped (c : Ctx) (n : KReg) (b : Bool) : (c.setK n b).stamped = c.stamped := rfl

/-! ## Ctx.setV -/

@[simp] theorem Ctx.setV_pc (c : Ctx) (n : VReg) (x : BitVec 4096) : (c.setV n x).pc = c.pc := rfl
@[simp] theorem Ctx.setV_s (c : Ctx) (n : VReg) (x : BitVec 4096) : (c.setV n x).s = c.s := rfl
@[simp] theorem Ctx.setV_k (c : Ctx) (n : VReg) (x : BitVec 4096) : (c.setV n x).k = c.k := rfl
@[simp] theorem Ctx.setV_p (c : Ctx) (n : VReg) (x : BitVec 4096) : (c.setV n x).p = c.p := rfl
@[simp] theorem Ctx.setV_vl (c : Ctx) (n : VReg) (x : BitVec 4096) : (c.setV n x).vl = c.vl := rfl
@[simp] theorem Ctx.setV_vill (c : Ctx) (n : VReg) (x : BitVec 4096) : (c.setV n x).vill = c.vill := rfl
@[simp] theorem Ctx.setV_ew (c : Ctx) (n : VReg) (x : BitVec 4096) : (c.setV n x).ew = c.ew := rfl
@[simp] theorem Ctx.setV_vstart (c : Ctx) (n : VReg) (x : BitVec 4096) : (c.setV n x).vstart = c.vstart := rfl
@[simp] theorem Ctx.setV_pixSel (c : Ctx) (n : VReg) (x : BitVec 4096) : (c.setV n x).pixSel = c.pixSel := rfl
@[simp] theorem Ctx.setV_rndm (c : Ctx) (n : VReg) (x : BitVec 4096) : (c.setV n x).rndm = c.rndm := rfl
@[simp] theorem Ctx.setV_fflags (c : Ctx) (n : VReg) (x : BitVec 4096) : (c.setV n x).fflags = c.fflags := rfl
@[simp] theorem Ctx.setV_seed (c : Ctx) (n : VReg) (x : BitVec 4096) : (c.setV n x).seed = c.seed := rfl
@[simp] theorem Ctx.setV_loops (c : Ctx) (n : VReg) (x : BitVec 4096) : (c.setV n x).loops = c.loops := rfl
@[simp] theorem Ctx.setV_shadow (c : Ctx) (n : VReg) (x : BitVec 4096) : (c.setV n x).shadow = c.shadow := rfl
@[simp] theorem Ctx.setV_wait (c : Ctx) (n : VReg) (x : BitVec 4096) : (c.setV n x).wait = c.wait := rfl
@[simp] theorem Ctx.setV_event (c : Ctx) (n : VReg) (x : BitVec 4096) : (c.setV n x).event = c.event := rfl
@[simp] theorem Ctx.setV_issued (c : Ctx) (n : VReg) (x : BitVec 4096) : (c.setV n x).issued = c.issued := rfl
@[simp] theorem Ctx.setV_stamped (c : Ctx) (n : VReg) (x : BitVec 4096) : (c.setV n x).stamped = c.stamped := rfl

/-! ## Ctx.setVPartial -/

@[simp] theorem Ctx.setVPartial_pc (c : Ctx) (n : VReg) (x : BitVec 4096) (j : Nat) : (c.setVPartial n x j).pc = c.pc := rfl
@[simp] theorem Ctx.setVPartial_s (c : Ctx) (n : VReg) (x : BitVec 4096) (j : Nat) : (c.setVPartial n x j).s = c.s := rfl
@[simp] theorem Ctx.setVPartial_k (c : Ctx) (n : VReg) (x : BitVec 4096) (j : Nat) : (c.setVPartial n x j).k = c.k := rfl
@[simp] theorem Ctx.setVPartial_p (c : Ctx) (n : VReg) (x : BitVec 4096) (j : Nat) : (c.setVPartial n x j).p = c.p := rfl
@[simp] theorem Ctx.setVPartial_vl (c : Ctx) (n : VReg) (x : BitVec 4096) (j : Nat) : (c.setVPartial n x j).vl = c.vl := rfl
@[simp] theorem Ctx.setVPartial_vill (c : Ctx) (n : VReg) (x : BitVec 4096) (j : Nat) : (c.setVPartial n x j).vill = c.vill := rfl
@[simp] theorem Ctx.setVPartial_ew (c : Ctx) (n : VReg) (x : BitVec 4096) (j : Nat) : (c.setVPartial n x j).ew = c.ew := rfl
@[simp] theorem Ctx.setVPartial_vstart (c : Ctx) (n : VReg) (x : BitVec 4096) (j : Nat) : (c.setVPartial n x j).vstart = c.vstart := rfl
@[simp] theorem Ctx.setVPartial_pixSel (c : Ctx) (n : VReg) (x : BitVec 4096) (j : Nat) : (c.setVPartial n x j).pixSel = c.pixSel := rfl
@[simp] theorem Ctx.setVPartial_rndm (c : Ctx) (n : VReg) (x : BitVec 4096) (j : Nat) : (c.setVPartial n x j).rndm = c.rndm := rfl
@[simp] theorem Ctx.setVPartial_fflags (c : Ctx) (n : VReg) (x : BitVec 4096) (j : Nat) : (c.setVPartial n x j).fflags = c.fflags := rfl
@[simp] theorem Ctx.setVPartial_seed (c : Ctx) (n : VReg) (x : BitVec 4096) (j : Nat) : (c.setVPartial n x j).seed = c.seed := rfl
@[simp] theorem Ctx.setVPartial_loops (c : Ctx) (n : VReg) (x : BitVec 4096) (j : Nat) : (c.setVPartial n x j).loops = c.loops := rfl
@[simp] theorem Ctx.setVPartial_shadow (c : Ctx) (n : VReg) (x : BitVec 4096) (j : Nat) : (c.setVPartial n x j).shadow = c.shadow := rfl
@[simp] theorem Ctx.setVPartial_wait (c : Ctx) (n : VReg) (x : BitVec 4096) (j : Nat) : (c.setVPartial n x j).wait = c.wait := rfl
@[simp] theorem Ctx.setVPartial_event (c : Ctx) (n : VReg) (x : BitVec 4096) (j : Nat) : (c.setVPartial n x j).event = c.event := rfl
@[simp] theorem Ctx.setVPartial_issued (c : Ctx) (n : VReg) (x : BitVec 4096) (j : Nat) : (c.setVPartial n x j).issued = c.issued := rfl
@[simp] theorem Ctx.setVPartial_stamped (c : Ctx) (n : VReg) (x : BitVec 4096) (j : Nat) : (c.setVPartial n x j).stamped = c.stamped := rfl

/-! ## Ctx.setP -/

@[simp] theorem Ctx.setP_pc (c : Ctx) (n : PReg) (x : BitVec 1024) : (c.setP n x).pc = c.pc := rfl
@[simp] theorem Ctx.setP_s (c : Ctx) (n : PReg) (x : BitVec 1024) : (c.setP n x).s = c.s := rfl
@[simp] theorem Ctx.setP_k (c : Ctx) (n : PReg) (x : BitVec 1024) : (c.setP n x).k = c.k := rfl
@[simp] theorem Ctx.setP_v (c : Ctx) (n : PReg) (x : BitVec 1024) : (c.setP n x).v = c.v := rfl
@[simp] theorem Ctx.setP_prog (c : Ctx) (n : PReg) (x : BitVec 1024) : (c.setP n x).prog = c.prog := rfl
@[simp] theorem Ctx.setP_done (c : Ctx) (n : PReg) (x : BitVec 1024) : (c.setP n x).done = c.done := rfl
@[simp] theorem Ctx.setP_vl (c : Ctx) (n : PReg) (x : BitVec 1024) : (c.setP n x).vl = c.vl := rfl
@[simp] theorem Ctx.setP_vill (c : Ctx) (n : PReg) (x : BitVec 1024) : (c.setP n x).vill = c.vill := rfl
@[simp] theorem Ctx.setP_ew (c : Ctx) (n : PReg) (x : BitVec 1024) : (c.setP n x).ew = c.ew := rfl
@[simp] theorem Ctx.setP_vstart (c : Ctx) (n : PReg) (x : BitVec 1024) : (c.setP n x).vstart = c.vstart := rfl
@[simp] theorem Ctx.setP_vdirty (c : Ctx) (n : PReg) (x : BitVec 1024) : (c.setP n x).vdirty = c.vdirty := rfl
@[simp] theorem Ctx.setP_pixSel (c : Ctx) (n : PReg) (x : BitVec 1024) : (c.setP n x).pixSel = c.pixSel := rfl
@[simp] theorem Ctx.setP_rndm (c : Ctx) (n : PReg) (x : BitVec 1024) : (c.setP n x).rndm = c.rndm := rfl
@[simp] theorem Ctx.setP_fflags (c : Ctx) (n : PReg) (x : BitVec 1024) : (c.setP n x).fflags = c.fflags := rfl
@[simp] theorem Ctx.setP_seed (c : Ctx) (n : PReg) (x : BitVec 1024) : (c.setP n x).seed = c.seed := rfl
@[simp] theorem Ctx.setP_loops (c : Ctx) (n : PReg) (x : BitVec 1024) : (c.setP n x).loops = c.loops := rfl
@[simp] theorem Ctx.setP_shadow (c : Ctx) (n : PReg) (x : BitVec 1024) : (c.setP n x).shadow = c.shadow := rfl
@[simp] theorem Ctx.setP_wait (c : Ctx) (n : PReg) (x : BitVec 1024) : (c.setP n x).wait = c.wait := rfl
@[simp] theorem Ctx.setP_event (c : Ctx) (n : PReg) (x : BitVec 1024) : (c.setP n x).event = c.event := rfl
@[simp] theorem Ctx.setP_issued (c : Ctx) (n : PReg) (x : BitVec 1024) : (c.setP n x).issued = c.issued := rfl
@[simp] theorem Ctx.setP_stamped (c : Ctx) (n : PReg) (x : BitVec 1024) : (c.setP n x).stamped = c.stamped := rfl

/-! ## Ctx.raiseFlags -/

@[simp] theorem Ctx.raiseFlags_pc (c : Ctx) (f : Flags) : (c.raiseFlags f).pc = c.pc := rfl
@[simp] theorem Ctx.raiseFlags_s (c : Ctx) (f : Flags) : (c.raiseFlags f).s = c.s := rfl
@[simp] theorem Ctx.raiseFlags_k (c : Ctx) (f : Flags) : (c.raiseFlags f).k = c.k := rfl
@[simp] theorem Ctx.raiseFlags_v (c : Ctx) (f : Flags) : (c.raiseFlags f).v = c.v := rfl
@[simp] theorem Ctx.raiseFlags_p (c : Ctx) (f : Flags) : (c.raiseFlags f).p = c.p := rfl
@[simp] theorem Ctx.raiseFlags_prog (c : Ctx) (f : Flags) : (c.raiseFlags f).prog = c.prog := rfl
@[simp] theorem Ctx.raiseFlags_done (c : Ctx) (f : Flags) : (c.raiseFlags f).done = c.done := rfl
@[simp] theorem Ctx.raiseFlags_vl (c : Ctx) (f : Flags) : (c.raiseFlags f).vl = c.vl := rfl
@[simp] theorem Ctx.raiseFlags_vill (c : Ctx) (f : Flags) : (c.raiseFlags f).vill = c.vill := rfl
@[simp] theorem Ctx.raiseFlags_ew (c : Ctx) (f : Flags) : (c.raiseFlags f).ew = c.ew := rfl
@[simp] theorem Ctx.raiseFlags_vstart (c : Ctx) (f : Flags) : (c.raiseFlags f).vstart = c.vstart := rfl
@[simp] theorem Ctx.raiseFlags_vdirty (c : Ctx) (f : Flags) : (c.raiseFlags f).vdirty = c.vdirty := rfl
@[simp] theorem Ctx.raiseFlags_pixSel (c : Ctx) (f : Flags) : (c.raiseFlags f).pixSel = c.pixSel := rfl
@[simp] theorem Ctx.raiseFlags_rndm (c : Ctx) (f : Flags) : (c.raiseFlags f).rndm = c.rndm := rfl
@[simp] theorem Ctx.raiseFlags_seed (c : Ctx) (f : Flags) : (c.raiseFlags f).seed = c.seed := rfl
@[simp] theorem Ctx.raiseFlags_loops (c : Ctx) (f : Flags) : (c.raiseFlags f).loops = c.loops := rfl
@[simp] theorem Ctx.raiseFlags_shadow (c : Ctx) (f : Flags) : (c.raiseFlags f).shadow = c.shadow := rfl
@[simp] theorem Ctx.raiseFlags_wait (c : Ctx) (f : Flags) : (c.raiseFlags f).wait = c.wait := rfl
@[simp] theorem Ctx.raiseFlags_event (c : Ctx) (f : Flags) : (c.raiseFlags f).event = c.event := rfl
@[simp] theorem Ctx.raiseFlags_issued (c : Ctx) (f : Flags) : (c.raiseFlags f).issued = c.issued := rfl
@[simp] theorem Ctx.raiseFlags_stamped (c : Ctx) (f : Flags) : (c.raiseFlags f).stamped = c.stamped := rfl

/-! ## Ctx.fresh -/

@[simp] theorem Ctx.fresh_pc (c : Ctx) : (c.fresh).pc = c.pc := rfl
@[simp] theorem Ctx.fresh_s (c : Ctx) : (c.fresh).s = c.s := rfl
@[simp] theorem Ctx.fresh_k (c : Ctx) : (c.fresh).k = c.k := rfl
@[simp] theorem Ctx.fresh_v (c : Ctx) : (c.fresh).v = c.v := rfl
@[simp] theorem Ctx.fresh_p (c : Ctx) : (c.fresh).p = c.p := rfl
@[simp] theorem Ctx.fresh_prog (c : Ctx) : (c.fresh).prog = c.prog := rfl
@[simp] theorem Ctx.fresh_done (c : Ctx) : (c.fresh).done = c.done := rfl
@[simp] theorem Ctx.fresh_vl (c : Ctx) : (c.fresh).vl = c.vl := rfl
@[simp] theorem Ctx.fresh_vill (c : Ctx) : (c.fresh).vill = c.vill := rfl
@[simp] theorem Ctx.fresh_ew (c : Ctx) : (c.fresh).ew = c.ew := rfl
@[simp] theorem Ctx.fresh_vstart (c : Ctx) : (c.fresh).vstart = c.vstart := rfl
@[simp] theorem Ctx.fresh_vdirty (c : Ctx) : (c.fresh).vdirty = c.vdirty := rfl
@[simp] theorem Ctx.fresh_pixSel (c : Ctx) : (c.fresh).pixSel = c.pixSel := rfl
@[simp] theorem Ctx.fresh_rndm (c : Ctx) : (c.fresh).rndm = c.rndm := rfl
@[simp] theorem Ctx.fresh_fflags (c : Ctx) : (c.fresh).fflags = c.fflags := rfl
@[simp] theorem Ctx.fresh_seed (c : Ctx) : (c.fresh).seed = c.seed := rfl
@[simp] theorem Ctx.fresh_loops (c : Ctx) : (c.fresh).loops = c.loops := rfl
@[simp] theorem Ctx.fresh_shadow (c : Ctx) : (c.fresh).shadow = c.shadow := rfl
@[simp] theorem Ctx.fresh_wait (c : Ctx) : (c.fresh).wait = c.wait := rfl
@[simp] theorem Ctx.fresh_event (c : Ctx) : (c.fresh).event = c.event := rfl

/-! ## Ctx.jump -/

@[simp] theorem Ctx.jump_s (c : Ctx) (a : Word) : (c.jump a).s = c.s := rfl
@[simp] theorem Ctx.jump_k (c : Ctx) (a : Word) : (c.jump a).k = c.k := rfl
@[simp] theorem Ctx.jump_v (c : Ctx) (a : Word) : (c.jump a).v = c.v := rfl
@[simp] theorem Ctx.jump_p (c : Ctx) (a : Word) : (c.jump a).p = c.p := rfl
@[simp] theorem Ctx.jump_prog (c : Ctx) (a : Word) : (c.jump a).prog = c.prog := rfl
@[simp] theorem Ctx.jump_done (c : Ctx) (a : Word) : (c.jump a).done = c.done := rfl
@[simp] theorem Ctx.jump_vl (c : Ctx) (a : Word) : (c.jump a).vl = c.vl := rfl
@[simp] theorem Ctx.jump_vill (c : Ctx) (a : Word) : (c.jump a).vill = c.vill := rfl
@[simp] theorem Ctx.jump_ew (c : Ctx) (a : Word) : (c.jump a).ew = c.ew := rfl
@[simp] theorem Ctx.jump_vstart (c : Ctx) (a : Word) : (c.jump a).vstart = c.vstart := rfl
@[simp] theorem Ctx.jump_vdirty (c : Ctx) (a : Word) : (c.jump a).vdirty = c.vdirty := rfl
@[simp] theorem Ctx.jump_pixSel (c : Ctx) (a : Word) : (c.jump a).pixSel = c.pixSel := rfl
@[simp] theorem Ctx.jump_rndm (c : Ctx) (a : Word) : (c.jump a).rndm = c.rndm := rfl
@[simp] theorem Ctx.jump_fflags (c : Ctx) (a : Word) : (c.jump a).fflags = c.fflags := rfl
@[simp] theorem Ctx.jump_seed (c : Ctx) (a : Word) : (c.jump a).seed = c.seed := rfl
@[simp] theorem Ctx.jump_shadow (c : Ctx) (a : Word) : (c.jump a).shadow = c.shadow := rfl
@[simp] theorem Ctx.jump_wait (c : Ctx) (a : Word) : (c.jump a).wait = c.wait := rfl
@[simp] theorem Ctx.jump_event (c : Ctx) (a : Word) : (c.jump a).event = c.event := rfl
@[simp] theorem Ctx.jump_issued (c : Ctx) (a : Word) : (c.jump a).issued = c.issued := rfl
@[simp] theorem Ctx.jump_stamped (c : Ctx) (a : Word) : (c.jump a).stamped = c.stamped := rfl

/-! ## Updates that test something first -/

@[simp] theorem Ctx.setX_pc (c : Ctx) (r : SReg) (v : Word) : (c.setX r v).pc = c.pc := by unfold Ctx.setX; split <;> rfl
@[simp] theorem Ctx.setX_k (c : Ctx) (r : SReg) (v : Word) : (c.setX r v).k = c.k := by unfold Ctx.setX; split <;> rfl
@[simp] theorem Ctx.setX_v (c : Ctx) (r : SReg) (v : Word) : (c.setX r v).v = c.v := by unfold Ctx.setX; split <;> rfl
@[simp] theorem Ctx.setX_p (c : Ctx) (r : SReg) (v : Word) : (c.setX r v).p = c.p := by unfold Ctx.setX; split <;> rfl
@[simp] theorem Ctx.setX_prog (c : Ctx) (r : SReg) (v : Word) : (c.setX r v).prog = c.prog := by unfold Ctx.setX; split <;> rfl
@[simp] theorem Ctx.setX_done (c : Ctx) (r : SReg) (v : Word) : (c.setX r v).done = c.done := by unfold Ctx.setX; split <;> rfl
@[simp] theorem Ctx.setX_vl (c : Ctx) (r : SReg) (v : Word) : (c.setX r v).vl = c.vl := by unfold Ctx.setX; split <;> rfl
@[simp] theorem Ctx.setX_vill (c : Ctx) (r : SReg) (v : Word) : (c.setX r v).vill = c.vill := by unfold Ctx.setX; split <;> rfl
@[simp] theorem Ctx.setX_ew (c : Ctx) (r : SReg) (v : Word) : (c.setX r v).ew = c.ew := by unfold Ctx.setX; split <;> rfl
@[simp] theorem Ctx.setX_vstart (c : Ctx) (r : SReg) (v : Word) : (c.setX r v).vstart = c.vstart := by unfold Ctx.setX; split <;> rfl
@[simp] theorem Ctx.setX_vdirty (c : Ctx) (r : SReg) (v : Word) : (c.setX r v).vdirty = c.vdirty := by unfold Ctx.setX; split <;> rfl
@[simp] theorem Ctx.setX_pixSel (c : Ctx) (r : SReg) (v : Word) : (c.setX r v).pixSel = c.pixSel := by unfold Ctx.setX; split <;> rfl
@[simp] theorem Ctx.setX_rndm (c : Ctx) (r : SReg) (v : Word) : (c.setX r v).rndm = c.rndm := by unfold Ctx.setX; split <;> rfl
@[simp] theorem Ctx.setX_fflags (c : Ctx) (r : SReg) (v : Word) : (c.setX r v).fflags = c.fflags := by unfold Ctx.setX; split <;> rfl
@[simp] theorem Ctx.setX_seed (c : Ctx) (r : SReg) (v : Word) : (c.setX r v).seed = c.seed := by unfold Ctx.setX; split <;> rfl
@[simp] theorem Ctx.setX_loops (c : Ctx) (r : SReg) (v : Word) : (c.setX r v).loops = c.loops := by unfold Ctx.setX; split <;> rfl
@[simp] theorem Ctx.setX_shadow (c : Ctx) (r : SReg) (v : Word) : (c.setX r v).shadow = c.shadow := by unfold Ctx.setX; split <;> rfl
@[simp] theorem Ctx.setX_wait (c : Ctx) (r : SReg) (v : Word) : (c.setX r v).wait = c.wait := by unfold Ctx.setX; split <;> rfl
@[simp] theorem Ctx.setX_event (c : Ctx) (r : SReg) (v : Word) : (c.setX r v).event = c.event := by unfold Ctx.setX; split <;> rfl
@[simp] theorem Ctx.setX_issued (c : Ctx) (r : SReg) (v : Word) : (c.setX r v).issued = c.issued := by unfold Ctx.setX; split <;> rfl
@[simp] theorem Ctx.setX_stamped (c : Ctx) (r : SReg) (v : Word) : (c.setX r v).stamped = c.stamped := by unfold Ctx.setX; split <;> rfl

@[simp] theorem Ctx.retire_s (c : Ctx) (len : Word) : (c.retire len).s = c.s := by unfold Ctx.retire; repeat (first | rfl | split)
@[simp] theorem Ctx.retire_k (c : Ctx) (len : Word) : (c.retire len).k = c.k := by unfold Ctx.retire; repeat (first | rfl | split)
@[simp] theorem Ctx.retire_v (c : Ctx) (len : Word) : (c.retire len).v = c.v := by unfold Ctx.retire; repeat (first | rfl | split)
@[simp] theorem Ctx.retire_p (c : Ctx) (len : Word) : (c.retire len).p = c.p := by unfold Ctx.retire; repeat (first | rfl | split)
@[simp] theorem Ctx.retire_prog (c : Ctx) (len : Word) : (c.retire len).prog = c.prog := by unfold Ctx.retire; repeat (first | rfl | split)
@[simp] theorem Ctx.retire_done (c : Ctx) (len : Word) : (c.retire len).done = c.done := by unfold Ctx.retire; repeat (first | rfl | split)
@[simp] theorem Ctx.retire_vl (c : Ctx) (len : Word) : (c.retire len).vl = c.vl := by unfold Ctx.retire; repeat (first | rfl | split)
@[simp] theorem Ctx.retire_vill (c : Ctx) (len : Word) : (c.retire len).vill = c.vill := by unfold Ctx.retire; repeat (first | rfl | split)
@[simp] theorem Ctx.retire_ew (c : Ctx) (len : Word) : (c.retire len).ew = c.ew := by unfold Ctx.retire; repeat (first | rfl | split)
@[simp] theorem Ctx.retire_vstart (c : Ctx) (len : Word) : (c.retire len).vstart = c.vstart := by unfold Ctx.retire; repeat (first | rfl | split)
@[simp] theorem Ctx.retire_vdirty (c : Ctx) (len : Word) : (c.retire len).vdirty = c.vdirty := by unfold Ctx.retire; repeat (first | rfl | split)
@[simp] theorem Ctx.retire_pixSel (c : Ctx) (len : Word) : (c.retire len).pixSel = c.pixSel := by unfold Ctx.retire; repeat (first | rfl | split)
@[simp] theorem Ctx.retire_rndm (c : Ctx) (len : Word) : (c.retire len).rndm = c.rndm := by unfold Ctx.retire; repeat (first | rfl | split)
@[simp] theorem Ctx.retire_fflags (c : Ctx) (len : Word) : (c.retire len).fflags = c.fflags := by unfold Ctx.retire; repeat (first | rfl | split)
@[simp] theorem Ctx.retire_seed (c : Ctx) (len : Word) : (c.retire len).seed = c.seed := by unfold Ctx.retire; repeat (first | rfl | split)
@[simp] theorem Ctx.retire_shadow (c : Ctx) (len : Word) : (c.retire len).shadow = c.shadow := by unfold Ctx.retire; repeat (first | rfl | split)
@[simp] theorem Ctx.retire_wait (c : Ctx) (len : Word) : (c.retire len).wait = c.wait := by unfold Ctx.retire; repeat (first | rfl | split)
@[simp] theorem Ctx.retire_event (c : Ctx) (len : Word) : (c.retire len).event = c.event := by unfold Ctx.retire; repeat (first | rfl | split)
@[simp] theorem Ctx.retire_issued (c : Ctx) (len : Word) : (c.retire len).issued = c.issued := by unfold Ctx.retire; repeat (first | rfl | split)
@[simp] theorem Ctx.retire_stamped (c : Ctx) (len : Word) : (c.retire len).stamped = c.stamped := by unfold Ctx.retire; repeat (first | rfl | split)

@[simp] theorem Core.setCtx_run (c : Core) (h : Bool) (x : Ctx) : (c.setCtx h x).run = c.run := by cases h <;> rfl
@[simp] theorem Core.setCtx_chk (c : Core) (h : Bool) (x : Ctx) : (c.setCtx h x).chk = c.chk := by cases h <;> rfl
@[simp] theorem Core.setCtx_chkLock (c : Core) (h : Bool) (x : Ctx) : (c.setCtx h x).chkLock = c.chkLock := by cases h <;> rfl
@[simp] theorem Core.setCtx_corr (c : Core) (h : Bool) (x : Ctx) : (c.setCtx h x).corr = c.corr := by cases h <;> rfl
@[simp] theorem Core.setCtx_lease (c : Core) (h : Bool) (x : Ctx) : (c.setCtx h x).lease = c.lease := by cases h <;> rfl
@[simp] theorem Core.setCtx_causeHeld (c : Core) (h : Bool) (x : Ctx) : (c.setCtx h x).causeHeld = c.causeHeld := by cases h <;> rfl
@[simp] theorem Core.setCtx_causeElem (c : Core) (h : Bool) (x : Ctx) : (c.setCtx h x).causeElem = c.causeElem := by cases h <;> rfl
@[simp] theorem Core.setCtx_causeCode (c : Core) (h : Bool) (x : Ctx) : (c.setCtx h x).causeCode = c.causeCode := by cases h <;> rfl
@[simp] theorem Core.setCtx_epc (c : Core) (h : Bool) (x : Ctx) : (c.setCtx h x).epc = c.epc := by cases h <;> rfl
@[simp] theorem Core.setCtx_tval (c : Core) (h : Bool) (x : Ctx) : (c.setCtx h x).tval = c.tval := by cases h <;> rfl
@[simp] theorem Core.setCtx_tvec (c : Core) (h : Bool) (x : Ctx) : (c.setCtx h x).tvec = c.tvec := by cases h <;> rfl
@[simp] theorem Core.setCtx_prv (c : Core) (h : Bool) (x : Ctx) : (c.setCtx h x).prv = c.prv := by cases h <;> rfl
@[simp] theorem Core.setCtx_pprv (c : Core) (h : Bool) (x : Ctx) : (c.setCtx h x).pprv = c.pprv := by cases h <;> rfl
@[simp] theorem Core.setCtx_stopReq (c : Core) (h : Bool) (x : Ctx) : (c.setCtx h x).stopReq = c.stopReq := by cases h <;> rfl
@[simp] theorem Core.setCtx_asid (c : Core) (h : Bool) (x : Ctx) : (c.setCtx h x).asid = c.asid := by cases h <;> rfl
@[simp] theorem Core.setCtx_ptbase (c : Core) (h : Bool) (x : Ctx) : (c.setCtx h x).ptbase = c.ptbase := by cases h <;> rfl
@[simp] theorem Core.setCtx_trapBank (c : Core) (h : Bool) (x : Ctx) : (c.setCtx h x).trapBank = c.trapBank := by cases h <;> rfl
@[simp] theorem Core.setCtx_trapLoops (c : Core) (h : Bool) (x : Ctx) : (c.setCtx h x).trapLoops = c.trapLoops := by cases h <;> rfl
@[simp] theorem Core.setCtx_lts (c : Core) (h : Bool) (x : Ctx) : (c.setCtx h x).lts = c.lts := by cases h <;> rfl
@[simp] theorem Core.setCtx_mcfg (c : Core) (h : Bool) (x : Ctx) : (c.setCtx h x).mcfg = c.mcfg := by cases h <;> rfl
@[simp] theorem Core.setCtx_active (c : Core) (h : Bool) (x : Ctx) : (c.setCtx h x).active = c.active := by cases h <;> rfl
@[simp] theorem Core.setCtx_shadowPlane (c : Core) (h : Bool) (x : Ctx) : (c.setCtx h x).shadowPlane = c.shadowPlane := by cases h <;> rfl
@[simp] theorem Core.setCtx_chans (c : Core) (h : Bool) (x : Ctx) : (c.setCtx h x).chans = c.chans := by cases h <;> rfl
@[simp] theorem Core.setCtx_scratch (c : Core) (h : Bool) (x : Ctx) : (c.setCtx h x).scratch = c.scratch := by cases h <;> rfl
@[simp] theorem Core.setCtx_scratchWts (c : Core) (h : Bool) (x : Ctx) : (c.setCtx h x).scratchWts = c.scratchWts := by cases h <;> rfl
@[simp] theorem Core.setCtx_scratchRts (c : Core) (h : Bool) (x : Ctx) : (c.setCtx h x).scratchRts = c.scratchRts := by cases h <;> rfl
@[simp] theorem Core.setCtx_scratchPoison (c : Core) (h : Bool) (x : Ctx) : (c.setCtx h x).scratchPoison = c.scratchPoison := by cases h <;> rfl
@[simp] theorem Core.setCtx_l1 (c : Core) (h : Bool) (x : Ctx) : (c.setCtx h x).l1 = c.l1 := by cases h <;> rfl
@[simp] theorem Core.setCtx_icache (c : Core) (h : Bool) (x : Ctx) : (c.setCtx h x).icache = c.icache := by cases h <;> rfl
@[simp] theorem Core.setCtx_tlb (c : Core) (h : Bool) (x : Ctx) : (c.setCtx h x).tlb = c.tlb := by cases h <;> rfl
@[simp] theorem Core.setCtx_classes (c : Core) (h : Bool) (x : Ctx) : (c.setCtx h x).classes = c.classes := by cases h <;> rfl
@[simp] theorem Core.setCtx_queue (c : Core) (h : Bool) (x : Ctx) : (c.setCtx h x).queue = c.queue := by cases h <;> rfl
@[simp] theorem Core.setCtx_overflow (c : Core) (h : Bool) (x : Ctx) : (c.setCtx h x).overflow = c.overflow := by cases h <;> rfl
@[simp] theorem Core.setCtx_dead (c : Core) (h : Bool) (x : Ctx) : (c.setCtx h x).dead = c.dead := by cases h <;> rfl
@[simp] theorem Core.setCtx_seq (c : Core) (h : Bool) (x : Ctx) : (c.setCtx h x).seq = c.seq := by cases h <;> rfl
@[simp] theorem Core.setCtx_haltReq (c : Core) (h : Bool) (x : Ctx) : (c.setCtx h x).haltReq = c.haltReq := by cases h <;> rfl
@[simp] theorem Core.setCtx_halted (c : Core) (h : Bool) (x : Ctx) : (c.setCtx h x).halted = c.halted := by cases h <;> rfl
@[simp] theorem Core.setCtx_stopped (c : Core) (h : Bool) (x : Ctx) : (c.setCtx h x).stopped = c.stopped := by cases h <;> rfl
@[simp] theorem Core.setCtx_fenced (c : Core) (h : Bool) (x : Ctx) : (c.setCtx h x).fenced = c.fenced := by cases h <;> rfl
@[simp] theorem Core.setCtx_retried (c : Core) (h : Bool) (x : Ctx) : (c.setCtx h x).retried = c.retried := by cases h <;> rfl
@[simp] theorem Core.setCtx_upset (c : Core) (h : Bool) (x : Ctx) : (c.setCtx h x).upset = c.upset := by cases h <;> rfl
@[simp] theorem Core.setCtx_tokens (c : Core) (h : Bool) (x : Ctx) : (c.setCtx h x).tokens = c.tokens := by cases h <;> rfl

/-! ## Reads after updates -/

@[simp] theorem State.core_setCore (s : State) (n : Nat) (c : Core) : (s.setCore n c).core n = c := by
  simp [State.core, State.setCore]

theorem State.core_setCore_ne (s : State) {n m : Nat} (c : Core) (h : m ≠ n) : (s.setCore n c).core m = s.core m := by
  simp [State.core, State.setCore, Bank.find_put_ne _ _ h]

@[simp] theorem State.core_mapCore (s : State) (n : Nat) (f : Core → Core) : (s.mapCore n f).core n = f (s.core n) := by
  simp [State.mapCore]

theorem State.core_mapCore_ne (s : State) {n m : Nat} (f : Core → Core) (h : m ≠ n) : (s.mapCore n f).core m = s.core m := by
  simp [State.mapCore, State.core_setCore_ne _ _ h]

@[simp] theorem State.core_setRing (s : State) (r n : Nat) (x : Ring) : (s.setRing r x).core n = s.core n := rfl
@[simp] theorem State.core_mapRing (s : State) (r n : Nat) (f : Ring → Ring) : (s.mapRing r f).core n = s.core n := rfl
@[simp] theorem State.core_post (s : State) (i : Instr) (n : Nat) : (s.post i).core n = s.core n := rfl
@[simp] theorem State.core_take (s : State) (i : Instr) (n : Nat) : (s.take i).core n = s.core n := rfl

@[simp] theorem State.ring_setRing (s : State) (r : Nat) (x : Ring) : (s.setRing r x).ring r = x := by
  simp [State.ring, State.setRing]

theorem State.ring_setRing_ne (s : State) {r q : Nat} (x : Ring) (h : q ≠ r) : (s.setRing r x).ring q = s.ring q := by
  simp [State.ring, State.setRing, Bank.get_put_ne _ _ _ h]

@[simp] theorem State.ring_mapRing (s : State) (r : Nat) (f : Ring → Ring) : (s.mapRing r f).ring r = f (s.ring r) := by
  simp [State.mapRing]

@[simp] theorem State.ring_setCore (s : State) (n r : Nat) (c : Core) : (s.setCore n c).ring r = s.ring r := rfl
@[simp] theorem State.ring_mapCore (s : State) (n r : Nat) (f : Core → Core) : (s.mapCore n f).ring r = s.ring r := rfl
@[simp] theorem State.ring_setCtx (s : State) (x : Ctx) (r : Nat) : (s.setCtx x).ring r = s.ring r := rfl
@[simp] theorem State.ring_mapCtx (s : State) (f : Ctx → Ctx) (r : Nat) : (s.mapCtx f).ring r = s.ring r := rfl
@[simp] theorem State.ring_post (s : State) (i : Instr) (r : Nat) : (s.post i).ring r = s.ring r := rfl
@[simp] theorem State.ring_take (s : State) (i : Instr) (r : Nat) : (s.take i).ring r = s.ring r := rfl

@[simp] theorem Core.ctx_setCtx (c : Core) (h : Bool) (x : Ctx) : (c.setCtx h x).ctx h = x := by cases h <;> rfl

theorem Core.ctx_setCtx_ne (c : Core) {h g : Bool} (x : Ctx) (hg : g ≠ h) : (c.setCtx h x).ctx g = c.ctx g := by
  cases h <;> cases g <;> first | rfl | exact absurd rfl hg

@[simp] theorem Core.setCtx_setCtx (c : Core) (h : Bool) (x y : Ctx) : (c.setCtx h x).setCtx h y = c.setCtx h y := by
  cases h <;> rfl

@[simp] theorem State.me_setCtx (s : State) (x : Ctx) : (s.setCtx x).me = s.me.setCtx s.curH x := by
  simp [State.me, State.setCtx]

@[simp] theorem State.ctx_setCtx (s : State) (x : Ctx) : (s.setCtx x).ctx = x := by
  simp [State.ctx]

@[simp] theorem State.ctx_mapCtx (s : State) (f : Ctx → Ctx) : (s.mapCtx f).ctx = f s.ctx := by
  simp [State.mapCtx]

theorem State.core_setCtx_ne (s : State) (x : Ctx) {n : Nat} (h : n ≠ s.cur) : (s.setCtx x).core n = s.core n :=
  State.core_mapCore_ne s _ h

@[simp] theorem Bank.put_put {α : Type} (b : Bank α) (k : Nat) (v w : α) :
    Bank.put (Bank.put b k v) k w = Bank.put b k w := by
  induction b with
  | nil => simp [Bank.put]
  | cons e t ih =>
    obtain ⟨j, u⟩ := e
    simp only [Bank.put]
    split
    · simp [Bank.put]
    · split
      · next h => simp [Bank.put, h]
      · next h1 h2 => simp [Bank.put, h1, h2, ih]

@[simp] theorem State.setCore_setCore (s : State) (n : Nat) (c d : Core) : (s.setCore n c).setCore n d = s.setCore n d := by
  simp [State.setCore]

@[simp] theorem State.setCtx_setCtx (s : State) (x y : Ctx) : (s.setCtx x).setCtx y = s.setCtx y := by
  simp only [State.setCtx, State.mapCore]
  simp

@[simp] theorem Ctx.x_zero (c : Ctx) : c.x 0 = 0 := rfl

/-- A register holds what was written to it; s0 reads as zero (R10). -/
theorem Ctx.x_setX (c : Ctx) (r : SReg) (v : Word) : (c.setX r v).x r = if r = 0 then 0 else v := by
  unfold Ctx.setX Ctx.x
  split <;> simp_all

/-- A write leaves every other register as it was. -/
theorem Ctx.x_setX_ne (c : Ctx) {r q : SReg} (v : Word) (h : q ≠ r) : (c.setX r v).x q = c.x q := by
  unfold Ctx.setX Ctx.x
  split
  · rfl
  · split
    · rfl
    · exact Bank.get_set_ne _ _ _ (fun e => h (BitVec.eq_of_toNat_eq e))

@[simp] theorem Ctx.x_fresh (c : Ctx) (r : SReg) : c.fresh.x r = c.x r := rfl
@[simp] theorem Ctx.x_retire (c : Ctx) (len : Word) (r : SReg) : (c.retire len).x r = c.x r := by simp [Ctx.x]
@[simp] theorem Ctx.x_jump (c : Ctx) (a : Word) (r : SReg) : (c.jump a).x r = c.x r := rfl

theorem Ctx.vr_setV (c : Ctx) (n : VReg) (x : BitVec 4096) : (c.setV n x).vr n = x := by simp [Ctx.vr, Ctx.setV]

theorem Ctx.vr_setV_ne (c : Ctx) {n m : VReg} (x : BitVec 4096) (h : m ≠ n) : (c.setV n x).vr m = c.vr m :=
  Bank.get_set_ne _ _ _ (fun e => h (BitVec.eq_of_toNat_eq e))

theorem Ctx.pr_setP (c : Ctx) (n : PReg) (x : BitVec 1024) : (c.setP n x).pr n = x := by simp [Ctx.pr, Ctx.setP]

theorem Ctx.pr_setP_ne (c : Ctx) {n m : PReg} (x : BitVec 1024) (h : m ≠ n) : (c.setP n x).pr m = c.pr m :=
  Bank.get_set_ne _ _ _ (fun e => h (BitVec.eq_of_toNat_eq e))

end Sys2Proof.Machine
end

