-- ==== Sys2Proof/Laws/Ops.lean ====
section
/-! SUPPORT. What the shared operations do, one lemma for each: the meanings' early ends, the context-local
instructions, and the byte reads that an update of registers leaves alone. -/

namespace Sys2Proof.Machine
open Sys2Proof

/-! ## Meanings as computations -/

/-- A meaning never stops the machine: it completes, traps, holds its cause or waits, and each is a next state. -/
theorem finish_next (m : M Unit) (s : State) : ∃ t, finish m s = .next t := by
  unfold finish
  split <;> exact ⟨_, rfl⟩

theorem finish_of_ok {m : M Unit} {s t : State} (h : m s = .ok ((), t)) : finish m s = .next t := by
  simp [finish, h]

theorem finish_of_error {m : M Unit} {s t : State} (h : m s = .error t) : finish m s = .next t := by
  simp [finish, h]

@[simp] theorem M.bind_run {α β : Type} (m : M α) (f : α → M β) (s : State) :
    (m >>= f) s = match m s with | .ok (a, t) => f a t | .error t => .error t := by
  show (StateT.bind m f) s = _
  unfold StateT.bind
  show (Except.bind _ _) = _
  cases h : m s with
  | ok p => rfl
  | error t => rfl

@[simp] theorem M.pure_run {α : Type} (a : α) (s : State) : (pure a : M α) s = .ok (a, s) := rfl

theorem M.map_run {α β : Type} (m : M α) (f : α → β) (s : State) :
    (f <$> m) s = match m s with | .ok (a, t) => .ok (f a, t) | .error t => .error t := by
  show (StateT.map f m) s = _
  unfold StateT.map
  show (Except.bind _ _) = _
  cases h : m s with
  | ok p => rfl
  | error t => rfl

@[simp] theorem getCtx_run (s : State) : getCtx s = .ok (s.ctx, s) := rfl
@[simp] theorem getState_run (s : State) : getState s = .ok (s, s) := rfl
@[simp] theorem modCtx_run (f : Ctx → Ctx) (s : State) : modCtx f s = .ok ((), s.mapCtx f) := rfl
@[simp] theorem modCore_run (f : Core → Core) (s : State) : modCore f s = .ok ((), s.mapCore s.cur f) := rfl
@[simp] theorem modState_run (f : State → State) (s : State) : modState f s = .ok ((), f s) := rfl
@[simp] theorem readX_run (r : SReg) (s : State) : readX r s = .ok (s.ctx.x r, s) := rfl
@[simp] theorem writeX_run (r : SReg) (v : Word) (s : State) : writeX r v s = .ok ((), s.mapCtx (fun c => c.setX r v)) := rfl
@[simp] theorem retire_run (len : Word) (s : State) :
    retire len s = .ok ((), s.mapCtx (fun c => c.fresh.retire len)) := rfl
@[simp] theorem raise_run {α : Type} (c : Cause) (v : Word) (s : State) :
    (raise c v : M α) s = .error (s.raise c v false) := rfl
@[simp] theorem raiseHere_run {α : Type} (c : Cause) (s : State) :
    (raiseHere c : M α) s = .error (s.raise c s.ctx.pc false) := rfl
@[simp] theorem stall_run {α : Type} (s : State) :
    (stall : M α) s = .error (s.mapCtx (fun c => { c with issued := true })) := rfl
@[simp] theorem endIn_run {α : Type} (t s : State) : (endIn t : M α) s = .error t := rfl
@[simp] theorem require_true (c : Cause) (s : State) : require true c s = .ok ((), s) := rfl
@[simp] theorem require_false (c : Cause) (s : State) : require false c s = .error (s.raise c s.ctx.pc false) := rfl

theorem needS_run (s : State) :
    needS s = if s.atS then .ok ((), s) else .error (s.raise .privilege s.ctx.pc false) := rfl
theorem notHandler_run (s : State) :
    notHandler s = if s.curH then .error (s.raise .handlerBlocking s.ctx.pc false) else .ok ((), s) := rfl
theorem loopHazard_run (s : State) :
    loopHazard s = if s.ctx.atLoopEnd then .error (s.raise .loopEndHazard s.ctx.pc false) else .ok ((), s) := rfl

/-- An agent that is no speculative chunk does not wait for the Ensign (R187, R225). -/
theorem awaitEnsign_of_not_speculative {s : State} (h : s.speculative = false) : awaitEnsign s = .ok ((), s) := by
  unfold awaitEnsign
  unfold State.speculative at h
  split
  · rfl
  · next c hc => simp_all

/-! ## Bytes and the current context -/

theorem scratch_setCtx (s : State) (x : Ctx) (n : Nat) : ((s.setCtx x).core n).scratch = (s.core n).scratch := by
  by_cases h : n = s.cur
  · subst h; simp [State.setCtx]
  · rw [State.core_setCtx_ne s x h]

/-- A change of the current context changes no byte of memory. -/
theorem byteAt_setCtx (s : State) (x : Ctx) (l : Loc) : (s.setCtx x).byteAt l = s.byteAt l := by
  cases l with
  | hbm pa => rfl
  | scratch n off => simp only [State.byteAt, scratch_setCtx]
  | host a => rfl
  | peer p o => rfl

theorem onlyContext_setCtx (s : State) (x : Ctx) : OnlyContext s (s.setCtx x) :=
  ⟨by simp, byteAt_setCtx s x⟩

theorem onlyContext_mapCtx (s : State) (f : Ctx → Ctx) : OnlyContext s (s.mapCtx f) := onlyContext_setCtx s _

/-! ## Context-local instructions -/

theorem Ctx.retire_eq (c : Ctx) (len : Word) :
    c.retire len = { c with pc := (c.retire len).pc, loops := (c.retire len).loops } := by
  unfold Ctx.retire
  repeat (first | rfl | split)

theorem Ctx.setX_eq (c : Ctx) (r : SReg) (v : Word) : c.setX r v = { c with s := (c.setX r v).s } := by
  unfold Ctx.setX
  split <;> rfl

theorem Ctx.retire_pc_congr (c d : Ctx) (len : Word) (hp : d.pc = c.pc) (hl : d.loops = c.loops) :
    (d.retire len).pc = (c.retire len).pc ∧ (d.retire len).loops = (c.retire len).loops := by
  unfold Ctx.retire
  rw [hp, hl]
  repeat (first | exact ⟨rfl, rfl⟩ | split)

theorem Ctx.fresh_retire (c : Ctx) (len : Word) : c.fresh.retire len = (c.retire len).fresh := by
  have h := Ctx.retire_pc_congr c c.fresh len rfl rfl
  rw [Ctx.retire_eq c.fresh len, h.1, h.2]
  conv => rhs; rw [Ctx.retire_eq c len]
  rfl

/-- An instruction that writes a scalar register, flags and SEED, and completes. -/
theorem plain_writesX (s : State) (len : Word) (rd : SReg) (v : Word) (fl : Flags) (seed : BitVec 32) (f : Ctx → Ctx)
    (hf : f s.ctx = { s.ctx.setX rd v with fflags := s.ctx.fflags ||| fl, seed := seed }) :
    ∃ t, s.plain len f = .next t ∧ WritesX s t rd v fl seed len := by
  refine ⟨_, rfl, ?_, ?_, ?_, onlyContext_mapCtx _ _⟩
  · simp only [State.ctx_mapCtx, hf, Ctx.x_retire, Ctx.x_fresh]
    exact Ctx.x_setX s.ctx rd v
  · intro r hr
    simp only [State.ctx_mapCtx, hf, Ctx.x_retire, Ctx.x_fresh]
    exact Ctx.x_setX_ne s.ctx v hr
  · simp only [State.ctx_mapCtx, hf]
    have h := Ctx.retire_pc_congr s.ctx { s.ctx.setX rd v with fflags := s.ctx.fflags ||| fl, seed := seed } len
      (by simp) (by simp)
    rw [Ctx.fresh_retire, Ctx.retire_eq, h.1, h.2]
    simp only [Ctx.fresh]
    rw [Ctx.setX_eq]

/-- An instruction that writes a condition bit and flags, and completes. -/
theorem plain_writesK (s : State) (kd : KReg) (b : Bool) (fl : Flags) (f : Ctx → Ctx)
    (hf : f s.ctx = { s.ctx.setK kd b with fflags := s.ctx.fflags ||| fl }) :
    ∃ t, s.plain 4 f = .next t ∧ WritesK s t kd b fl := by
  refine ⟨_, rfl, ?_, ?_, ?_, onlyContext_mapCtx _ _⟩
  · simp only [State.ctx_mapCtx, hf, Ctx.kb, Ctx.retire_k, Ctx.fresh_k, Ctx.setK, putBit]
    have hlt : kd.toNat < 8 := kd.isLt
    split <;> simp_all
  · intro n hn
    have hne' : ¬ n.toNat = kd.toNat := fun e => hn (BitVec.eq_of_toNat_eq e)
    simp only [State.ctx_mapCtx, hf, Ctx.kb, Ctx.retire_k, Ctx.fresh_k, Ctx.setK, putBit]
    have hlt : n.toNat < 8 := n.isLt
    split <;> simp [hne', hlt]
  · simp only [State.ctx_mapCtx, hf]
    have h := Ctx.retire_pc_congr s.ctx { s.ctx.setK kd b with fflags := s.ctx.fflags ||| fl } 4 rfl rfl
    rw [Ctx.fresh_retire, Ctx.retire_eq, h.1, h.2]
    simp only [Ctx.fresh, Ctx.setK]

end Sys2Proof.Machine
end

