-- ==== Sys2Proof/Laws/Memory.lean ====
section
/-! SUPPORT. The byte operations of memory: what reading and writing runs of bytes does to each byte, and that every
write keeps the canonical form. -/

namespace Sys2Proof.Machine
open Sys2Proof

/-! ## Reading -/

theorem readBytes_lt (b : Bank Byte) (a n : Nat) : readBytes b a n < 256 ^ n := by
  induction n generalizing a with
  | zero => simp [readBytes]
  | succ n ih =>
    have h1 := ih (a + 1)
    have h2 := (Bank.get 0 b a).isLt
    rw [readBytes, Nat.pow_succ]
    omega

/-- Byte `i` of a run of bytes. -/
theorem readBytes_byte (b : Bank Byte) (a n : Nat) {i : Nat} (h : i < n) :
    readBytes b a n / 256 ^ i % 256 = (Bank.get 0 b (a + i)).toNat := by
  induction n generalizing a i with
  | zero => omega
  | succ n ih =>
    have h2 := (Bank.get 0 b a).isLt
    cases i with
    | zero => rw [readBytes]; simp only [Nat.pow_zero, Nat.div_one, Nat.add_zero]; omega
    | succ i =>
      have hd : readBytes b a (n + 1) / 256 = readBytes b (a + 1) n := by rw [readBytes]; omega
      rw [Nat.pow_succ, Nat.mul_comm, ← Nat.div_div_eq_div_mul, hd, ih (a + 1) (by omega)]
      congr 2
      omega

/-- A part of a run of bytes is the run of that part. -/
theorem readBytes_part (b : Bank Byte) (a n : Nat) {i k : Nat} (h : i + k ≤ n) :
    readBytes b a n / 256 ^ i % 256 ^ k = readBytes b (a + i) k := by
  induction k generalizing i with
  | zero => simp [readBytes, Nat.mod_one]
  | succ k ih =>
    have h1 := readBytes_byte b a n (i := i) (by omega)
    have h2 := ih (i := i + 1) (by omega)
    rw [readBytes, ← h1, Nat.add_assoc, ← h2, Nat.pow_succ (n := 256) (m := k), Nat.mul_comm (256 ^ k) 256, Nat.mod_mul,
      Nat.div_div_eq_div_mul, ← Nat.pow_succ]

/-! ## Writing -/

theorem get_writeBytes (b : Bank Byte) (a n v k : Nat) :
    Bank.get 0 (writeBytes b a n v) k
      = if a ≤ k ∧ k < a + n then BitVec.ofNat 8 (v / 256 ^ (k - a)) else Bank.get 0 b k := by
  induction n generalizing b a v with
  | zero => rw [writeBytes, if_neg (by omega)]
  | succ n ih =>
    rw [writeBytes, ih]
    by_cases h : k = a
    · subst h
      rw [if_neg (by omega), if_pos (by omega), Nat.sub_self, Nat.pow_zero, Nat.div_one]
      simp
    · by_cases h2 : a + 1 ≤ k ∧ k < a + 1 + n
      · rw [if_pos h2, if_pos (by omega)]
        have : k - a = (k - (a + 1)) + 1 := by omega
        rw [this, Nat.pow_succ, Nat.mul_comm, ← Nat.div_div_eq_div_mul]
      · rw [if_neg h2, if_neg (by omega), Bank.get_set_ne _ _ _ h]

theorem get_writeMasked (b : Bank Byte) (a n v m k : Nat) :
    Bank.get 0 (writeMasked b a n v m) k
      = if a ≤ k ∧ k < a + n ∧ m / 2 ^ (k - a) % 2 = 1 then BitVec.ofNat 8 (v / 256 ^ (k - a)) else Bank.get 0 b k := by
  induction n generalizing b a v m with
  | zero => rw [writeMasked, if_neg (by omega)]
  | succ n ih =>
    rw [writeMasked, ih]
    by_cases h : k = a
    · subst h
      rw [if_neg (by omega)]
      simp only [Nat.sub_self, Nat.pow_zero, Nat.div_one]
      by_cases hm : m % 2 = 1
      · rw [if_pos hm, if_pos (by omega), Bank.get_set_self]
      · rw [if_neg hm, if_neg (by omega)]
    · have hg : Bank.get 0 (if m % 2 = 1 then Bank.set 0 b a (BitVec.ofNat 8 v) else b) k = Bank.get 0 b k := by
        split
        · exact Bank.get_set_ne _ _ _ h
        · rfl
      rw [hg]
      by_cases h2 : a + 1 ≤ k ∧ k < a + 1 + n
      · have : k - a = (k - (a + 1)) + 1 := by omega
        rw [this, Nat.pow_succ, Nat.pow_succ, Nat.mul_comm _ 2, Nat.mul_comm _ 256, ← Nat.div_div_eq_div_mul,
          ← Nat.div_div_eq_div_mul]
        by_cases h3 : m / 2 / 2 ^ (k - (a + 1)) % 2 = 1
        · rw [if_pos ⟨h2.1, h2.2, h3⟩, if_pos ⟨by omega, by omega, h3⟩]
        · rw [if_neg (by omega), if_neg (by omega)]
      · rw [if_neg (by omega), if_neg (by omega)]

theorem wf_writeBytes (b : Bank Byte) (a n v : Nat) (h : Bank.wf 0 b = true) : Bank.wf 0 (writeBytes b a n v) = true := by
  induction n generalizing b a v with
  | zero => exact h
  | succ n ih => exact ih _ _ _ (Bank.wf_set _ _ _ _ h)

theorem wf_writeMasked (b : Bank Byte) (a n v m : Nat) (h : Bank.wf 0 b = true) :
    Bank.wf 0 (writeMasked b a n v m) = true := by
  induction n generalizing b a v m with
  | zero => exact h
  | succ n ih =>
    rw [writeMasked]
    split
    · exact ih _ _ _ _ (Bank.wf_set _ _ _ _ h)
    · exact ih _ _ _ _ h

/-- A mask of `n` bits from bit `lo`. -/
theorem maskBits_bit (lo n k : Nat) : maskBits lo n / 2 ^ k % 2 = if lo ≤ k ∧ k < lo + n then 1 else 0 := by
  have h : maskBits lo n / 2 ^ k % 2 = (((2 ^ n - 1) <<< lo).testBit k).toNat := by
    rw [maskBits, Nat.shiftLeft_eq, Nat.toNat_testBit]
  rw [h, Nat.testBit_shiftLeft, Nat.testBit_two_pow_sub_one]
  by_cases h1 : lo ≤ k
  · by_cases h2 : k < lo + n
    · rw [if_pos ⟨h1, h2⟩]; simp [h1]; omega
    · rw [if_neg (by omega)]; simp [h1]; omega
  · rw [if_neg (by omega)]; simp [h1]

end Sys2Proof.Machine
end

