-- ==== Sys2Proof/Laws/Access.lean ====
section
/-! SUPPORT. What the parts of a scalar access of the own scratchpad do: the target its address names, the stamp of an sc
operation, the read of a line and the write of its bytes. -/

namespace Sys2Proof.Machine
open Sys2Proof

@[simp] theorem M.ite_run {α : Type} (p : Prop) [Decidable p] (a b : M α) (s : State) :
    (if p then a else b) s = if p then a s else b s := by split <;> rfl

@[simp] theorem State.me_mapCore (s : State) (f : Core → Core) : (s.mapCore s.cur f).me = f s.me := by
  simp [State.me]

/-- The chunk of a context lies in its ring, not in its core. -/
theorem State.chunk_congr {s t : State} (hc : t.cur = s.cur) (hh : t.curH = s.curH) (hr : t.rings = s.rings) :
    t.chunk = s.chunk := by
  simp [State.chunk, State.chunkOn, State.ring, hc, hh, hr]

theorem State.speculative_congr {s t : State} (hc : t.cur = s.cur) (hh : t.curH = s.curH) (hr : t.rings = s.rings) :
    t.speculative = s.speculative := by
  simp [State.speculative, State.chunk_congr hc hh hr]

/-- An own-scratchpad address (Tables 2.5 and 12.1) names its window and offset. -/
theorem untranslated_own {s : State} {ea : Word} {w off : Nat} (h : s.ownPlace ea w off) :
    untranslated s.cur ea.toNat = some (.ok (.own w off)) := by
  obtain ⟨h1, h2, h3, h4, h5⟩ := h
  simp only [Config.scratchBytes, Config.ownScratch] at h4 h5
  unfold untranslated
  simp only [Config.untranslated, Config.globalScratchEnd, Config.ownScratch, Config.ownScratchEnd, Config.scratchBytes, h5]
  rw [if_neg (by omega), if_neg (by omega), if_pos (by omega), if_pos h1]
  have e1 : (0xFFFFFF0000000000 + w * 0x100000 + off - 0xFFFFFF0000000000) % 0x100000 = off := by omega
  have e2 : (0xFFFFFF0000000000 + w * 0x100000 + off - 0xFFFFFF0000000000) % 0x800000 / 0x100000 = w := by omega
  simp only [e1, e2]
  rw [if_neg (by omega)]; simp

/-- The state after an access that touched the current core without changing it. -/
def State.touch (s : State) : State := s.mapCore s.cur id

/-- An access of an untranslated address makes no walk. -/
theorem meetWalk_untranslated (s : State) (n : Nat) (tlb : List TlbEntry) (asid ptbase : Nat) {va : Nat}
    (h : Config.untranslated ≤ va) : s.meetWalk n tlb asid ptbase va = s := by
  simp [State.meetWalk, State.walks, Nat.not_lt.mpr h]

theorem target_own {s : State} {ea : Word} {w off : Nat} (a : Access) (h : s.ownPlace ea w off) :
    target a ea s = .ok (.own w off, s.touch) := by
  have hu : Config.untranslated ≤ ea.toNat := by
    obtain ⟨-, -, -, -, h5⟩ := h
    rw [h5]; simp only [Config.untranslated, Config.ownScratch]; omega
  simp only [target, resolve, meetWalk_untranslated _ _ _ _ _ hu, resolveAt, untranslated_own h, M.bind_run, orRaise]
  cases s.me.fenced <;> rfl

@[simp] theorem acquire_run (s : State) : acquire s = .ok ((), s.mapCore s.cur Core.acquire) := rfl

/-- The stamp of an operation that is not sc takes nothing. -/
theorem stampSc_other {ord : BitVec 2} (h : ord ≠ ordSc) (s : State) : stampSc ord s = .ok ((), s) := by
  simp [stampSc, h]

/-- With no error of a memory to meet, a read meets none (R377). -/
theorem State.meet_none {s : State} (h : s.bitErrors = []) (f : Loc → Bool) : s.meet f = s := by simp [State.meet, h]

/-- A read of an unlocked line of the own scratchpad by an agent that is no speculative chunk (R102, R222, R270). -/
theorem readLine_own {s : State} (h : s.speculative = false) (he : s.bitErrors = []) (n line : Nat)
    (hk : s.lockedBy (.scratch n line) none = false) :
    readLine (.scratch n line) s =
      .ok (s.me.scratchLine line, s.mapCore s.cur (fun c =>
        c.grantScratch line (s.me.leaseEnd (Bank.get 0 s.me.scratchRts line)) (Bank.get 0 s.me.scratchWts line))) := by
  unfold readLine
  rw [h]
  simp only [Bool.false_eq_true, if_false, M.bind_run, leaseRead, hk, State.meet_none he, M.pure_run]

/-- `n` bytes of the own scratchpad that lie in one line without poison. -/
theorem loadLine_own {s : State} (h : s.speculative = false) (w off n : Nat) (ea : Word)
    (hl : off % 128 + n ≤ 128) (hp : s.cleanLine (off / 128))
    (hk : s.lockedBy (.scratch s.cur (off / 128)) none = false) :
    loadLine (.own w off) n ea s =
      .ok (readBytes s.me.scratch off n, s.mapCore s.cur (fun c =>
        c.grantScratch (off / 128) (s.me.leaseEnd (Bank.get 0 s.me.scratchRts (off / 128))) (Bank.get 0 s.me.scratchWts (off / 128)))) := by
  have hz : ∀ (b : Bank Bool) (line k : Nat), (∀ g < k, Bank.get false b (line * 8 + g) = false) → linePoison b line k = 0 := by
    intro b line k hb
    induction k with
    | zero => rfl
    | succ k ih => rw [linePoison, ih (fun g hg => hb g (by omega)), hb k (by omega)]; rfl
  have hq : ∀ t : State, t.cur = s.cur → t.curH = s.curH → t.rings = s.rings → t.me.scratchPoison = s.me.scratchPoison →
      t.readPoisoned (.scratch s.cur (off / 128)) (off % 128) n = false := by
    intro t h1 h2 h3 h4
    have hs : t.speculative = false := (State.speculative_congr h1 h2 h3).trans h
    have hr : t.readPoison (.scratch s.cur (off / 128)) = 0 := by
      have hp' : linePoison (t.core s.cur).scratchPoison (off / 128) 8 = 0 := by
        have : t.core s.cur = t.me := by simp [State.me, h1]
        rw [this, h4]; exact hz _ _ _ hp.2
      unfold State.readPoison
      unfold State.speculative at hs
      cases hc : t.chunk with
      | none => simp [hp', State.committedPoison]
      | some c => rw [hc] at hs; simp only at hs; simp [hs, hp', State.committedPoison]
    simp [State.readPoisoned, hr, touchesPoison]
  have hb : bits (s.me.scratchLine (off / 128)).toNat (8 * (off % 128)) (8 * n) = readBytes s.me.scratch off n := by
    have h1 := readBytes_lt s.me.scratch (off / 128 * 128) 128
    have h2 : (256 : Nat) ^ 128 = 2 ^ 1024 := by decide +kernel
    rw [Core.scratchLine, BitVec.toNat_ofNat, Nat.mod_eq_of_lt (by rw [← h2]; exact h1), bits, Nat.pow_mul, Nat.pow_mul]
    have h3 := readBytes_part s.me.scratch (off / 128 * 128) 128 (i := off % 128) (k := n) hl
    have h4 : off / 128 * 128 + off % 128 = off := by omega
    rw [h4] at h3
    exact h3
  let g := s.mapCore s.cur (fun c =>
    c.grantScratch (off / 128) (s.me.leaseEnd (Bank.get 0 s.me.scratchRts (off / 128))) (Bank.get 0 s.me.scratchWts (off / 128)))
  have hr : readLine (Target.line s.cur (.own w off)) s = .ok (s.me.scratchLine (off / 128), g) := readLine_own h hp.1 _ _ hk
  have hx : g.readPoisoned (Target.line s.cur (.own w off)) (Target.within (.own w off)) n = false :=
    hq g rfl rfl rfl (by simp [g, Core.grantScratch])
  have hw : bits (s.me.scratchLine (off / 128)).toNat (8 * Target.within (.own w off)) (8 * n) = readBytes s.me.scratch off n := hb
  simp only [loadLine, loadFrom, M.bind_run, getState_run, hr, M.ite_run, hx, Bool.false_eq_true, if_false, M.pure_run, hw, g]

end Sys2Proof.Machine
end

