-- ==== Sys2Proof/Tests/Slice0.lean ====
section
/-! SUPPORT. Tests. Expected results come from the manual's tables and worked examples or from hand calculation with its
rules; the words of the decoding tests are composed from the encoding tables. Every statement with premises has here a
state and operands that meet them all. -/

namespace Sys2Proof.Tests
open Sys2Proof Sys2Proof.Machine

set_option Elab.async false

/-! ## Decoding -/

/-- Each word, of the given number of bits, decodes to the instruction it stands for. -/
noncomputable def decodesTo (l : List (Nat × Nat × Instr)) : Bool := l.all (fun x => decide (decodeTableWord x.1 x.2.1 = some x.2.2))

theorem test_words_1 : decodesTo [
    (32, 0x9560C1A5, .add true 41 37 22), (32, 0x9561C1A5, .sub true 41 37 22), (32, 0x9562C1A5, .and true 41 37 22),
    (32, 0x9563C1A5, .or true 41 37 22), (32, 0x9564C1A5, .xor true 41 37 22), (32, 0x9565C1A5, .andn true 41 37 22),
    (32, 0x9566C1A5, .sll true 41 37 22), (32, 0x9567C1A5, .srl true 41 37 22), (32, 0x9568C1A5, .sra true 41 37 22),
    (32, 0x9569C1A5, .rol true 41 37 22), (32, 0x956AC1A5, .min true 41 37 22), (32, 0x956BC1A5, .max true 41 37 22),
    (32, 0x956CC1A5, .minu true 41 37 22), (32, 0x956DC1A5, .maxu true 41 37 22), (32, 0x9560C2A5, .mul true 41 37 22),
    (32, 0x9561C2A5, .mulh true 41 37 22), (32, 0x9562C2A5, .mulhu true 41 37 22), (32, 0x9563C2A5, .mulhsu true 41 37 22),
    (32, 0x9564C2A5, .div true 41 37 22), (32, 0x9565C2A5, .divu true 41 37 22), (32, 0x9566C2A5, .rem true 41 37 22),
    (32, 0x9567C2A5, .remu true 41 37 22), (32, 0x9400C3A5, .clz true 41 37), (32, 0x9401C3A5, .ctz true 41 37),
    (32, 0x9402C3A5, .popc true 41 37), (32, 0x9403C3A5, .rev8 true 41 37)] = true := by decide +kernel

theorem test_words_2 : decodesTo [
    (32, 0x9495C4A5, .bfxu 41 37 9 21), (32, 0x9495C5A5, .bfxs 41 37 9 21), (32, 0x9495C6A5, .bfi 41 37 9 21),
    (32, 0x95D0C7A5, .slli true 41 37 29), (32, 0x95D1C7A5, .srli true 41 37 29), (32, 0x95D2C7A5, .srai true 41 37 29),
    (32, 0x95D3C7A5, .rori true 41 37 29), (32, 0x9569C8A5, .addi 41 37 1445), (32, 0x9569C9A5, .andi 41 37 1445),
    (32, 0x9569CAA5, .ori 41 37 1445), (32, 0x9569CBA5, .xori 41 37 1445), (32, 0x169CCA5, .li 41 1445),
    (32, 0x169CDA5, .lih 41 1445), (32, 0x169CEA5, .leaPc 41 1445), (32, 0x9560CFA5, .lea 1 41 37 22),
    (32, 0x9560D015, .keq true 5 37 22), (32, 0x9561D015, .kne true 5 37 22), (32, 0x9562D015, .klt true 5 37 22),
    (32, 0x9563D015, .kge true 5 37 22), (32, 0x9564D015, .kltu true 5 37 22), (32, 0x9565D015, .kgeu true 5 37 22),
    (32, 0x438D014, .kand 5 1 3), (32, 0x439D014, .kor 5 1 3), (32, 0x43AD014, .kxor 5 1 3),
    (32, 0x940BD014, .kset 5 37), (32, 0x9565D1A4, .sel 41 5 37 22)] = true := by decide +kernel

theorem test_words_3 : decodesTo [
    (32, 0x9560D2A5, .fadd true 41 37 22), (32, 0x9561D2A5, .fsub true 41 37 22), (32, 0x9562D2A5, .fmul true 41 37 22),
    (32, 0x9563D2A5, .fdiv true 41 37 22), (32, 0x9404D2A5, .fsqrt true 41 37), (32, 0x9565D2A5, .fmin true 41 37 22),
    (32, 0x9566D2A5, .fmax true 41 37 22), (32, 0x9567D2A5, .fmacc true 41 37 22), (32, 0x9568D2A5, .fmsac true 41 37 22),
    (32, 0x9409D2A5, .fneg true 41 37), (32, 0x940AD2A5, .fabs true 41 37), (32, 0x9560D315, .kfeq true 5 37 22),
    (32, 0x9561D315, .kflt true 5 37 22), (32, 0x9562D315, .kfle true 5 37 22), (32, 0x9563D315, .kfun true 5 37 22),
    (32, 0x9430D4A4, .fcvtSD 3 41 37), (32, 0x9471D4A4, .fcvtDS 41 37), (32, 0x9432D4A5, .fcvtLF true 3 41 37),
    (32, 0x9433D4A5, .fcvtLuF true 3 41 37), (32, 0x9434D4A5, .fcvtFL true 3 41 37), (32, 0x9435D4A5, .fcvtFLu true 3 41 37),
    (32, 0x9436D4A5, .fcvtWF true 3 41 37), (32, 0x9437D4A5, .fcvtFW true 3 41 37), (32, 0x9562D5D3, .beq 37 22 723),
    (32, 0x956AD5D3, .bne 37 22 723), (32, 0x9562D6D3, .blt 37 22 723)] = true := by decide +kernel

theorem test_words_4 : decodesTo [
    (32, 0x956AD6D3, .bge 37 22 723), (32, 0x9562D7D3, .bltu 37 22 723), (32, 0x956AD7D3, .bgeu 37 22 723),
    (32, 0xA002D8D3, .bkt 5 723), (32, 0xB002D8D3, .bkf 5 723), (32, 0xB4D9A7, .jal 41 723),
    (32, 0x9569DAA5, .jalr 41 37 1445), (32, 0x9402DBD3, .loop 37 723), (32, 0x322DCD3, .loopi 50 723),
    (32, 0x96D3DDB1, .ld 1 44 37 723), (32, 0x96D3DEB2, .ldu 2 44 37 723), (32, 0x96D3DFB1, .st 1 44 37 723),
    (32, 0x9577E0B2, .ldo 1 3 true 2 44 37 7), (32, 0x9667E1B3, .sto 2 3 3 44 37 7), (32, 0x9560E3A7, .amSwap true 3 41 37 22),
    (32, 0x9561E3A7, .amAdd true 3 41 37 22), (32, 0x9562E3A7, .amAnd true 3 41 37 22), (32, 0x9563E3A7, .amOr true 3 41 37 22),
    (32, 0x9564E3A7, .amXor true 3 41 37 22), (32, 0x9565E3A7, .amMin true 3 41 37 22), (32, 0x9566E3A7, .amMax true 3 41 37 22),
    (32, 0x9567E3A7, .amMinu true 3 41 37 22), (32, 0x9568E3A7, .amMaxu true 3 41 37 22), (32, 0x9569E3A7, .amCas true 3 41 37 22),
    (32, 0x9560E4A7, .farSwap true 41 37 22), (32, 0x9561E4A7, .farAdd true 41 37 22)] = true := by decide +kernel

theorem test_words_5 : decodesTo [
    (32, 0x9562E4A7, .farAnd true 41 37 22), (32, 0x9563E4A7, .farOr true 41 37 22), (32, 0x9564E4A7, .farXor true 41 37 22),
    (32, 0x9565E4A7, .farMin true 41 37 22), (32, 0x9566E4A7, .farMax true 41 37 22), (32, 0x9567E4A7, .farMinu true 41 37 22),
    (32, 0x9568E4A7, .farMaxu true 41 37 22), (32, 0x9569E4A7, .farCas true 41 37 22), (32, 0xB123E5B0, .yld 45347 44),
    (32, 0xB123E5B1, .yst 45347 44), (32, 0xB123E5B2, .yts 45347 44), (32, 0xB123E5B3, .yfad 45347 44),
    (32, 0xB123E6B0, .ybar 45347 44), (32, 0x9400E7A4, .yldX 41 37), (32, 0x9561E700, .ystX 37 22),
    (32, 0x9402E7A4, .ytsX 41 37), (32, 0x9563E7A4, .yfadX 41 37 22), (32, 0x9564E700, .ybarX 37 22),
    (32, 0x9565E700, .swait 37 22), (32, 0xF0E800, .fence 3 3), (32, 0x12C1E802, .fenceX 3 9 1),
    (32, 0x2E800, .vdrain), (32, 0x9404E9A4, .setvl 4 41 37), (32, 0x9C74E9A5, .setvli 4 41 2503),
    (32, 0x2D98EA4C, .vadd true 6 9 5 22), (32, 0x2D98EA4D, .vsub true 6 9 5 22)] = true := by decide +kernel

theorem test_words_6 : decodesTo [
    (32, 0x2D98EA4E, .vmul true 6 9 5 22), (32, 0x2D98EA4F, .vmulh true 6 9 5 22), (32, 0x2D99EA4C, .vand true 6 9 5 22),
    (32, 0x2D99EA4D, .vor true 6 9 5 22), (32, 0x2D99EA4E, .vxor true 6 9 5 22), (32, 0x2D99EA4F, .vsll true 6 9 5 22),
    (32, 0x2D9AEA4C, .vsrl true 6 9 5 22), (32, 0x2D9AEA4D, .vsra true 6 9 5 22), (32, 0x2D9AEA4E, .vmin true 6 9 5 22),
    (32, 0x2D9AEA4F, .vmax true 6 9 5 22), (32, 0x2D9BEA4C, .vminu true 6 9 5 22), (32, 0x2D9BEA4D, .vmaxu true 6 9 5 22),
    (32, 0x2D9BEA4E, .vsadd true 6 9 5 22), (32, 0x2D9BEA4F, .vssub true 6 9 5 22), (32, 0x2A6CEB4C, .vaddVx true 6 9 5 19),
    (32, 0x2A6CEB4D, .vsubVx true 6 9 5 19), (32, 0x2A6CEB4E, .vmulVx true 6 9 5 19), (32, 0x2A6CEB4F, .vandVx true 6 9 5 19),
    (32, 0x2A6DEB4C, .vsllVx true 6 9 5 19), (32, 0x2A6DEB4D, .vsrlVx true 6 9 5 19), (32, 0x2A6DEB4E, .vsraVx true 6 9 5 19),
    (32, 0x26DEB4F, .vmvVx true 6 9 19), (32, 0x2D98EC4C, .vfadd true 6 9 5 22), (32, 0x2D98EC4D, .vfsub true 6 9 5 22),
    (32, 0x2D98EC4E, .vfmul true 6 9 5 22), (32, 0x2D98EC4F, .vfdiv true 6 9 5 22)] = true := by decide +kernel

theorem test_words_7 : decodesTo [
    (32, 0x2D99EC4C, .vfmin true 6 9 5 22), (32, 0x2D99EC4D, .vfmax true 6 9 5 22), (32, 0x2D99EC4E, .vfmacc true 6 9 5 22),
    (32, 0x2D99EC4F, .vfmsac true 6 9 5 22), (32, 0x281AEC4C, .vfsqrt true 6 9 5), (32, 0x281AEC4D, .vfneg true 6 9 5),
    (32, 0x281AEC4E, .vfabs true 6 9 5), (32, 0x2A6CED4C, .vfaddVx true 6 9 5 19), (32, 0x2A6CED4D, .vfmulVx true 6 9 5 19),
    (32, 0x2A6CED4E, .vfmaccVx true 6 9 5 19), (32, 0x26CED4F, .vfmvVx true 6 9 19), (32, 0x2D9AEE4E, .vdeq true 2 true 6 9 5 22),
    (32, 0x2D9BEE4E, .vquant true 2 true 6 9 5 22), (32, 0x2D98EF94, .vwmacc true 6 9 5 22), (32, 0x2D98EF95, .vwmaccu true 6 9 5 22),
    (32, 0x2D98EF96, .vwmaccsu true 6 9 5 22), (32, 0x2D98EF97, .vfwmacc true 6 9 5 22), (32, 0x2D99EF94, .vbfwmacc true 6 9 5 22),
    (32, 0x2D99EF95, .vwmul true 6 9 5 22), (32, 0x2D99EF96, .vwmulu true 6 9 5 22), (32, 0x2D99EF97, .vfwmul true 6 9 5 22),
    (32, 0x2818F04C, .vncvt true 6 9 5), (32, 0x2818F04D, .vnclip true 6 9 5), (32, 0x2818F04E, .vnclipu true 6 9 5),
    (32, 0x28D8F04F, .vfcvt true 6 9 5 3), (32, 0x2819F04C, .vfcvtX true 6 9 5)] = true := by decide +kernel

theorem test_words_8 : decodesTo [
    (32, 0x28D9F04D, .vfcvtF true 6 9 5 3), (32, 0x2D98F14C, .vredsum true 6 9 5 22), (32, 0x2D98F14D, .vredmax true 6 9 5 22),
    (32, 0x2D98F14E, .vredmin true 6 9 5 22), (32, 0x2D98F14F, .vredmaxu true 6 9 5 22), (32, 0x2D99F14C, .vredminu true 6 9 5 22),
    (32, 0x2D99F14D, .vfredsumO true 6 9 5 22), (32, 0x2D99F14E, .vfredsumT true 6 9 5 22), (32, 0x2D99F14F, .vfredmax true 6 9 5 22),
    (32, 0x2D9AF14C, .vfredmin true 6 9 5 22), (32, 0x2D9AF14D, .vscan true 6 9 5 22), (32, 0x2D9AF14E, .vfscan true 6 9 5 22),
    (32, 0x2D98F24C, .vrgather true 6 9 5 22), (32, 0x2818F24D, .vcompress true 6 9 5), (32, 0x18F24E, .viota true 6 9),
    (32, 0x18F24F, .vid true 6 9), (32, 0x2A6CF34C, .vslideup true 6 9 5 19), (32, 0x2A6CF34D, .vslidedn true 6 9 5 19),
    (32, 0x2A6CF34E, .vslide1up true 6 9 5 19), (32, 0x2A6CF34F, .vslide1dn true 6 9 5 19), (32, 0x2A61F300, .vmvXs 19 5),
    (32, 0x261F349, .vmvSx 9 19), (32, 0x2818F44C, .vexp2 true 6 9 5), (32, 0x2818F44D, .vlog2 true 6 9 5),
    (32, 0x2818F44E, .vrcp true 6 9 5), (32, 0x2818F44F, .vrsqrt true 6 9 5)] = true := by decide +kernel

theorem test_words_9 : decodesTo [
    (32, 0x2819F44C, .vsin true 6 9 5), (32, 0x2819F44D, .vcos true 6 9 5), (32, 0x2819F44E, .vtanh true 6 9 5),
    (32, 0x2819F44F, .verf true 6 9 5), (32, 0x2D98F54C, .vmseq true 6 9 5 22), (32, 0x2D98F54D, .vmsne true 6 9 5 22),
    (32, 0x2D98F54E, .vmslt true 6 9 5 22), (32, 0x2D98F54F, .vmsle true 6 9 5 22), (32, 0x2D99F54C, .vmsltu true 6 9 5 22),
    (32, 0x2D99F54D, .vmsleu true 6 9 5 22), (32, 0x2D99F54E, .vmfeq true 6 9 5 22), (32, 0x2D99F54F, .vmflt true 6 9 5 22),
    (32, 0x2D9AF54C, .vmfle true 6 9 5 22), (32, 0x2D9AF54D, .vmfun true 6 9 5 22), (32, 0x5660F624, .pand 6 9 5 6),
    (32, 0x5661F624, .por 6 9 5 6), (32, 0x5662F624, .pxor 6 9 5 6), (32, 0x5663F624, .pandn 6 9 5 6),
    (32, 0x5064F624, .pnot 6 9 5), (32, 0x5065F624, .pcut 6 9 5), (32, 0x5066F6A4, .pfind 6 41 5),
    (32, 0x5067F6A4, .ppopc 6 41 5), (32, 0x9068F64C, .psetn 6 9 19), (32, 0x5069F614, .pany 6 5 5),
    (32, 0x9436F74C, .vld true 6 9 37 3), (32, 0x9536F74D, .vlds true 6 9 37 19)] = true := by decide +kernel

theorem test_words_10 : decodesTo [
    (32, 0x9456F74E, .vldx true 6 9 37 5), (32, 0x9436F74F, .vldff true 6 9 37 3), (32, 0x9436F84C, .vst true 6 9 37 3),
    (32, 0x9536F84D, .vsts true 6 9 37 19), (32, 0x9456F84E, .vstx true 6 9 37 5), (32, 0x9436F84F, .vstr true 6 9 37 3),
    (32, 0x9406F94C, .vldbc true 6 9 37), (32, 0x9530F949, .vldsr 9 37 19), (32, 0x9560FA00, .mld 37 22),
    (32, 0x1FA00, .mswp), (32, 0x9562FAC8, .mma 50 37 22), (32, 0x9563FAC8, .mmas 50 37 22),
    (32, 0x9564FAC8, .mqma 50 37 22), (32, 0x9565FAC8, .mmrot 50 37 22), (32, 0x166FAC8, .mzero 50 22),
    (32, 0x9407FA00, .mcfg 37), (32, 0x9470FB01, .cpyset 1 7 37), (32, 0x94F0FB01, .ack 1 37),
    (32, 0x1FBA5, .cpygo 1 41), (32, 0x2FBA5, .cpyst 1 41), (32, 0x9403FB01, .cpywait 1 37),
    (32, 0x9404FBA5, .cpymm 1 41 37), (32, 0x9400FC00, .fork 37), (32, 0x9401FC00, .forka 37),
    (32, 0x2FC00, .cend), (32, 0x3FC00, .join)] = true := by decide +kernel

theorem test_words_11 : decodesTo [
    (32, 0x54FC00, .fwd 5), (32, 0x5FC00, .nspec), (32, 0x9566FCA4, .frz 41 37 22),
    (32, 0x9407FCA4, .thaw 41 37), (32, 0x9408FCA4, .thawq 41 37), (32, 0x9409FC2C, .seqld 11 37),
    (32, 0x940AFC2C, .seqst 11 37), (32, 0x9560FD00, .send 37 22), (32, 0x9561FD2C, .sendv 37 11 22),
    (32, 0x9562FD00, .reply 37 22), (32, 0x9563FD00, .hbind 37 22), (32, 0x4FD00, .hend),
    (32, 0xD0FEA4, .sysrd 13 41), (32, 0xD1FE4C, .syswr 13 19), (32, 0x5A52FE00, .trap 1445),
    (32, 0x3FE00, .eret), (32, 0x5A54FE00, .brk 1445), (32, 0x5FE00, .halt),
    (32, 0x6FE00, .nop), (32, 0x7FE4C, .tlbinvPage 19), (32, 0x17FE4C, .tlbinvAsid 19),
    (32, 0x27FE4C, .tlbinvAll 19), (32, 0x8FE4C, .stop 19), (32, 0x9FE4C, .cclean 19),
    (32, 0xAFE4C, .cinv 19), (32, 0xBFE00, .iinv)] = true := by decide +kernel

theorem test_words_12 : decodesTo [
    (16, 0x295, .cAddi 41 5), (16, 0x695, .cLi 41 5), (16, 0xA9D, .cSlli 41 13),
    (16, 0xE9D, .cSrli 41 13), (16, 0x129D, .cSrai 41 13), (16, 0x1695, .cAndi 41 5),
    (16, 0x4A53, .cMv 41 19), (16, 0x5A53, .cAdd 41 19), (16, 0x6A53, .cSub 41 19),
    (16, 0x7A53, .cAnd 41 19), (16, 0x4000, .cNop), (16, 0x82D3, .cJ 723),
    (16, 0x8A60, .cJr 19), (16, 0x8801, .cHend), (16, 0x8802, .cNspec),
    (16, 0x8803, .cCend), (16, 0x8804, .cBrk), (16, 0x9273, .cBnez 19 19),
    (16, 0x9A73, .cBeqz 19 19), (16, 0xADD3, .cBkt 5 211), (16, 0xB5D3, .cBkf 5 211)] = true := by decide +kernel

/-! ## Ill-formed instructions -/

theorem test_wf_bitField : (Instr.bfxu 1 2 33 31).wellFormed = false ∧ (Instr.bfxs 1 2 33 31).wellFormed = false
    ∧ (Instr.bfi 1 2 33 31).wellFormed = false ∧ (Instr.bfxu 1 2 32 31).wellFormed = true := by decide

theorem test_wf_wordShift : (Instr.slli true 1 2 32).wellFormed = false ∧ (Instr.srli true 1 2 32).wellFormed = false
    ∧ (Instr.srai true 1 2 32).wellFormed = false ∧ (Instr.rori true 1 2 32).wellFormed = false ∧ (Instr.slli false 1 2 32).wellFormed = true := by
  decide

theorem test_wf_rounding : (∀ rm ∈ [(5 : BitVec 3), 6], (Instr.fcvtSD rm 1 2).wellFormed = false ∧ (Instr.fcvtLF true rm 1 2).wellFormed = false
    ∧ (Instr.fcvtLuF true rm 1 2).wellFormed = false ∧ (Instr.fcvtFL true rm 1 2).wellFormed = false ∧ (Instr.fcvtFLu true rm 1 2).wellFormed = false
    ∧ (Instr.fcvtWF true rm 1 2).wellFormed = false ∧ (Instr.fcvtFW true rm 1 2).wellFormed = false) ∧ (Instr.fcvtSD 7 1 2).wellFormed = true := by
  decide

theorem test_wf_loop : (Instr.loop 1 1).wellFormed = false ∧ (Instr.loopi 3 1).wellFormed = false ∧ (Instr.loopi 3 2).wellFormed = true := by
  decide

theorem test_wf_ordered : (Instr.ldu 3 1 2 0).wellFormed = false ∧ (Instr.ldo 2 0 false 0 1 2 0).wellFormed = false
    ∧ (Instr.ldo 0 5 false 0 1 2 0).wellFormed = false ∧ (Instr.ldo 0 0 true 3 1 2 0).wellFormed = false
    ∧ (Instr.sto 1 0 0 1 2 0).wellFormed = false ∧ (Instr.sto 0 5 0 1 2 0).wellFormed = false
    ∧ (Instr.ldo 3 4 true 2 1 2 0).wellFormed = true := by decide

theorem test_wf_fence : (Instr.fence 3 5).wellFormed = false ∧ (Instr.fenceX 0 0 1).wellFormed = false ∧ (Instr.fenceX 0 1 0).wellFormed = false
    ∧ (Instr.fenceX 5 1 1).wellFormed = false ∧ (Instr.fenceX 4 1 1).wellFormed = true := by decide

theorem test_wf_vector : (Instr.setvl 6 1 2).wellFormed = false ∧ (Instr.setvli 6 1 2).wellFormed = false
    ∧ (Instr.vdeq true 3 false 0 1 2 3).wellFormed = false ∧ (Instr.vquant true 3 false 0 1 2 3).wellFormed = false
    ∧ (Instr.vfcvt false 0 1 2 9).wellFormed = false ∧ (Instr.vfcvtF false 0 1 2 9).wellFormed = false ∧ (Instr.vfcvt false 0 1 2 8).wellFormed = true := by
  decide

theorem test_wf_fields : (Instr.cpyset 0 11 1).wellFormed = false ∧ (Instr.send 1 57).wellFormed = false ∧ (Instr.reply 1 57).wellFormed = false
    ∧ (Instr.send 1 56).wellFormed = true := by decide

theorem test_wf_compact : (∀ x ∈ [(3 : BitVec 4)], (Instr.cAddi 0 x).wellFormed = false ∧ (Instr.cLi 0 x).wellFormed = false
    ∧ (Instr.cSlli 0 x).wellFormed = false ∧ (Instr.cSrli 0 x).wellFormed = false ∧ (Instr.cSrai 0 x).wellFormed = false
    ∧ (Instr.cAndi 0 x).wellFormed = false) ∧ (Instr.cMv 0 1).wellFormed = false ∧ (Instr.cAdd 0 1).wellFormed = false
    ∧ (Instr.cSub 0 1).wellFormed = false ∧ (Instr.cAnd 0 1).wellFormed = false := by decide

/-- Agents that the package does not have. -/
theorem test_wf_agents : (Instr.syncMirrorUpdate 12 0 0).wellFormed = false ∧ (Instr.syncMirrorUpdate 0 49152 0).wellFormed = false
    ∧ (Instr.copyWrite 780 0 1).wellFormed = false ∧ (Instr.copyWrite 0 4 1).wellFormed = false ∧ (Instr.combineTimeout 12 0).wellFormed = false
    ∧ (Instr.chunkPlacement 96).wellFormed = false ∧ (Instr.sealComplete 512).wellFormed = false ∧ (Instr.switchDieLoss 4).wellFormed = false
    ∧ (Instr.stationLoss 8).wellFormed = false ∧ (Instr.forwardedRead 12 0 0).wellFormed = false ∧ (Instr.launchGo 0 96).wellFormed = false
    ∧ (Instr.computeDrop 12).wellFormed = false ∧ (Instr.debugHalt 780).wellFormed = false := by decide

/-! ## Small states -/

/-- The state an instruction leaves. -/
noncomputable def ran (i : Instr) (s : State) : State :=
  match exec i s with
  | .next t => t
  | .fault _ => State.reset
  | .refused _ => State.reset

/-- Core 0 at 0x1000 with the scalar registers `r`; `f` changes its main context. -/
def mainWith (r : Bank Word) (f : Ctx → Ctx) : State :=
  let c := Core.reset 0
  State.reset.setCore 0 { c with main := f { c.main with pc := 0x1000, s := r } }

/-- Core 0 at 0x1000 with the scalar registers `r`. -/
def mainAt (r : Bank Word) : State := mainWith r id

/-- A message of core 9 to core 0 in class 4 with eight words, which expects a reply in class 7. -/
def someMsg : Msg :=
  { src := 9, host := false, peer := none, vec := false, dst := 0, toHost := false, toPeer := none, cls := 4, asid := 1, stamp := 3,
    re := true, rclass := 7, len := 64, payload := 0x55 }

/-- Core 0 executes its handler context, on that message. -/
def handlerAt (r : Bank Word) : State :=
  let c := Core.reset 0
  { State.reset.setCore 0 { c with hnd := { c.hnd with s := r }, run := some { msg := someMsg, token := 5 } } with curH := true }

/-- Core 0 with VL = `n` at the width code `ew`. -/
def vecWith (ew : BitVec 3) (n : BitVec 11) (r : Bank Word) (v : Bank (BitVec 4096)) : State :=
  mainWith r (fun c => { c with vill := false, ew := ew, vl := n, v := v })

/-- An address of window `w` of the own scratchpad. -/
def own (w off : Nat) : Word := BitVec.ofNat 64 (Config.ownScratch + w * 0x100000 + off)

/-- The package with the first 512 MiB mapped onto themselves for ring 0, core 0 about to run `nop` at 0x10000. -/
def booted : State := { State.reset.withFetchWord 32 0x0006FE00 with agenda := [] }

/-- The same with the scalar registers `r`. -/
def bootedWith (r : Bank Word) : State := booted.mapCtx (fun c => { c with s := r })

/-! ## States that meet the premises of the statements -/

theorem test_meets_RoundingIsExactOnRepresentable :
    fp4e2m1 ∈ [fp64, fp32, bf16, fp16, fp8e4m3, fp8e5m2, fp6e3m2, fp6e2m3, fp4e2m1]
    ∧ (7 < 2 ^ fp4e2m1.width ∧ (fp4e2m1.decode 7).isNan = false)
    ∧ (0xFFEFFFFFFFFFFFFF < 2 ^ fp64.width ∧ (fp64.decode 0xFFEFFFFFFFFFFFFF).isNan = false)
    ∧ (fp8e5m2.decode 0x7C).isNan = false ∧ (fp64.decode 0xFFFFFFFFFFFFFFFF).isNan = true := by decide +kernel

theorem test_meets_ControlTransferResult : (mainAt []).ctx.atLoopEnd = false
    ∧ (mainWith [] (fun c => { c with loops := [⟨0xF00, 0x1010, 3⟩] })).ctx.atLoopEnd = false := by decide +kernel

/-- One live entry whose END is the instruction at hand. -/
def atEnd (n : Word) : Ctx := { pc := 0x1000, loops := [⟨0xF00, 0x1000, n⟩] }

/-- Two live entries that end there. -/
def atBothEnds (n m : Word) : Ctx := { pc := 0x1000, loops := [⟨0xE00, 0x1000, n⟩, ⟨0xF00, 0x1000, m⟩] }

/-- The parcel at 0x10008 is the first of memory's zeros. -/
theorem test_meets_LoopResult_setup : (bootedWith [(1, 3)]).ctx.atLoopEnd = false
    ∧ (match fetchParcel ((bootedWith [(1, 3)]).ctx.pc + 2 * (4 : BitVec 12).setWidth 64).toNat (bootedWith [(1, 3)]) with
       | .ok (.ok p, _) => decide (p = 0)
       | _ => false) = true := by decide +kernel

theorem test_meets_LoopResult_steps : (mainAt []).ctx.atLoopEnd = false
    ∧ ((atEnd 1).loops = [⟨0xF00, 0x1000, 1⟩] ∧ (atEnd 2).loops = [⟨0xF00, 0x1000, 2⟩] ∧ (0x1000 : Word) = (atEnd 1).pc)
    ∧ (atBothEnds 1 1).loops = [⟨0xE00, 0x1000, 1⟩, ⟨0xF00, 0x1000, 1⟩] ∧ (0x1000 : Word) = (atBothEnds 1 1).pc
    ∧ (mainWith [] (fun _ => atEnd 1)).ctx.atLoopEnd = true
    ∧ (let u := (mainWith [] (fun _ => atEnd 1)).mapCore 0 (fun c => { c with prv := true })
       u.atS = true ∧ u.ctx.atLoopEnd = true) := by decide +kernel

theorem test_meets_ScratchAccessResult :
    let s := mainAt [(1, own 0 0x7FFF8), (2, own 4 0x6FFF8), (5, 7)]
    (s.ownPlace (s.ctx.x 1 + (0 : BitVec 10).signExtend 64 * (8 : Nat)) 0 0x7FFF8 ∧ 0x7FFF8 + 8 ≤ windowLim 0 ∧ 0x7FFF8 % 8 = 0
      ∧ s.cleanLine (0x7FFF8 / 128))
    ∧ (s.ownPlace (s.ctx.x 2 + (0xF : BitVec 4).signExtend 64 * (8 : Nat)) 4 0x6FFF0 ∧ 0x6FFF0 + 8 ≤ windowLim 4)
    ∧ s.lockedBy (.scratch s.cur (0x7FFF8 / 128)) none = false ∧ s.mirrorsDone (dieOf s.cur) = true := by
  simp only [State.ownPlace, State.cleanLine]; decide +kernel

theorem test_meets_AtomicScratch :
    let s := mainAt [(1, own 0 0x7FFFC), (2, own 0 0)]
    (s.ownPlace (s.ctx.x 1) 0 0x7FFFC ∧ 0x7FFFC % 4 = 0 ∧ s.lockedBy (.scratch s.cur (0x7FFFC / 128)) none = false
      ∧ s.cleanLine (0x7FFFC / 128) ∧ s.mirrorsDone (dieOf s.cur) = true)
    ∧ (s.ownPlace (s.ctx.x 2) 0 0 ∧ 0 % 8 = 0 ∧ s.cleanLine 0)
    ∧ (let h := handlerAt [(1, own 0 0x7FFF8)]
       h.curH = true ∧ h.ownPlace (h.ctx.x 1) 0 0x7FFF8 ∧ 0x7FFF8 % 8 = 0 ∧ h.cleanLine (0x7FFF8 / 128)
       ∧ h.lockedBy (.scratch h.cur (0x7FFF8 / 128)) none = false ∧ h.mirrorsDone (dieOf h.cur) = true) := by
  simp only [State.ownPlace, State.cleanLine]; decide +kernel

theorem test_meets_MisalignedAccess :
    let s := mainAt [(1, own 0 1), (2, 0x10002)]
    (s.ctx.x 1 + (0x3FF : BitVec 10).signExtend 64 * (2 : Nat)).toNat % 2 ≠ 0
    ∧ (s.ctx.x 2 + (7 : BitVec 4).signExtend 64 * (4 : Nat)).toNat % 4 ≠ 0
    ∧ (s.ctx.x 2).toNat % 4 ≠ 0 ∧ (s.ctx.x 2).toNat % 8 ≠ 0 ∧ s.curH = false := by decide +kernel

/-- A store to window 7, a load of the last byte but one past window 1's limit, a held translation that grants all but W to
a store and all but U to a load at U, and a root entry that is not valid. -/
theorem test_meets_MisalignedAccess_causes :
    let s := mainAt [(1, own 7 8), (2, own 1 (windowLim 1 - 1)), (3, own 1 (windowLim 1)), (4, 0x10008)]
    let held (pte : Nat) := s.mapCore 0 (fun c => { c with tlb := [⟨0, 1, 16, pte⟩] })
    ((s.ctx.x 1).toNat % 8 = 0 ∧ s.ownPlace (s.ctx.x 1) 7 8 ∧ 7 ≠ 0)
    ∧ (s.ownPlace (s.ctx.x 2) 1 (windowLim 1 - 1) ∧ ¬windowLim 1 < windowLim 1 - 1 + 1)
    ∧ ((s.ctx.x 3).toNat % 8 = 0 ∧ s.ownPlace (s.ctx.x 3) 1 (windowLim 1) ∧ windowLim 1 < windowLim 1 + 1)
    ∧ ((s.ctx.x 4).toNat < Config.untranslated ∧ (s.ctx.x 4).toNat % 8 = 0)
    ∧ (tlbFind (held 0x37).me.tlb (held 0x37).me.asid.toNat 0x10008 = some ⟨0, 1, 16, 0x37⟩ ∧ (0x37 : Nat).testBit 3 = false)
    ∧ (tlbFind (held 0x1F).me.tlb (held 0x1F).me.asid.toNat 0x10008 = some ⟨0, 1, 16, 0x1F⟩ ∧ (held 0x1F).atS = false
      ∧ (0x1F : Nat).testBit 5 = false)
    ∧ (let root := s.me.ptbase.toNat * 4096 + 8 * (0x10008 / 2 ^ 55)
       tlbFind s.me.tlb s.me.asid.toNat 0x10008 = none ∧ s.atCaps 0x10008 = false ∧ s.me.upset = none ∧ s.bitErrors = []
       ∧ root < s.hbmLimit ∧ s.seenPoisoned (dieOf s.cur) root 8 = false ∧ s.seenBytes (dieOf s.cur) root 8 % 2 = 0) := by
  simp only [State.ownPlace]; decide +kernel

/-- What resolving an address gives, as data that can be compared. -/
def resolves (s : State) (a : Access) (ea : Nat) : Option (Target × List TlbEntry) :=
  match resolveAt s s.cur s.me.tlb s.me.asid.toNat s.me.ptbase.toNat s.atS a ea with
  | .ok r => some r
  | .error _ => none

/-- A line that only its home holds, for a core of its home die. -/
def plainLine (s : State) (line : Nat) : Bool :=
  decide (s.homeLine line = dieOf s.cur) && decide ((s.catEntry line).st = .none) && decide (s.mpDie line = none)
    && decide (s.me.l1.all (fun e => e.1 ≠ line)) && decide (s.lockedBy (.hbm line) none = false)
    && decide (s.combines (dieOf s.cur) line = false) && decide (s.frame (line * 128) = .plain)
    && decide ((s.annexLine (dieOf s.cur) line).st = .i)

theorem test_meets_DeviceMemoryAccess :
    let s := bootedWith [(1, 0x50000), (5, 7)]
    (resolves s .load 0x50000).map (·.1) = some (.hbm 0x50000) ∧ (resolves s .store 0x50000).map (·.1) = some (.hbm 0x50000)
    ∧ (resolves s .modify 0x50000).map (·.1) = some (.hbm 0x50000)
    ∧ 0x50000 % 8 = 0 ∧ s.chunk = none ∧ plainLine s (0x50000 / 128) = true ∧ poisoned s.poison 0x50000 8 = false
    ∧ s.sound s.cur ∧ (s.ctx.x 1).toNat % 8 = 0 ∧ s.mirrorsDone (dieOf s.cur) = true
    ∧ ({ s with curH := true } : State).curH = true := by
  simp only [State.sound]; decide +kernel

/-- A far atomic of core 9 on the scratchpad of core 0, with its reply asked for. -/
def farRequest : FarReq :=
  { src := 9, hnd := false, owner := 0, asid := 1, stamp := 3, ea := 0, loc := .scratch 0 64, b := 5, cmp := 0, fn := 1, dbl := true,
    reply := true, rd := 7, peer := none }

theorem test_meets_FarAtomicResult_issue :
    let s := bootedWith [(1, 0x50000), (2, own 0 64), (3, BitVec.ofNat 64 (Config.globalScratch + 9 * 0x800000 + 64))]
    s.curH = false ∧ s.chunk = none ∧ (∀ r ∈ [(1 : SReg), 2, 3], (s.ctx.x r).toNat % 8 = 0) ∧ s.me.upset = none ∧ s.bitErrors = []
    ∧ (resolves s .modify (s.ctx.x 1).toNat).map (·.1) = some (.hbm 0x50000)
    ∧ (resolves s .modify (s.ctx.x 2).toNat).map (·.1) = some (.own 0 64)
    ∧ (resolves s .modify (s.ctx.x 3).toNat).map (·.1) = some (.remote 9 0 64) := by decide +kernel

/-- Core 0 serves address space 1, whose overflow area is empty, and holds the page of the first 512 MiB. -/
def owning (r : FarReq) : State :=
  { booted.mapCore 0 (fun c => { c with overflow := [(1, [])], tlb := [⟨1, 0, 29, 0x3F⟩] }) with flight := [.farAtomicStep r] }

theorem test_meets_FarAtomicResult_owner :
    let s := owning farRequest
    let r := farRequest
    s.flight.find? (sameRoute none r.src 0) = some (.farAtomicStep r) ∧ s.flight.takeWhile (fun j => decide (j ≠ .farAtomicStep r)) = []
    ∧ r.peer = none ∧ r.owner = 0 ∧ r.loc = .scratch 0 64 ∧ 64 % 8 = 0 ∧ isRingCore 0 = true ∧ Bank.find s.dropped (dieOf 0) = none
    ∧ s.runsAsid 0 r.asid = true ∧ (s.core 0).atBoundary = true ∧ (s.core 0).queue = [] ∧ Bank.find (s.core 0).overflow r.asid = some []
    ∧ (s.core 0).prv = false ∧ s.bitErrors = [] ∧ s.tagErrors = [] ∧ 64 < Config.scratchBytes
    ∧ s.lockedBy (.scratch 0 (64 / 128)) none = false
    ∧ Bank.get false (s.core 0).scratchPoison (64 / 16) = false ∧ r.fn.toNat < 10 := by decide +kernel

theorem test_meets_FarAtomicResult_memory :
    let r : FarReq := { farRequest with ea := 0x50000, loc := .hbm 0x50000 }
    let s := owning r
    s.flight.find? (sameRoute none r.src 0) = some (.farAtomicStep r) ∧ s.flight.takeWhile (fun j => decide (j ≠ .farAtomicStep r)) = []
    ∧ s.runsAsid 0 r.asid = true ∧ (s.core 0).atBoundary = true ∧ (s.core 0).queue = [] ∧ Bank.find (s.core 0).overflow r.asid = some []
    ∧ tlbFind (s.core 0).tlb r.asid r.ea.toNat = some ⟨1, 0, 29, 0x3F⟩
    ∧ (match leafTarget s ⟨1, 0, 29, 0x3F⟩ r.ea.toNat with | .ok (.hbm pa) => decide (pa = 0x50000) | _ => false) = true
    ∧ 0x50000 % 8 = 0 ∧ plainLine s (0x50000 / 128) = true ∧ s.frame 0x50000 = .plain ∧ poisoned s.poison 0x50000 8 = false := by
  decide +kernel

theorem test_meets_FarAtomicResult_reply :
    let s := booted.mapCore 9 (fun c => { c with main := { c.main with wait := some (.farReply 7) } })
    ((s.core farRequest.src).ctx farRequest.hnd).wait = some (.farReply 7) := by decide +kernel

theorem test_meets_SyncRegisterResult :
    let s := mainAt [(1, 0x1001), (2, 5)]
    s.speculative = false ∧ s.noSync 0x1001 = false ∧ s.noSync 0 = false ∧ s.noSync 49151 = false ∧ s.mirrorsDone (dieOf s.cur) = true
    ∧ 0x1001 = (0x1001 : BitVec 16).toNat ∧ 0x1001 = (s.ctx.x 1).toNat % 65536 := by decide +kernel

theorem test_meets_SyncRegisterResult_mirror :
    let s := { State.reset with flight := [.syncMirrorUpdate 3 0x1001 5] }
    0x1001 < 65536 ∧ 3 < 12 ∧ syncHome 0x1001 ≠ 3 ∧ s.flight.find? (mirrorUpdateTo 3) = some (.syncMirrorUpdate 3 0x1001 5) := by
  decide +kernel

theorem test_meets_BarrierResult_barrier :
    let s := mainAt [(1, 0x1001), (2, 8)]
    s.curH = false ∧ s.speculative = false ∧ s.noSync 0x1001 = false ∧ s.mirrorsDone (dieOf s.cur) = true
    ∧ 0x1001 = (0x1001 : BitVec 16).toNat ∧ 0x1001 = (s.ctx.x 1).toNat % 65536 ∧ s.ctx.x 2 ≠ 0 := by decide +kernel

theorem test_meets_BarrierResult_release :
    let s := mainWith [] (fun c => { c with wait := some (.ybar 7 0) })
    let u := mainWith [] (fun c => { c with wait := some (.swait 64 0) })
    (s.core 0).main.wait = some (.ybar 7 0) ∧ (s.core 0).awake = true ∧ (0 : Word) ≤ s.mirrorAt (dieOf 0) 7
    ∧ (u.core 0).main.wait = some (.swait 64 0)
    ∧ decide (BitVec.ofNat 32 (readBytes (u.core 0).scratch (64 + 8) 4) - 0 < 0x80000000#32) = true := by decide +kernel

theorem test_meets_BarrierResult_words :
    let s := { mainAt [(1, own 0 0x7FFF0), (2, 0x80000000)] with rings := booted.rings }
    s.curH = false ∧ s.ownPlace (s.ctx.x 1) 0 0x7FFF0 ∧ 0x7FFF0 % 16 = 0
    ∧ s.lockedBy (.scratch 0 (0x7FFF0 / 128)) none = false ∧ s.runsAsid 0 1 = true := by
  simp only [State.ownPlace]; decide +kernel

theorem test_meets_FenceResult :
    let s := mainAt []
    s.speculative = false ∧ (4 : BitVec 3).toNat ≥ 3 ∧ s.mirrorsDone (dieOf s.cur) = true
    ∧ ∀ p < 7, (0x7F : BitVec 7).getLsbD p = true → pathDone s 4 p = true := by decide +kernel
theorem test_meets_SendResult :
    let s := mainAt [(1, 0x0504_0008), (2, 512), (3, 0x0104_0000)]
    (destOk (s.ctx.x 1).toNat s.atS s.pkgNo = true ∧ destOk (s.ctx.x 3).toNat s.atS s.pkgNo = true)
    ∧ destOk (0x2_0084_0005 : Word).toNat false 0 = true ∧ destOk (0x0044_0000 : Word).toNat false 0 = true
    ∧ s.speculative = false ∧ 1 ≤ (s.ctx.x 2).toNat ∧ (s.ctx.x 2).toNat ≤ 512 ∧ s.curH = false := by decide +kernel

theorem test_meets_SendResult_reply :
    let s := handlerAt [(4, 5)]
    s.curH = true ∧ s.me.run = some { msg := someMsg, token := 5 } ∧ s.ctx.x 4 ≠ 0 ∧ s.ctx.x 4 = 5 ∧ someMsg.peer = none := by
  decide +kernel

theorem test_meets_HandlerResult_bind :
    let s := mainAt [(1, 63), (2, 0x20000)]
    ((s.ctx.x 1).toNat ≤ 63 ∧ (s.ctx.x 2).getLsbD 0 = false ∧ s.speculative = false)
    ∧ (handlerAt []).curH = true ∧ (handlerAt []).ctx.atLoopEnd = false := by decide +kernel

/-- Core 0 of a running launch with class 4 bound and `q` in its arrival queue. -/
def queued (q : List Held) : State := booted.mapCore 0 (fun c => { c with classes := [(4, 0x20000)], queue := q })

theorem test_meets_HandlerResult_dispatch :
    let older : Msg := { someMsg with cls := 5 }
    let launch : Msg := { someMsg with cls := 63 }
    let s := (queued [.msg older, .msg launch, .msg someMsg]).mapCore 0 (fun c => { c with overflow := [(1, [])] })
    (s.core 0).atBoundary = true ∧ (s.core 0).stopReq = false ∧ (s.core 0).queue = [.msg older, .msg launch] ++ .msg someMsg :: []
    ∧ Bank.get 0 (s.core 0).classes older.cls = 0 ∧ launchClass 0 (.msg launch) = true
    ∧ launchClass 0 (.msg someMsg) = false ∧ Bank.get 0 (s.core 0).classes someMsg.cls ≠ 0
    ∧ Bank.find (s.core 0).overflow someMsg.asid = some [] := by decide +kernel

theorem test_meets_HandlerResult_budget :
    let h : HandlerRun := { msg := { someMsg with re := false }, count := 512 }
    let s := booted.mapCore 0 (fun c => { c with run := some h, dead := [(1, 0x600000)] })
    (s.core 0).run = some h ∧ 512 ≤ h.count ∧ (s.core 0).hnd.issued = false ∧ (s.core 0).hnd.wait = none ∧ h.msg.re = false
    ∧ Bank.find (s.core 0).dead h.msg.asid = some 0x600000 ∧ (s.deadProd 0x600000 + 2 ^ 32 - s.deadCons 0x600000) % 2 ^ 32 ≠ 56 := by
  decide +kernel

/-- No line of a package whose Annexes are empty is in state MP. -/
theorem mp_of_nil {s : State} (h : s.annex = []) (line : Nat) : s.mpDie line = none := by
  simp [State.mpDie, State.annexLine, h, Bank.get]

theorem test_meets_MessageArrivalResult :
    let s := { booted.mapCore 0 (fun c => { c with overflow := [(1, [])] }) with flight := [.messageArrival someMsg] }
    let u := s.mapCore 0 (fun c => { c with overflow := [(2, [])] })
    let m2 : Msg := { someMsg with asid := 2 }
    someMsg.dst = 0 ∧ s.flight.find? (sameRoute none someMsg.src 0) = some (.messageArrival someMsg) ∧ someMsg.host = false
    ∧ someMsg.peer = none ∧ isRingCore 0 = true ∧ Bank.find s.dropped (dieOf 0) = none
    ∧ (s.runsAsid 0 someMsg.asid = true ∧ (s.core 0).mayEnter (.msg someMsg) = true
      ∧ Bank.find (s.core 0).overflow someMsg.asid = some [] ∧ (s.core 0).upset = none)
    ∧ u.runsAsid 0 2 = false ∧ Bank.find (u.core 0).overflow 2 = some [] ∧ areaUsed [] + 16 + (m2.len + 15) / 16 * 16 ≤ 65536 := by
  decide +kernel

/-- A packet of core 9 for line 3 of core 0, which counts into a sync word. -/
def somePacket : Packet :=
  { src := 9, dst := 0, asid := 1, line := 3, data := 0xAB, mask := 0xFF, add := none, sync := some (0, 64), bytes := 1, poison := 0 }

theorem test_meets_PacketResult :
    let i : Instr := .remoteStorePacket somePacket
    let s := { booted with flight := [i, .mmrotPacket somePacket] }
    s.msgWaits somePacket.dst somePacket.asid i = false ∧ { s with flight := s.flight.tail }.packetWaits (.mmrotPacket somePacket) = false
    ∧ s.heldBefore somePacket.dst (.packet somePacket) = false ∧ (s.core somePacket.dst).upset = none ∧ s.lockedBy (.scratch somePacket.dst somePacket.line) none = false
    ∧ s.runsAsid somePacket.dst somePacket.asid = true := by decide +kernel

theorem test_meets_PacketResult_load :
    let r : RemoteLoadReq := { src := 9, hnd := false, dst := 0, asid := 1, off := 64, ea := 0, sz := 3, sx := false, rd := 7 }
    let s := { booted with flight := [.remoteLoad r] }.mapCore 9
      (fun c => { c with main := { c.main with wait := some (.remoteLoad (.scratch 0 64) 0 7 3 false) } })
    s.msgWaits r.dst r.asid (.remoteLoad r) = false ∧ s.lockedBy (.scratch r.dst (r.off / 128)) none = false
    ∧ s.runsAsid r.dst r.asid = true ∧ poisoned (s.core r.dst).scratchPoison r.off (2 ^ r.sz.toNat) = false
    ∧ s.bitErrors = [] ∧ (s.core r.dst).upset = none
    ∧ ((s.core r.src).ctx r.hnd).wait = some (.remoteLoad (.scratch 0 64) 0 7 3 false) := by decide +kernel

theorem test_meets_VectorLengthGrant : (5 : BitVec 3).toNat ≤ 5 ∧ (1 : BitVec 3).toNat ≤ 5 ∧ widthOf 1 = 6 ∧ widthOf 5 = 64 := by
  decide +kernel

/-- Every width, with VL at its greatest. -/
theorem test_meets_VectorIntegerResult : ∀ e ∈ [((0 : BitVec 3), (1024 : BitVec 11), 4), (1, 680, 6), (2, 512, 8), (3, 256, 16), (4, 128, 32), (5, 64, 64)],
    (vecWith e.1 e.2.1 [] []).vectorReady [e.2.2] := by
  simp only [State.vectorReady]; decide +kernel

theorem test_meets_VectorFloatResult : (vecWith 3 256 [] []).vectorReady [16, 32] ∧ (vecWith 5 64 [] []).vectorReady [16, 32, 64] := by
  simp only [State.vectorReady]; decide +kernel

theorem test_meets_VectorConversionResult :
    let s := vecWith 2 512 [] []
    let u := vecWith 4 128 [] []
    (s.vectorReady [4, 8, 16, 32] ∧ s.vectorReady [4, 6, 8, 16, 32] ∧ s.ctx.vl.toNat ≤ 2 * vlmax 16
      ∧ BitVec.ofNat 5 (2 * (1 : BitVec 4).toNat) ≠ (5 : VReg) ∧ BitVec.ofNat 5 (2 * (1 : BitVec 4).toNat) + 1 ≠ (5 : VReg))
    ∧ (vecWith 3 256 [] []).vectorReady [16]
    ∧ (u.vectorReady [8, 16, 32, 64] ∧ u.vectorReady [16, 32] ∧ (2 : VReg) ≠ 5)
    ∧ (fmtOf (2 : BitVec 5).toNat = some fp16 ∧ fp16.width ≤ widthOf u.ctx.ew)
    ∧ fmtOf (1 : BitVec 5).toNat = some fp32 ∧ fp32.width = widthOf u.ctx.ew
    ∧ fmtOf (0 : BitVec 5).toNat = some fp64 ∧ widthOf u.ctx.ew < fp64.width ∧ (2 : VReg).toNat % 2 = 0
    ∧ u.ctx.vl.toNat ≤ 2 * vlmax fp64.width ∧ (2 : VReg) + 1 ≠ 5 := by
  simp only [State.vectorReady]; decide +kernel

theorem test_meets_ReductionResult :
    let s := vecWith 3 256 [] []
    s.vectorReady [4, 8, 16, 32, 64] ∧ s.vectorReady [16, 32, 64] ∧ s.ctx.vstart = 0 ∧ 0 < s.ctx.vl.toNat ∧ (1 : VReg) ≠ 2 := by
  simp only [State.vectorReady]; decide +kernel

theorem test_meets_PermuteResult :
    let s := vecWith 1 680 [] []
    let u := vecWith 0 1024 [] []
    s.vectorReady [4, 6, 8, 16, 32, 64] ∧ u.vectorReady [4, 8, 16, 32, 64] ∧ s.ctx.vstart = 0 ∧ (1 : VReg) ≠ 2 ∧ (1 : VReg) ≠ 3 := by
  simp only [State.vectorReady]; decide +kernel

theorem test_meets_VectorCompareResult :
    let s := vecWith 3 256 [] []
    let u := vecWith 0 4 [] []
    let v := mainWith [] (fun c => { c with vill := false, ew := 0, vl := 4, p := [(2, 0b1000)] })
    s.ctx.vstart = 0 ∧ s.vectorReady [4, 8, 16, 32, 64] ∧ s.vectorReady [16, 32, 64] ∧ u.vectorReady [4, 6, 8, 16, 32, 64]
    ∧ (3 < v.ctx.vl.toNat ∧ (v.ctx.pr 2).getLsbD 3 = true ∧ ∀ j < 3, (v.ctx.pr 2).getLsbD j = false)
    ∧ ∀ j < u.ctx.vl.toNat, (u.ctx.pr 2).getLsbD j = false := by
  simp only [State.vectorReady]; decide +kernel

/-- No granule of the scratchpad of a fresh core is poisoned. -/
theorem clean_of_nil {s : State} (e : s.bitErrors = []) (h : s.me.scratchPoison = []) : s.clean :=
  ⟨e, fun g _ => by rw [h]; rfl⟩

/-- The lines of a state without locks may be loaded. -/
theorem test_meets_VectorLoadResult_unlocked :
    ∀ line, (vecWith 4 128 [(1, own 0 0x7FE00), (2, 16)] []).lockedBy (.scratch 0 line) none = false := fun _ => rfl

/-- The last 512 bytes of window 0, and elements at stride 16 and at listed offsets. -/
theorem test_meets_VectorLoadResult :
    let s := vecWith 4 128 [(1, own 0 0x7FE00), (2, 16)] []
    let u := vecWith 4 128 [(1, own 0 0x1000), (2, 16)] []
    (s.vectorReady [4, 6, 8, 16, 32, 64] ∧ s.ownPlace (s.ctx.x 1) 0 0x7FE00 ∧ s.clean)
    ∧ (offsetOk 32 (0 : BitVec 3).toNat = true ∧ 0x7FE00 + ((0 : BitVec 3).toNat + 32 * 128 + 7) / 8 ≤ 0x80000)
    ∧ (8 ≤ widthOf u.ctx.ew ∧ u.ctx.vl.toNat ≤ 128 ∧ (1 : VReg) ≠ 2
      ∧ (∀ i < 128, u.ownPlace (u.ctx.x 1 + BitVec.ofNat 64 i * u.ctx.x 2) 0 (0x1000 + 16 * i) ∧ (0x1000 + 16 * i) % 4 = 0
          ∧ 0x1000 + 16 * i + 4 ≤ 0x80000)
      ∧ ∀ i < 128, u.ownPlace (u.ctx.x 1 + BitVec.ofNat 64 (elem 32 (u.ctx.vr 2) i)) 0 0x1000)
    ∧ 0x7FE00 + (32 + 7) / 8 ≤ 0x80000 ∧ 0x7FE00 + (32 * Nat.min (s.ctx.x 2).toNat 128 + 7) / 8 ≤ 0x80000 := by
  refine ⟨⟨?_, ?_, clean_of_nil rfl rfl⟩, ?_⟩
  · simp only [State.vectorReady]; decide +kernel
  · simp only [State.ownPlace]; decide +kernel
  · simp only [State.ownPlace]; decide +kernel

/-- Windows 1, 4, 5, 6 and 7 at their own width, and window 3 at width 16. -/
theorem test_meets_VectorLoadResult_windows :
    (∀ e ∈ [(1, (0 : BitVec 3), 4), (4, 2, 8), (5, 0, 4), (6, 1, 6), (7, 2, 8), (3, 3, 16)],
      let s := vecWith e.2.1 8 [(1, own e.1 0)] []
      s.vectorReady [4, 6, 8, 16, 32, 64] ∧ 0 < e.1 ∧ s.ownPlace (s.ctx.x 1) e.1 0 ∧ widthOf s.ctx.ew = e.2.2)
    ∧ offsetOk 4 4 = true ∧ offsetOk 6 6 = true ∧ offsetOk 8 0 = true ∧ 0x6FFFF + (4 + 4 * 1 + 7) / 8 ≤ windowLim 5
    ∧ (vecWith 1 8 [(1, own 6 0)] []).clean := by
  refine ⟨?_, by decide, by decide, by decide, by decide, clean_of_nil rfl rfl⟩
  simp only [State.vectorReady, State.ownPlace]; decide +kernel

theorem test_meets_VectorStoreResult :
    let s := vecWith 4 128 [(1, own 0 0x7FE00), (2, 4), (3, own 0 0x1000)] []
    (s.vectorReady [4, 6, 8, 16, 32, 64] ∧ s.ownPlace (s.ctx.x 1) 0 0x7FE00 ∧ s.locks = [])
    ∧ (offsetOk 32 (0 : BitVec 3).toNat = true ∧ 0x7FE00 + ((0 : BitVec 3).toNat + 32 * 128 + 7) / 8 ≤ 0x80000 ∧ 128 ≤ vlmax 32)
    ∧ (8 ≤ widthOf s.ctx.ew ∧ (1 : VReg) ≠ 2)
    ∧ (∀ i < 128, s.ownPlace (s.ctx.x 3 + BitVec.ofNat 64 i * s.ctx.x 2) 0 (0x1000 + 4 * i) ∧ (0x1000 + 4 * i) % 4 = 0)
    ∧ ∀ i < 128, s.ownPlace (s.ctx.x 3 + BitVec.ofNat 64 (elem 32 (s.ctx.vr 2) i)) 0 0x1000 := by
  simp only [State.vectorReady, State.ownPlace]; decide +kernel

theorem test_meets_VectorStoreResult_remote :
    let s := vecWith 1 680 [(1, BitVec.ofNat 64 (Config.globalScratch + 767 * 0x800000 + 0x7FE00))] []
    s.vectorReady [4, 6, 8, 16, 32, 64] ∧ s.speculative = false ∧ 767 < 768 ∧ 767 ≠ s.cur ∧ Bank.find s.dropped (dieOf 767) = none
    ∧ 0x7FE00 < 0x80000 ∧ (s.ctx.x 1).toNat = Config.globalScratch + 767 * 0x800000 + 0x7FE00
    ∧ offsetOk 6 (2 : BitVec 3).toNat = true ∧ 0x7FE00 + ((2 : BitVec 3).toNat + 6 * 680 + 7) / 8 ≤ 0x80000 ∧ 680 ≤ vlmax 6 := by
  simp only [State.vectorReady]; decide +kernel

theorem test_meets_SequenceTransferResult :
    let s := mainAt [(1, own 0 0x7FE00)]
    s.ownPlace (s.ctx.x 1) 0 0x7FE00 ∧ 0x7FE00 % 512 = 0 ∧ s.ctx.vstart = 0 ∧ s.me.upset = none
    ∧ (∀ i < 4, s.cleanLine (0x7FE00 / 128 + i) ∧ s.lockedBy (.scratch s.cur (0x7FE00 / 128 + i)) none = false) ∧ s.locks = [] := by
  simp only [State.ownPlace, State.cleanLine]; decide +kernel
theorem test_meets_MatrixLoadResult_config :
    let s := mainAt [(1, 0x5BB)]
    let v := (s.ctx.x 1).toNat
    s.curH = false ∧ s.speculative = false ∧ v < 2048 ∧ v / 512 ≠ 3 ∧ v % 16 ≤ 11 ∧ v % 16 ≠ 7 ∧ v / 16 % 16 ≤ 11 ∧ v / 16 % 16 ≠ 7 := by
  decide +kernel

/-- Plain FP16 rows; a 2-of-8 pattern with its metadata of rising positions; and the AQ window of groups of 32. -/
theorem test_meets_MatrixLoadResult_plain :
    let s := mainAt [(1, own 0 0x7FF80), (2, 64 + 0x100 * 1 + 0x80 * 2 ^ 16), (3, own 2 0), (4, 64 + 0x100 * 2 + 0x20 * 2 ^ 16)]
    let shape := (s.ctx.x 2).toNat
    let aq := (s.ctx.x 4).toNat
    (s.ownPlace (s.ctx.x 1) 0 0x7FF80 ∧ s.me.upset = none ∧ mfmtOf (s.me.mcfg.toNat / 16 % 16) = some (.float fp16)
      ∧ s.me.mcfg.toNat / 512 = 0)
    ∧ (shape / 128 % 2 = 0 ∧ shape / 2 ^ 15 % 2 = 0 ∧ shape / 2 ^ 32 % 2 ^ 12 = 0 ∧ shape % 128 = 64 ∧ shape / 256 % 128 = 1
      ∧ shape / 2 ^ 16 % 2 ^ 16 = 128 ∧ 128 % 16 = 0 ∧ (64 * (MFmt.float fp16).width + 7) / 8 ≤ 128 ∧ 0x7FF80 + (1 - 1) * 128 + 128 ≤ windowLim 0)
    ∧ (s.ownPlace (s.ctx.x 3) 2 0 ∧ mfmtOf (windowFmt 2) = some (.int 4 false) ∧ 0 % (windowGroup 2).1 = 0 ∧ 32 % (windowGroup 2).1 = 0
      ∧ aq % 128 = 64 ∧ aq / 256 % 128 = 2 ∧ aq / 2 ^ 16 % 2 ^ 16 = 32 ∧ (64 * (MFmt.int 4 false).width + 7) / 8 ≤ 32 ∧ 64 % 64 = 0
      ∧ aq / 128 % 2 = 0 ∧ aq / 2 ^ 15 % 2 = 0 ∧ aq / 2 ^ 32 % 2 ^ 12 = 0 ∧ 0 + (2 - 1) * 32 + 32 ≤ windowLim 2) := by
  simp only [State.ownPlace]; decide +kernel

theorem test_meets_MatrixLoadResult_sparse :
    let s := mainWith [(1, own 0 0), (2, 2 + 0x100 * 1 + 0x10 * 2 ^ 16 + 0x400 * 2 ^ 44)] id
    let s := s.mapCore 0 (fun c => { c with mcfg := 0x200, scratch := writeBytes [] 0x420 1 5 })
    let shape := (s.ctx.x 2).toNat
    let pos (r j : Nat) : Nat := readBytes s.me.scratch (0x400 + 32 * r + j / 2) 1 / 16 ^ (j % 2) % 16
    s.me.mcfg.toNat / 512 = 1 ∧ shape % 128 = 2 ∧ shape / 256 % 128 = 1 ∧ shape / 2 ^ 44 = 0x400 ∧ 2 ≤ 32 ∧ 0x400 % 16 = 0
    ∧ 0x7FFD0 + 32 * (2 - 1) + (1 + 1) / 2 ≤ 0x80000 ∧ ∀ j < 1, ∀ r < 2, pos r j < 8 ∧ (r % 2 ≠ 0 → pos (r - 1) j < pos r j) := by decide +kernel

/-- A plane of two rows and one column of FP16. -/
def smallPlane : Plane := { kind := .plain, fmt := 0, pk := 2, pn := 1, vals := [(0, 0x3C00), (64, 0x4000)] }

/-- C at 0x1000, A at 0x2000, two rows of each, in cores with that plane. -/
def productState (r : Bank Word) : State :=
  (mainAt ([(1, own 0 0x1000), (2, own 0 0x2000)] ++ r)).mapCore 0 (fun c => { c with active := smallPlane })

theorem test_meets_MatrixProductResult :
    let s := productState [(3, 2 + 0x10 * 2 ^ 16 + 0x10 * 2 ^ 32)]
    let p := s.me.active
    let sh := shapeOf (s.ctx.x 3)
    let x : Stream := ⟨p, false, .float fp16, 0, 0x2000, sh.as_, 0x1000, sh.cs, sh.m⟩
    s.curH = false ∧ s.speculative = false ∧ s.me.upset = none ∧ s.ownPlace (s.ctx.x 1) 0 0x1000 ∧ 0x1000 % 16 = 0
    ∧ shapeOk (s.ctx.x 3) true = true ∧ shapeOk (s.ctx.x 3) false = true ∧ s.ownPlace (s.ctx.x 2) 0 0x2000
    ∧ mfmtOf (s.me.mcfg.toNat % 16) = some (.float fp16) ∧ 1 ≤ p.pn ∧ p.pn ≤ 64 ∧ p.pk ≤ 64
    ∧ 0x2000 + (sh.m - 1) * sh.as_ + Nat.max ((p.kd * 16 + 7) / 8) 1 ≤ windowLim 0
    ∧ 0x1000 + (sh.m - 1) * sh.cs + 4 * p.pn ≤ 0x80000 ∧ formatsOk .mma p (.float fp16) (s.me.mcfg.toNat / 256 % 2) = true
    ∧ x.overlap = false ∧ 4 * p.pn ≤ sh.cs ∧ 0x1000 + Nat.max (sh.m * sh.cs) 1 ≤ 0x80000
    ∧ formatsOk .mmas { p with kind := .sparse2 } (.float fp16) 0 = true ∧ formatsOk .mqma { p with kind := .aq } (.float fp16) 0 = true := by
  simp only [State.ownPlace]; decide +kernel

theorem test_meets_MatrixProductResult_clean : (productState []).clean := clean_of_nil rfl rfl

/-- A rotation record at 0x3000: A's rows to 0x4000 and 64 bytes of B from 0x5000 to 0x6000, with no sync words. -/
def rotationRecord : Nat :=
  (2 + 0x10 * 2 ^ 16 + 0x10 * 2 ^ 32) + 64 * 2 ^ 64 + 0x4000 * 2 ^ 96 + 0x5000 * 2 ^ 128 + 0x6000 * 2 ^ 160 + 0x80000000 * 2 ^ 192
    + 0x80000000 * 2 ^ 224

theorem test_meets_MatrixProductResult_rotation :
    let s := (productState [(3, own 0 0x3000)]).mapCore 0 (fun c => { c with scratch := writeBytes [] 0x3000 32 rotationRecord })
    let r := rotationAt s.me 0x3000
    s.ownPlace (s.ctx.x 3) 0 0x3000 ∧ 0x3000 + 32 ≤ 0x80000 ∧ shapeOk r.shape true = true ∧ 1 ≤ r.blen ∧ r.bsrc + r.blen ≤ 0x80000
    ∧ (let sh := shapeOf r.shape
       0x2000 + Nat.max (sh.m * sh.as_) 1 ≤ windowLim 0 ∧ r.adst + sh.m * sh.as_ ≤ 0x80000)
    ∧ r.bdst + r.blen ≤ 0x80000 ∧ syncFieldOk r.async = true ∧ syncFieldOk r.bsync = true := by
  simp only [State.ownPlace]; decide +kernel

/-- Copy fields of channel 1: 256 bytes in one row from 0x50000 to the own scratchpad, counted there; FP32 elements added. -/
def copyCtx (op : Word) : State := mainWith [(2, 1)] (fun c => { c with
  shadow := [(16, 0x50000), (17, own 0 0x1000), (18, 256), (19, 1), (20, 256), (21, 256), (22, own 0 0x2000), (23, op)] })

theorem test_meets_CopyIssueResult :
    let f (s : State) (i : Nat) := s.ctx.shadowField 1 i
    (10 : BitVec 6).toNat ≤ 10 ∧ ∀ op ∈ [0, 1 + 5 * 16],
      let s := copyCtx (BitVec.ofNat 64 op)
      s.speculative = false ∧ s.curH = false ∧ (assuredStray s (transferOf s 1 none)).isNone = true ∧ (s.ctx.x 2).toNat ∈ [0, 1, 2, 3, 4, 6]
      ∧ ((s.me.chan 1).transfers.filter (fun t => t.fault.isNone)).length < 16 ∧ (0 : Word).toNat < (s.me.chan 1).nextId
      ∧ 0 < (f s 2).toNat ∧ (f s 2).toNat < 2 ^ 32 ∧ 0 < (f s 3).toNat ∧ (f s 3).toNat < 2 ^ 16 ∧ (f s 7).toNat < 128
      ∧ (f s 7).toNat / 4 % 4 = 0 ∧ (f s 7).toNat % 4 ≤ 1 ∧ BitVec.ofNat 3 ((f s 7).toNat / 16) ≤ 5
      ∧ (∀ j ∈ [0, 1, 2, 4, 5], (f s j).toNat % ((addFmt (BitVec.ofNat 3 ((f s 7).toNat / 16))).2 / 8) = 0)
      ∧ syncPlace s.cur (f s 6) = some (some (0, 0x2000)) := by decide +kernel

/-- A transfer of 256 bytes from 0x50000 in device memory to the own scratchpad, counted in its sync word, and one that has
landed. -/
def someTransfer : Transfer :=
  { tid := 1, asid := 1, ptbase := 0x20, src := 0x50000, dst := own 0 0x1000, len := 256, rows := 1, sync := some (0, 0x2000) }

def landedTransfer : Transfer := { someTransfer with tid := 2, written := 256, follow := some (1, 0, 0, 0, 0) }

def copying (ts : List Transfer) : State := booted.mapCore 0 (fun c => { c with chans := [(1, { nextId := 3, transfers := ts })] })

/-- The page of the first 512 MiB. -/
def somePage : TlbEntry := ⟨1, 0, 29, 0x3F⟩

theorem test_meets_CopyTransferResult_pages :
    let s := copying [someTransfer, landedTransfer]
    (s.transfer 0 1 1 = some someTransfer ∧ s.transferRuns 0 1 someTransfer = true ∧ s.sound 0 ∧ someTransfer.written_ = false
      ∧ someTransfer.lacks = true ∧ s.shooting 1 = false)
    ∧ (match translateSide s 0 someTransfer .load someTransfer.piece.1 someTransfer.srcPage,
        translateSide s 0 someTransfer someTransfer.access someTransfer.piece.2.1 someTransfer.dstPage with
       | .ok (some p), .ok none => decide (p.bits = 29)
       | _, _ => false) = true := by simp only [State.sound]; decide +kernel

theorem test_meets_CopyTransferResult_write :
    let t := { someTransfer with srcPage := some somePage }
    let s := copying [t]
    s.transferRuns 0 1 t = true ∧ t.written_ = false ∧ t.lacks = false ∧ t.orig = [] ∧ t.add = none ∧ t.versioned = false ∧ dieOf 0 < 12
    ∧ s.readableFor (some (dieOf 0)) (0x50000 / 128) = true ∧ Bank.find (s.core 1).overflow 1 = none
    ∧ orderOk s 0 ((s.core 0).chan 1) t t.piece.2.1 (.own 0 0x1000) t.piece.2.2 = true
    ∧ (match t.place s 0 .load t.piece.1 t.srcPage, t.place s 0 .store t.piece.2.1 t.dstPage with
       | .ok (.hbm pa), .ok (.own w o) => decide (pa = 0x50000 ∧ w = 0 ∧ o = 0x1000)
       | _, _ => false) = true
    ∧ (0x50000 % 128 + t.piece.2.2 ≤ 128 ∧ s.lockedBy (.hbm (0x50000 / 128)) none = false ∧ s.combines (dieOf 0) (0x50000 / 128) = false)
    ∧ s.scratchLocked 0 (0x1000 / 128) = false ∧ s.frame 0x50000 = .plain ∧ s.settled (0x50000 / 128) = true
    ∧ s.runsAsid 9 1 = false ∧ s.runsAsid 1 1 = true := by decide +kernel

/-- A piece from host memory, and one from package 3: asked for, and come. -/
theorem test_meets_CopyTransferResult_request :
    let hostPage : TlbEntry := ⟨1, 0, 29, 0x7F⟩
    let peerPage : TlbEntry := ⟨1, 0, 29, 0xBF + 3 * 2 ^ 52⟩
    let t (p : TlbEntry) : Transfer := { someTransfer with srcPage := some p }
    ∀ p ∈ [hostPage, peerPage], let s := copying [t p]
      let c : Transfer := { t p with fetch := some (0, some (7, 0)) }
      s.transfer 0 1 1 = some (t p) ∧ s.transferRuns 0 1 (t p) = true ∧ (t p).written_ = false ∧ (t p).lacks = false
      ∧ (t p).fetch = none ∧ c.fetch = some (0, some (7, 0)) ∧ (copying [c]).transferRuns 0 1 c = true ∧ s.hostLink = true
      ∧ orderOk s 0 ((s.core 0).chan 1) (t p) (t p).piece.2.1 (.own 0 0x1000) (t p).piece.2.2 = true
      ∧ (match (t p).place s 0 .load (t p).piece.1 (t p).srcPage, (t p).place s 0 .store (t p).piece.2.1 (t p).dstPage with
         | .ok (.host a), .ok (.own w o) => decide (a = 0x50000 ∧ w = 0 ∧ o = 0x1000 ∧ p = hostPage)
         | .ok (.peer k a), .ok (.own w o) => decide (k = 3 ∧ a = 0x50000 ∧ w = 0 ∧ o = 0x1000 ∧ p = peerPage)
         | _, _ => false) = true := by decide +kernel

theorem test_meets_CopyTransferResult_end :
    let s := copying [someTransfer, landedTransfer]
    landedTransfer.landed = true ∧ s.holdsPiece 0 1 2 = false ∧ s.transfer 0 1 2 = some landedTransfer
    ∧ landedTransfer.follow = some (1, 0, 0, 0, 0) ∧ (runFollow 0 (s.core 0) (1, 0, 0, 0, 0)).stop.isNone = true ∧ (s.core 0).halted = false
    ∧ ({ landedTransfer with follow := none } : Transfer).landed = true := by decide +kernel

theorem test_meets_CopyTransferResult_fault :
    let s := copying [someTransfer]
    s.transfer 0 1 1 = some someTransfer ∧ someTransfer.fault = none ∧ someTransfer.followFault = false
    ∧ s.scratchLocked 0 (0x2000 / 128) = false ∧ 0x2000 % 16 = 0 ∧ s.runsAsid 0 1 = true ∧ Bank.find (s.core 0).overflow 1 = none
    ∧ s.flight = [] := by decide +kernel

theorem test_meets_CopyTransferResult_wait :
    let s := (copying []).mapCore 0 (fun c => { c with main := { c.main with wait := some (.cpywait 1 0) } })
    (s.core 0).main.wait = some (.cpywait 1 0) ∧ ((s.core 0).chan 1).waitDone 0 = some false := by decide +kernel

/-- A contribution of one FP32 element, and the buffer it opens. -/
def someContribution : Contribution :=
  { core := 0, chan := 1, tid := 1, die := 0, line := 5, etype := 5, data := 0x3F800000, mask := 0xF, poison := 0 }

def someBuffer : CombBuf := { die := 0, line := 5, etype := 5, sum := 0x3F800000, mask := 0xF, parts := [(0, 1, 1, 4)], poisoned := 0 }

theorem test_meets_CopyTransferResult_combine :
    let s := { booted with combine := [someBuffer] }
    let c := someContribution
    booted.combine.find? (fun b => b.die == c.die && b.line == c.line) = none
    ∧ s.combine.find? (fun b => b.die == c.die && b.line == c.line) = some someBuffer ∧ someBuffer.etype = c.etype ∧ someBuffer.sent = false
    ∧ s.combine.find? (fun b => b.die == 0 && b.line == 5) = some someBuffer ∧ s.frame (5 * 128) = .plain ∧ s.settled 5 = true := by
  decide +kernel

/-- A record of 16 iterations in chunks of 4 on two positions, with nothing live. -/
def someRecord : Nat := 0x20000 + (2 * 2 ^ 24 + 1 * 2 ^ 40 + 4 * 2 ^ 48) * 2 ^ 64 + (16 * 2 ^ 13 + 1 * 2 ^ 26) * 2 ^ 128

/-- A region of 16 iterations with a FORWARD and a STRIDE live-in, and chunks `cs`. -/
def someRegion (cs : List Chunk) : Region :=
  { frec := { body := 0x20000, per := 4, order := 0, width := 2, levels := [⟨0, 16, 1⟩],
              lives := [⟨.forward, false, 20, 0, 0⟩, ⟨.stride, false, 21, 2, 0⟩], reads := [], writes := [], raw := 0 },
    total := 16, assured := false, home := 0, snap := {}, snapLts := 0, joinPc := 0x1000, chunks := cs }

/-- That region on ring 0, with registers `r` on core 0. -/
def inRegion (r : Bank Word) (g : Region) : State := (mainAt r).mapRing 0 (fun x => { x with region := some g })

/-- Chunk `q`, running. -/
def runningChunk (q : Nat) (spec : Bool) : Chunk := { q := q, st := .running, spec := spec, onCore := true }

theorem test_meets_ForkResult :
    let s := (mainAt [(1, own 0 0x7FF80)]).mapCore 0 (fun c => { c with scratch := writeBytes [] 0x7FF80 128 someRecord })
    let u := { bootedWith [(1, 0x50000)] with hbm := writeBytes booted.hbm 0x50000 128 someRecord }
    let v := inRegion [(1, own 0 0x7FF80)] (someRegion [runningChunk 0 false])
    (s.curH = false ∧ s.ctx.atLoopEnd = false ∧ s.speculative = false ∧ s.me.seq = none ∧ (s.ctx.x 1).toNat % 128 = 0)
    ∧ (s.ownPlace (s.ctx.x 1) 0 0x7FF80 ∧ 0x7FF80 + 128 ≤ windowLim 0 ∧ s.cleanLine (0x7FF80 / 128)
      ∧ s.lockedBy (.scratch s.cur (0x7FF80 / 128)) none = false ∧ readBytes s.me.scratch 0x7FF80 128 = someRecord ∧ recordOk someRecord = true ∧ s.chunk = none ∧ isRingCore s.cur = true ∧ s.region = none)
    ∧ ((resolves u .load 0x50000).map (·.1) = some (.hbm 0x50000) ∧ plainLine u (0x50000 / 128) = true ∧ poisoned u.poison 0x50000 128 = false
      ∧ u.currentBytes 0x50000 128 = someRecord ∧ u.sound u.cur)
    ∧ v.chunk.isSome = true ∧ v.speculative = false ∧ v.me.seq = none ∧ v.awaited v.cur = [] := by
  simp only [State.ownPlace, State.cleanLine, State.sound]; decide +kernel

theorem test_meets_ChunkEndResult_chunk :
    let k := runningChunk 0 true
    let s := inRegion [] (someRegion [k])
    s.curH = false ∧ s.chunk = some k ∧ s.region = some (someRegion [k]) ∧ s.me.seq = none ∧ s.ctx.atLoopEnd = false ∧ copiesOf s.me k.q = false
    ∧ (someRegion [k]).frec.lives[(0 : BitVec 3).toNat]? = some ⟨.forward, false, 20, 0, 0⟩
    ∧ (⟨.forward, false, 20, 0, 0⟩ : LiveIn).passes = true ∧ k.sent.contains 0 = false
    ∧ (someRegion [k]).find k.q = some k ∧ k.spec = true ∧ (someRegion [k]).ensignQ = k.q ∧ k.versions = [] ∧ k.reads = [] ∧ k.owed = []
    ∧ k.commitTs = none ∧ k.pastCend = false := by decide +kernel

/-- A sequential region in chunk `q` of four, with the core at its join when it is complete. -/
def sequential (q : Nat) (done : Bool) : State :=
  (mainAt []).mapCore 0 (fun c => { c with seq := some { frec := (someRegion []).frec, total := 16, joinPc := 0x1000, snap := {}, q := q, complete := done } })

theorem test_meets_ChunkEndResult_sequential :
    let g (q : Nat) (d : Bool) : SeqRegion := { frec := (someRegion []).frec, total := 16, joinPc := 0x1000, snap := {}, q := q, complete := d }
    (∀ q ∈ [0, 3], (sequential q false).me.seq = some (g q false) ∧ (sequential q false).ctx.atLoopEnd = false)
    ∧ ((g 0 false).q + 1 < (g 0 false).frec.chunks 16 ∧ ¬(g 3 false).q + 1 < (g 3 false).frec.chunks 16)
    ∧ ((g 0 false).frec.lives[(1 : BitVec 3).toNat]? = some ⟨.stride, false, 21, 2, 0⟩ ∧ (⟨.stride, false, 21, 2, 0⟩ : LiveIn).passes = true
      ∧ Bank.find (g 0 false).sent 1 = none)
    ∧ (sequential 3 true).me.seq = some (g 3 true) ∧ (g 3 true).joinPc = (sequential 3 true).ctx.pc ∧ (sequential 3 true).ctx.wait = none := by
  decide +kernel

theorem test_meets_ChunkEndResult_join :
    let r := someRegion []
    let d : Region := { r with ensignQ := 4, final := some {} }
    (∀ g ∈ [r, d], (inRegion [] g).me.seq = none ∧ (inRegion [] g).chunk = none ∧ (inRegion [] g).region = some g ∧ g.home = 0
      ∧ g.joinPc = (inRegion [] g).ctx.pc ∧ (inRegion [] g).ctx.wait = none)
    ∧ r.complete = false ∧ d.complete = true ∧ (mainAt []).speculative = false := by decide +kernel

theorem test_meets_ChunkEventResult_placement :
    let r : Region := { someRegion [] with parked := some {} }
    let s := inRegion [] r
    let b : Region := { r with chunks := [runningChunk 0 true] }
    (s.ring 0).region = some r ∧ (s.ring 0).stopFor = none ∧ r.parked.isSome = true ∧ r.youngerStopped = false ∧ r.next < r.count
    ∧ r.chunks.length < Nat.min 8 (2 * r.frec.width) ∧ r.chunks = []
    ∧ (b.next < b.count ∧ (b.find b.next).isSome = true ∧ ¬b.chunks.all (fun c => decide (c.q < b.next))) := by decide +kernel

theorem test_meets_ChunkEventResult_start :
    let c : Chunk := { q := 0, spec := true }
    let r : Region := { someRegion [c] with parked := some {}, next := 1 }
    let s := inRegion [] r
    r.find 0 = some c ∧ s.mayStart 0 r c = true := by decide +kernel

theorem test_meets_ChunkEventResult_record : (someRegion []).frec.legal := by
  simp only [ForkRec.legal]; decide +kernel

theorem test_meets_ChunkEventResult_liveIn :
    let placed : Chunk := { q := 1, spec := true }
    let i : Instr := .liveInArrival 0 1 0 5
    let s := { inRegion [] (someRegion [placed]) with flight := [i, .ensignArrival 0 1 0] }
    (s.mayDeliver 0 i = true ∧ (someRegion []).assured = false ∧ ({ someRegion [] with ensignQ := 1 } : Region).ensignQ = 1) ∧
    (someRegion [placed]).find 1 = some placed ∧ placed.st = .placed
    ∧ (someRegion [runningChunk 1 true]).find 1 = some (runningChunk 1 true) ∧ (runningChunk 1 true).onCore = true
    ∧ (runningChunk 1 true).st ≠ .placed ∧ (runningChunk 1 true).st ≠ .squashed
    ∧ (let w : Chunk := { runningChunk 1 true with st := .waitingLiveIn, awaits := [0] }
       (someRegion [w]).find 1 = some w ∧ w.st = .waitingLiveIn ∧ 0 ∈ w.awaits ∧ 1 ∉ w.awaits)
    ∧ (someRegion []).frec.lives[0]? = some ⟨.forward, false, 20, 0, 0⟩ ∧ (someRegion []).frec.lives[1]? = some ⟨.stride, false, 21, 2, 0⟩ := by
  decide +kernel

/-- Chunk 0 has a version of line 3 of core 0, and chunk 1 has read it from there. -/
def versionOf3 : Version := { line := .scratch 0 3, data := 0, mask := 1, count := 1 }

theorem test_meets_ChunkEventResult_probe :
    let old : Chunk := { runningChunk 0 true with versions := [versionOf3] }
    let young : Chunk := { runningChunk 1 true with reads := [⟨.scratch 0 3, .chunk 0 0⟩] }
    let older := ((someRegion [old, young]).chunks.filter (fun c => decide (c.q < 1))).reverse
    (∀ i ∈ [Instr.versionProbe 0 1 (.scratch 0 3), .probeAnswer 0 1 (.scratch 0 3) .none, .storeBroadcast 0 0 1 (.scratch 0 3) 1,
        .broadcastAcknowledgement 0 1 0, .squashNotice 0 1 1],
      { inRegion [] (someRegion [old, young]) with flight := [i] }.mayDeliver 0 i = true) ∧ older = [] ++ old :: [] ∧ old.versions.find? (fun v => decide (v.line = .scratch 0 3)) = some versionOf3
    ∧ (someRegion [old, young]).find 1 = some young ∧ young.st ≠ .squashed ∧ young.spec = true
    ∧ (⟨.scratch 0 3, .chunk 0 0⟩ : ReadRec) ∈ young.reads ∧ young.inRange (.scratch 0 3) = false := by decide +kernel

theorem test_meets_ChunkEventResult_squash :
    let c := runningChunk 1 true
    let d : Chunk := { c with st := .squashed }
    let s := inRegion [] (someRegion [d])
    ((someRegion [c]).find 1 = some c ∧ c.st ≠ .squashed) ∧ s.flight = [] ∧ d ∈ (someRegion [d]).chunks ∧ d.st = .squashed := by
  decide +kernel

theorem test_meets_CommitResult :
    let c : Chunk := { runningChunk 0 true with pastCend := true, onCore := false, st := .waitingEnsign, versions := [versionOf3] }
    let a : Chunk := { c with spec := false, versions := [] }
    let r := someRegion [c]
    let ra : Region := { someRegion [a] with assured := true }
    let s := inRegion [] r
    (r.find 0 = some c ∧ c.pastCend = true ∧ r.ensignQ = 0 ∧ c.st ≠ .squashed ∧ r.assured = false ∧ c.commitTs = none ∧ c.owed = []
      ∧ c.reads = [] ∧ (c.versions.map (·.line)).Nodup ∧ r.coreOf 0 0 = 0 ∧ s.lockedBy (.scratch 0 3) (some 0) = false ∧ s.pins = []
      ∧ { s with flight := [.ensignArrival 0 1 5] }.mayDeliver 0 (.ensignArrival 0 1 5) = true)
    ∧ (ra.find 0 = some a ∧ ra.assured = true ∧ (inRegion [] ra).assuredDone 0 ra a = true)
    ∧ (let d : Region := { someRegion [] with ensignQ := 4, parked := some {} }
       d.parked = some {} ∧ d.complete = true ∧ ((inRegion [] d).core d.home).awake = true ∧ ({} : Ctx).atLoopEnd = false) := by
  decide +kernel
theorem test_meets_SystemRegisterResult :
    let s := mainAt [(1, 5), (2, 7)]
    let u := { State.reset with cur := 768 }
    (s.speculative = false ∧ s.curH = false ∧ isRingCore s.cur = true ∧ s.atS = false ∧ (s.ctx.x 1).toNat % 8 < 6 ∧ 6 ≤ (s.ctx.x 2).toNat % 8)
    ∧ u.atS = true ∧ u.speculative = false ∧ (0x800 : BitVec 12).getLsbD 11 = true ∧ (0x03F : BitVec 12).getLsbD 11 = false
    -- undefined numbers beside defined ones, of both kinds
    ∧ ∀ num ∈ ([0x005, 0x00F, 0x040, 0x7FF, 0x805, 0x812, 0xFFF] : List (BitVec 12)),
        num ∉ ([0x000, 0x001, 0x002, 0x003, 0x004, 0x010, 0x011, 0x012, 0x018, 0x020, 0x021, 0x022, 0x028, 0x030, 0x031, 0x032, 0x033,
          0x038, 0x03F, 0x800, 0x801, 0x802, 0x803, 0x804, 0x810, 0x811] : List (BitVec 12)) ∧ (num.getLsbD 11 = true → u.atS = true) := by
  decide +kernel

theorem test_meets_TrapResult :
    let s := mainAt []
    let u := { State.reset with cur := 768 }
    (s.curH = false ∧ s.chunk = none ∧ s.ctx.atLoopEnd = false ∧ s.atS = false ∧ s.me.prv = false)
    ∧ u.atS = true ∧ u.ctx.atLoopEnd = false ∧ u.chunk = none ∧ u.speculative = false ∧ u.me.prv = true := by decide +kernel

/-- Two cores of die 0 with areas side by side; one holds a record. The package is up, or not yet. -/
theorem test_meets_TrapResult_curator :
    let c := fun n a => ({ Core.reset n with dead := [(1, a)] } : Core)
    let s := { State.reset with cores := [(0, c 0 0x600000), (1, c 1 0x608000)], hbm := [(0x600000, 1)], up := true }
    let areas := (s.cores.filter (fun e => dieOf e.1 == dieOf 768)).flatMap (fun e => e.2.dead.map (fun a => (e.1, a)))
    areas = [(0, 1, 0x600000), (1, 1, 0x608000)] ∧ areas.Pairwise (fun a b => a.2.2 + 0x8000 ≤ b.2.2 ∨ b.2.2 + 0x8000 ≤ a.2.2)
    ∧ (s.deadProd 0x600000 + 2 ^ 32 - s.deadCons 0x600000) % 2 ^ 32 = 1 ∧ s.up = true ∧ State.reset.up = false := by decide +kernel

/-- A range of one frame at 0x50000, its entry when it is active, and core 0 waiting for the seal of entry 3. -/
def activeEntry (depth : Nat) : VitEntry := { base := 0x50000, len := 0x10000, asid := 1, gen := 7, depth := depth, st := .active, frames := [5] }

def frozenState (e : VitEntry) : State :=
  { bootedWith [(1, 0x50000), (2, 0x10000), (3, handleOf 3 e)] with vit := [(3, e)] }

theorem test_meets_FreezeResult_frz :
    let s := bootedWith [(1, 0x50000), (2, 0x10000)]
    (s.curH = false ∧ s.speculative = false ∧ s.mirrorsDone (dieOf s.cur) = true ∧ s.sound s.cur ∧ (s.ctx.x 1).toNat % 65536 = 0
      ∧ (s.ctx.x 2).toNat % 65536 = 0 ∧ (s.ctx.x 2).toNat ≠ 0 ∧ (s.ctx.x 1).toNat + (s.ctx.x 2).toNat ≤ 2 ^ 64)
    ∧ (∀ u ∈ [s, frozenState (activeEntry 14)], (match framesFrom 0x50000 1 u with
        | .ok (fs, _) => decide (fs = [5].map some)
        | .error _ => false) = true)
    ∧ ((frozenState (activeEntry 14)).vit.find? (fun e => e.2.live && e.2.asid == 1 && e.2.base == 0x50000 && e.2.len == 0x10000)
        = some (3, activeEntry 14) ∧ (activeEntry 14).st = .active ∧ (activeEntry 14).depth < 15)
    ∧ s.vit = [] ∧ s.frame (5 * 65536) ≠ .collecting ∧ (s.vitEntry 511).st = .free := by simp only [State.sound]; decide +kernel

theorem test_meets_FreezeResult_seal :
    let e : VitEntry := { activeEntry 0 with st := .sealing }
    let s := { frozenState e with frames := [(5, .sealing)] }
    (s.vitEntry 3).st = .sealing ∧ s.sealed (s.vitEntry 3).frames = true ∧ (∀ f ∈ (s.vitEntry 3).frames, s.frame (f * 65536) = .sealing) ∧ (s.cores.map (·.1)).Pairwise (· < ·) := by decide +kernel

theorem test_meets_FreezeResult_thaw :
    ∀ d ∈ [0, 1], let e := activeEntry d
      let s := frozenState e
      s.speculative = false ∧ s.tagErrors = [] ∧ s.handleEntry 1 (s.ctx.x 3) = some (3, e) ∧ s.me.asid.toNat = 1 ∧ e.st = .active
      ∧ (s.vit.map (·.1)).Pairwise (· < ·) := by decide +kernel

theorem test_meets_FreezeResult_tickets :
    let tk : Tickets := { issued := 2, done := 1, running := [(2, 3, [5])] }
    let s := { bootedWith [(1, 1), (2, 2)] with tickets := [(1, tk)] }
    let u := s.mapCore 0 (fun c => { c with main := { c.main with wait := some (.thawq 7 1) } })
    (Bank.get {} s.tickets 1 : Tickets).running = (2, 3, [5]) :: [] ∧ (s.annex.map (·.1)).Pairwise (· < ·)
    ∧ ((s.ctx.x 1).toNat ≤ tk.issued ∧ (s.ctx.x 1).toNat ≤ tk.done) ∧ ((s.ctx.x 2).toNat ≤ tk.issued ∧ tk.done < (s.ctx.x 2).toNat)
    ∧ s.curH = false ∧ s.speculative = false ∧ (u.core 0).main.wait = some (.thawq 7 1)
    ∧ (1 : Word).toNat ≤ (Bank.get {} u.tickets (u.core 0).asid.toNat : Tickets).done := by decide +kernel

theorem test_meets_CacheResult :
    let s := bootedWith [(1, 0x50000), (2, own 0 64)]
    let u := s.mapCore 0 (fun c => { c with prv := true })
    let f := { u with frames := [(5, .frozen)] }
    (u.atS = true ∧ u.speculative = false ∧ u.mirrorsDone (dieOf u.cur) = true ∧ u.vit = []
      ∧ ∀ c ∈ u.cores, ∀ ch ∈ c.2.chans, ∀ t ∈ ch.2.transfers, (⟨0, some 1, none⟩ : Shoot).holds t = false)
    ∧ u.usesNamed ⟨0, some 1, none⟩ = false ∧ u.ownNamed ⟨0, some 1, none⟩ = none ∧ u.sound u.cur
    ∧ ((resolves u .load 0x50000).map (·.1) = some (.hbm 0x50000) ∧ (resolves s .load (own 0 64).toNat).map (·.1) = some (.own 0 64))
    ∧ u.mpDie (0x50000 / 128) = none ∧ u.frame (0x50000 / 128 * 128) ≠ .frozen ∧ f.frame (0x50000 / 128 * 128) = .frozen
    ∧ u.settled (0x50000 / 128) = true := by simp only [State.sound]; decide +kernel

/-- Line 2560, whose home is die 0, in the Catalogue and in the Annexes of dies 1 and 2. -/
def lineState (e : CatEntry) (a b : Moesi) : State :=
  { State.reset with cat := [(2560, e)], annex := [(1 * 2 ^ 34 + 2560, { st := a, rts := 9 }), (2 * 2 ^ 34 + 2560, { st := b })] }

theorem test_meets_CatalogueResult_requests :
    let none_ := lineState {} .i .i
    let sh := lineState { st := .sh, sharers := 6 } .s .s
    let xc := lineState { st := .xc, owner := 1 } .e .i
    let ow := lineState { st := .ow, owner := 1, sharers := 4 } .o .s
    2560 < 2 ^ 34 ∧ none_.homeLine 2560 = 0
    ∧ (∀ s ∈ [none_, sh, xc, ow], s.frame (2560 * 128) = .plain ∧ (s.catEntry 2560).busy = none ∧ (s.catEntry 2560).st ≠ .rcl
      ∧ s.hasRoom 2560 = true ∧ (s.catEntry 2560).waiting = [] ∧ s.pinned 0 2560 = false ∧ s.tagErrors = [])
    ∧ (none_.catEntry 2560).st = .none ∧ (sh.catEntry 2560).st = .sh ∧ (sh.catEntry 2560).sharersBut 2 ≠ []
    ∧ ((xc.catEntry 2560).st = .xc ∧ (xc.catEntry 2560).owner ≠ 2)
    ∧ (ow.catEntry 2560).st = .ow ∧ (ow.catEntry 2560).owner ≠ 2 ∧ (ow.catEntry 2560).owner = 1 ∧ (ow.catEntry 2560).sharersBut 1 ≠ [] := by
  decide +kernel

theorem test_meets_CatalogueResult_answers :
    let s := lineState { st := .sh, sharers := 6, busy := some ⟨2, .rfo⟩, awaiting := [1] } .s .s
    let e := lineState { st := .xc, owner := 1, busy := some ⟨2, .rd⟩, awaiting := [1] } .e .i
    let v := lineState { st := .xc, owner := 1 } .m .i
    (2 ≠ s.homeLine 2560 ∧ s.annexRoom 2 2560 = true ∧ (∀ o, (s.annexLine 2 2560).st ≠ .mp o) ∧ (∀ o, Moesi.s ≠ .mp o) ∧ Moesi.s ≠ .f)
    ∧ (s.pinned 1 2560 = false ∧ (s.catEntry 2560).busy = some ⟨2, .rfo⟩ ∧ (s.catEntry 2560).awaiting.erase 1 = [])
    ∧ (e.pinned 1 2560 = false ∧ (e.annexLine 1 2560).st = .e)
    ∧ (∀ u ∈ [v, lineState {} .f .i], u.homeLine 2560 ≠ 1 ∧ (u.annexLine 1 2560).st ≠ .i
      ∧ (u.annexVictim 1 (u.annexSet 1 2560)).map (·.1) = some (1 * 2 ^ 34 + 2560))
    ∧ 0 = (Bank.get 0 v.mirrorDone (mirrorKey 1 2560 0)).toNat
    ∧ ((lineState {} (.mp true) .i).annexLine 1 2560).st = .mp true := by decide +kernel

theorem test_meets_VitrineCommitCatalogueComplete_vitrine :
    let e := activeEntry 0
    let s := { frozenState e with tickets := [(1, { issued := 2, done := 2 })] }
    let u := { frozenState { e with st := .sealing } with frames := [(5, .sealing)] }
    let w := { s with tickets := [(1, { issued := 2, done := 1, running := [(2, 3, [5])] })] }
    let z := s.mapCore 0 (fun c => { c with main := { c.main with wait := some (.thawq 7 2) } })
    (s.curH = false ∧ s.speculative = false ∧ s.mirrorsDone (dieOf s.cur) = true ∧ (s.ctx.x 1).toNat % 65536 = 0
      ∧ (s.ctx.x 2).toNat % 65536 = 0 ∧ (s.ctx.x 2).toNat ≠ 0 ∧ (s.ctx.x 1).toNat + (s.ctx.x 2).toNat ≤ 2 ^ 64
      ∧ (match framesFrom 0x50000 1 s with
        | .ok (fs, _) => decide (fs = [5].map some)
        | .error _ => false) = true
      ∧ s.vit.find? (fun e => e.2.live && e.2.asid == 1 && e.2.base == 0x50000 && e.2.len == 0x10000) = some (3, e)
      ∧ e.st = .active ∧ e.depth < 15 ∧ s.handleEntry 1 (s.ctx.x 3) = some (3, e) ∧ s.sound s.cur
      ∧ (s.ctx.x 10).toNat ≤ (Bank.get {} s.tickets 1 : Tickets).issued ∧ (s.ctx.x 10).toNat ≤ (Bank.get {} s.tickets 1 : Tickets).done)
    ∧ ((u.vitEntry 3).st = .sealing ∧ u.sealed (u.vitEntry 3).frames = true ∧ ∀ f ∈ (u.vitEntry 3).frames, u.frame (f * 65536) = .sealing)
    ∧ (Bank.get {} w.tickets 1 : Tickets).running = (2, 3, [5]) :: []
    ∧ ((z.core 0).main.wait = some (.thawq 7 2) ∧ (2 : Word).toNat ≤ (Bank.get {} z.tickets (z.core 0).asid.toNat : Tickets).done) := by
  simp only [State.sound]; decide +kernel

theorem test_meets_VitrineCommitCatalogueComplete_chunks :
    let a : Chunk := { runningChunk 0 true with pastCend := true, onCore := false, st := .waitingEnsign, spec := false }
    let r : Region := { someRegion [a] with assured := true }
    let d : Region := { someRegion [] with ensignQ := 4, parked := some {} }
    (r.find 0 = some a ∧ a.pastCend = true ∧ r.ensignQ = 0 ∧ a.st ≠ .squashed ∧ r.assured = true ∧ (inRegion [] r).assuredDone 0 r a = true)
    ∧ { inRegion [] r with flight := [.ensignArrival 0 1 5] }.mayDeliver 0 (.ensignArrival 0 1 5) = true
    ∧ d.parked = some {} ∧ d.complete = true ∧ ((inRegion [] d).core d.home).awake = true ∧ ({} : Ctx).atLoopEnd = false := by
  decide +kernel

theorem test_meets_VitrineCommitCatalogueComplete_lines :
    let s := lineState {} .i .i
    let v := lineState { st := .xc, owner := 1, busy := some ⟨2, .rfo⟩, awaiting := [1] } .m .i
    let q := lineState { st := .xc, owner := 1 } .m .i
    let p := lineState {} (.mp true) .i
    (1 < 12 ∧ 2560 < 2 ^ 34 ∧ s.homeLine 2560 = 0 ∧ s.frame (2560 * 128) = .plain ∧ (s.catEntry 2560).busy = none
      ∧ (s.catEntry 2560).st = .none ∧ s.hasRoom 2560 = true ∧ (s.catEntry 2560).waiting = [] ∧ s.pinned 0 2560 = false
      ∧ s.tagErrors = [])
    ∧ (s.annexRoom 2 2560 = true ∧ Moesi.e ≠ .f ∧ 2 ≠ s.homeLine 2560 ∧ (∀ o, (s.annexLine 2 2560).st ≠ .mp o) ∧ ∀ o, Moesi.e ≠ .mp o)
    ∧ (v.pinned 1 2560 = false ∧ (v.annexLine 1 2560).st = .m ∧ (v.catEntry 2560).busy = some ⟨2, .rfo⟩)
    ∧ (q.pinned 1 2560 = false ∧ q.homeLine 2560 ≠ 1 ∧ (q.annexLine 1 2560).st ≠ .i
      ∧ (q.annexVictim 1 (q.annexSet 1 2560)).map (·.1) = some (1 * 2 ^ 34 + 2560))
    ∧ 0 = (Bank.get 0 s.mirrorDone (mirrorKey 1 2560 (s.homeLine 2560))).toNat ∧ (p.annexLine 1 2560).st = .mp true := by decide +kernel

theorem test_meets_DropResult :
    let s := { State.reset with up := true, dropped := [(4, 5)], restorable := [4] }
    (7 < 8 ∧ s.mpDie (s.capsFrame / 128) = none) ∧ (0 < 4 ∧ s.lostXd.contains 0 = false ∧ s.dropping = [] ∧ s.quarterHeld 0 = false ∧ s.annex = [] ∧ s.cat = [])
    ∧ s.recovery = false ∧ s.inSequence = false
    ∧ (11 < 12 ∧ s.fullDropped.contains 11 = false ∧ Bank.find s.dropped 11 = none
      ∧ (∀ g ∈ (List.range 8).map (11 * 8 + ·), (s.ring g).running = none)
      ∧ ∀ n ∈ (List.range 64).map (11 * 64 + ·), (s.core n).queue = [] ∧ (s.core n).overflow = [])
    ∧ s.fullDropped.contains 4 = false ∧ s.restorable.contains 4 = true ∧ s.faultyCompute.contains 4 = false
    ∧ (Bank.find s.dropped 4).isSome = true := by decide +kernel

/-- A packet with one argument, priority 1, SIGREG 7 and its signal enabled, and its word. -/
def packetWord : BitVec 1024 :=
  BitVec.ofNat 1024 (0x10000 + 16 * 2 ^ 64 + (7 * 2 ^ 16 + 2 ^ 44 + 1 * 2 ^ 45 + 1 * 2 ^ 47) * 2 ^ 192 + 0x55 * 2 ^ 256)

def somePacket21 : Packet21 :=
  { entry := 0x10000, n := 16, waitVal := 0, pairMask := 0, nargs := 1, prio := 1, sigEn := true, waitEn := false, sigReg := 7, waitReg := 0,
    args := 0x55 :: List.replicate 23 0 }

def someLaunch : Launch := { pkt := somePacket21, asid := 1 }

/-- The package up, with address space 1 and ring `g` at 5. -/
def launching (g : Ring) : State :=
  { State.reset with up := true, spaces := [(1, { ptbase := 0x20 })], rings := [(5, g)], windows := [(5, { pkt := packetWord, asid := 1 })],
                     broadcastWin := { pkt := packetWord, asid := 1, maskLo := 0x20 } }

theorem test_meets_LaunchQueueResult :
    let s := launching {}
    let m : Msg := { src := 9, host := false, peer := none, vec := true, dst := 40, toHost := false, toPeer := none, cls := 63, asid := 1,
                     stamp := 3, re := true, rclass := 7, len := 128, payload := packetWord.setWidth 4096 }
    packetOf packetWord = some somePacket21 ∧ s.up = true ∧ s.hostLink = true ∧ s.ringDead 5 = false ∧ (Bank.find s.spaces 1).isSome = true
    ∧ (s.ring 5).queue.length < 16 ∧ s.broadcastWin.maskHi.append s.broadcastWin.maskLo ≠ 0
    ∧ ((s.broadcastWin.maskHi.append s.broadcastWin.maskLo : BitVec 96).getLsbD 5 = true)
    ∧ (m.dst / 8 = 5 ∧ m.host = false ∧ m.peer = none ∧ m.toPeer = none ∧ m.vec = true ∧ m.len = 128
      ∧ { s with flight := [.launchMessage m] }.firstOf (sameRoute none m.src m.dst) (.launchMessage m) = true ∧ packetOf (m.payload.setWidth 1024) = some somePacket21)
    ∧ (launching { queue := [someLaunch] }).ring 5 = { queue := [someLaunch] } ∧ someLaunch.fence = [] := by decide +kernel

/-- Refusal reasons 4, 1, 3 and 2. -/
theorem test_meets_LaunchQueueResult_reasons :
    ({ launching {} with fullDropped := [0] }).ringDead 5 = true ∧ packetOf (packetWord ||| 1) = none
    ∧ (Bank.find (launching {}).spaces 2).isNone = true ∧ (launching { queue := List.replicate 16 someLaunch }).ringDead 5 = false
    ∧ ((launching { queue := List.replicate 16 someLaunch }).ring 5).queue.length = 16 := by decide +kernel

/-- Is a candidate for ring 5 a queued or a held launch? -/
def candidateKind (s : State) : Nat :=
  match s.candidate 5 with
  | none => 0
  | some (.queued _) => 1
  | some (.held _) => 2

theorem test_meets_LaunchRunResult_start :
    let s := launching { queue := [someLaunch] }
    let u := launching { saved := [{ launch := someLaunch, cores := List.replicate 8 {}, region := none }] }
    (s.ringFree 5 = true ∧ candidateKind s = 1) ∧ (u.ringFree 5 = true ∧ candidateKind u = 2)
    ∧ ∀ n ∈ (List.range 8).map (5 * 8 + ·), (s.core n).overflow = [] := by decide +kernel

theorem test_meets_LaunchRunResult_stop :
    let s := launching { running := some { someLaunch with pkt := { somePacket21 with prio := 0 } }, queue := [someLaunch] }
    let l : Launch := { someLaunch with pkt := { somePacket21 with prio := 0 } }
    (s.ring 5).running = some l ∧ (s.ring 5).stopFor = none ∧ (s.ring 5).stopped = false ∧ (s.ring 5).region = none
    ∧ (s.preemptor 5).isSome = true
    ∧ (∀ n ∈ (List.range 8).map (5 * 8 + ·), (s.core n).atStop = true)
    ∧ (let u := launching { running := some l, stopFor := some .command }
       (u.ring 5).stopFor = some .command ∧ ∀ n ∈ (List.range 8).map (5 * 8 + ·), (u.core n).atStop = true)
    ∧ ((launching { running := some l, stopFor := some .preempt }).ring 5).stopFor = some .preempt
    ∧ ((launching { saved := [{ launch := someLaunch, cores := [], region := none }] }).ring 5).saved.find? (fun v => v.launch.pkt.prio == 1)
        = some { launch := someLaunch, cores := [], region := none } := by decide +kernel

theorem test_meets_LaunchRunResult_complete :
    let s := (launching { running := some someLaunch }).mapCore 40 (fun c => { c with prv := true, pprv := false, causeCode := 4, tval := 0 })
    let u := (launching { running := some someLaunch }).mapCore 41 (fun c => { c with prv := true, pprv := false, causeCode := 0x16 })
    ((s.ring 5).running = some someLaunch ∧ s.trapZero 5 = true ∧ s.drained 5 = true)
    ∧ u.handling 41 = true ∧ u.trapZero 5 = false ∧ u.atBreakpoint 41 = false := by decide +kernel

/-- Core 41 of a running launch at S with a trap of cause `code` at 0x1000, in an address space of policy `sp`. -/
def trapped (code : BitVec 7) (sp : Space) (retried : Option Word) : State :=
  { launching { running := some someLaunch } with spaces := [(1, sp)] }.mapCore 41
    (fun c => { c with prv := true, pprv := false, causeCode := code, asid := 1, ptbase := 0x20, epc := 0x1000, retried := retried })

/-- Every case of the fault policy: an uncorrectable check, first and again; a cause that cannot restart; a load-translation
that the policy does not wait for, waits for within a limit, and without one; and a load-protection of a page that has gone. -/
theorem test_meets_LaunchRunResult_policy :
    (∀ s ∈ [trapped 0x51 {} none, trapped 0x51 {} (some 0x1000), trapped 0x16 {} none, trapped 0x11 {} none,
        trapped 0x11 { waits := true } none, trapped 0x11 { waits := true, limited := false } none, trapped 0x14 { waits := true } none],
      41 ∈ (List.range 8).map (5 * 8 + ·) ∧ (s.ring 5).running = some someLaunch ∧ s.handling 41 = true ∧ s.trapZero 5 = false
      ∧ s.atBreakpoint 41 = false)
    ∧ restartable 0x51 = true ∧ (restartAccess 0x51).isSome = false ∧ restartable 0x16 = false ∧ restartable 0x11 = true
    ∧ (restartAccess 0x11).isSome = true ∧ (trapped 0x11 { waits := true } none).conditionGone 41 = false
    ∧ restartable 0x14 = true ∧ (trapped 0x14 { waits := true } none).conditionGone 41 = true
    ∧ (launching {}).recovery = false ∧ (launching {}).inSequence = false := by decide +kernel

/-- Curator core 768 at S with a command at 0x50000 for ring 0 and the area 0x600000. -/
def savingState (op spxt : Nat) (f : State → State) : State :=
  let s := f { booted with hbm := writeBytes booted.hbm 0x50000 32 (op + 0 * 2 ^ 8 + spxt * 2 ^ 20 + (if op = 0 ∨ op = 3 then 0 else 0x600000) * 2 ^ 64) }
  { s.mapCore 768 (fun c => { c with asid := 1, ptbase := 0x20, main := { c.main with s := [(1, 0x50000)] } }) with cur := 768 }

theorem test_meets_ContextSaveResult :
    (∀ p ∈ [(0, 0), (3, 0), (1, 8), (2, 0)], let s := savingState p.1 p.2 id
      s.atS = true ∧ s.sound s.cur ∧ (s.ctx.x 1).toNat = 0x50000 ∧ 0x50000 % 32 = 0 ∧ 0 / 8 = dieOf s.cur
      ∧ (resolves s .load 0x50000).map (·.1) = some (.hbm 0x50000) ∧ plainLine s (0x50000 / 128) = true ∧ s.settled (0x50000 / 128) = true
      ∧ s.frame 0x50000 = .plain ∧ poisoned s.poison 0x50000 32 = false
      ∧ s.currentBytes 0x50000 32 = p.1 + 0 * 2 ^ 8 + p.2 * 2 ^ 20 + (if p.1 = 0 ∨ p.1 = 3 then 0 else 0x600000) * 2 ^ 64
          + s.currentBytes (0x50000 + 16) 8 * 2 ^ 128)
    ∧ (let s := savingState 0 0 id
       (s.ring 0).running = some bootLaunch ∧ (s.ring 0).stopFor = none ∧ (s.ring 0).stopped = false ∧ (s.ring 0).region = none
       ∧ ∀ n ∈ List.range 8, (s.core n).atStop = true)
    ∧ (let s := savingState 0 0 (fun s => (s.mapRing 0 (fun g => { g with stopFor := some .command, timedOut := true })).mapCore 0
         (fun c => { c with main := { c.main with wait := some (.farReply 7) } }))
       (s.ring 0).running = some bootLaunch ∧ (s.ring 0).stopFor = some .command ∧ (s.ring 0).timedOut = true ∧ (s.ring 0).stopped = false
       ∧ (s.ring 0).region = none ∧ (s.core 0).atStop = false)
    ∧ ((savingState 0 0 (fun s => s.mapRing 0 (fun g => { g with running := none }))).ring 0).running = none := by
  simp only [State.sound]; decide +kernel

theorem test_meets_ContextSaveResult_save :
    let s := savingState 1 8 (fun s => s.mapRing 0 (fun g => { g with stopped := true }))
    (s.ring 0).running = some bootLaunch ∧ (s.ring 0).stopped = true ∧ (s.ring 0).region = none ∧ s.areaOk 0 0x600000 = true
    ∧ 0x50000 + 32 ≤ 0x600000 ∧ bootLaunch.asid < 2 ^ 16
    ∧ s.areaFree 0x600000 = true := by
  refine ⟨by decide +kernel, by decide +kernel, by decide +kernel, by decide +kernel, by decide, by decide, ?_⟩
  simp only [State.areaFree, Bool.and_eq_true, List.all_eq_true]
  exact ⟨fun _ _ => rfl, fun _ _ => rfl⟩

theorem test_meets_ContextSaveResult_restore :
    let v : SavedRing := { launch := bootLaunch, cores := List.replicate 8 {}, region := none }
    let s := savingState 2 0 (fun s => { s with
      rings := [], images := [v], hbm := writeBytes (writeBytes s.hbm 0x600000 8 (8 * 2 ^ 8 + 1 * 2 ^ 16)) 0x616000 8 1
      -- the format bytes lie in the Annex of die 0
      annex := (List.range 8).map (fun p => ((0x611800 + p * 0xA0000) / 128, { st := .mp false, data := BitVec.ofNat 1024 ((2 ^ 256 - 1) / 255) }))
      cores := (List.range 8).map (fun n => (n, { (Core.reset n) with asid := 1 })) })
    (s.ring 0).running = none ∧ (∀ n ∈ List.range 8, (s.core n).asid.toNat = s.deviceBytes 0x600000 8 / 2 ^ 16 % 2 ^ 16)
    ∧ s.deviceBytes 0x600000 8 % 256 = 0 ∧ s.areaPoison 0x600000 8 = false ∧ s.areaPending 0x600000 = false ∧ s.images[s.deviceBytes (0x600000 + 0x16000) 8 - 1]? = some v
    ∧ (∀ p ∈ List.range 8, ∀ i ∈ List.range 32, s.deviceBytes (0x600000 + 0x10000 + p * 0xA0000 + 0x1800 + i) 1 = 1)
    ∧ ∀ n ∈ List.range 8, (s.core n).overflow = [] := by decide +kernel
theorem test_meets_ControlBarResult :
    let s := { State.reset with up := true, sendWin := { dest := 0x0004_0028 }, syncSel := 7 }
    let i : Instr := .valWrite 2 5
    let u := { s with syncSel := 49152, flight := [.hostBar2Write ⟨2, false, none⟩ 0 [1], i] }
    s.up = true ∧ s.hostLink = true ∧ s.mpDie (s.capsFrame / 128) = none ∧ 96 % 96 < 96 ∧ s.portHeld = []
    ∧ sendable s.sendWin.dest.toNat s.pkgNo = true ∧ sendable (0x0100_0000 : Word).toNat s.pkgNo = false
    ∧ (s.flight.takeWhile (fun j => decide (j ≠ i))).filter (postedBy 2) = []
    ∧ (u.flight.takeWhile (fun j => decide (j ≠ i))).filter (postedBy 2) ≠ [] ∧ s.noSync 7 = false ∧ u.noSync 49152 = true
    ∧ (∀ h ∈ [none, some (0, 7)], let r : Instr := .syncWindowRead ⟨2, false, h⟩
        (([r] : List Instr).takeWhile (fun j => decide (j ≠ r))).all (fun j => !windowWrite 2 j) = true) := by decide +kernel

theorem test_meets_HostMemoryResult :
    let i : Instr := .hostBar2Read ⟨2, false, none⟩ 0x50000 4
    let w : Instr := .hostBar2Write ⟨2, false, some (3, 0x50000)⟩ 0x50000 [1, 2, 3, 4]
    let s := { State.reset with up := true, flight := [.hostBar2Write ⟨2, false, none⟩ 0x50080 [5], w] }
    let f := { s with frames := [(5, .frozen)] }
    let pa := s.apbase.toNat * 2 ^ 30 + 0x50000
    (s.up = true ∧ s.hostLink = true ∧ 0x50000 + 4 ≤ 2 ^ s.bar2 ∧ pa + 4 ≤ s.hbmLimit ∧ s.readBusy pa 4 = false ∧ s.bitErrors = []
      ∧ (([i] : List Instr).takeWhile (fun j => decide (j ≠ i))).filter (writeOf 2) = [] ∧ s.portHeld = [])
    ∧ (∀ b < 4, s.frame (pa + b) = .plain ∧ s.settled ((pa + b) / 128) = true)
    ∧ ((s.flight.takeWhile (fun j => decide (j ≠ w))).filter (writeOf 2)).all (fun j => !s.writesLine pa 4 j) = true
    ∧ (f.frame pa = .frozen ∧ pa / 128 = (pa + 4 - 1) / 128) ∧ ¬(2 ^ 30 - 3 + 4 ≤ 2 ^ s.bar2)
    ∧ s.hbmLimit < 1023 * 2 ^ 30 + 4 ∧ s.hbmLimit ≤ (1023 * 2 ^ 30) / 128 * 128 := by decide +kernel

theorem test_meets_HostMemoryResult_copy :
    let t : Transfer := { someTransfer with src := 0xFFFFFF00, fetch := some (0x40, none) }
    let s := copying [t]
    s.transfer 0 1 1 = some t ∧ t.fetch = some (0x40, none) ∧ s.hostLink = true ∧ s.faulting 0 1 1 = false := by decide +kernel

theorem test_meets_HostMemoryResult_window :
    let s := State.reset.mapCore 9 (fun c => { c with main := { c.main with wait := some (.remoteLoad (.host 0x100) 0 7 3 false) } })
    ((s.core 9).ctx false).wait = some (.remoteLoad (.host 0x100) 0 7 3 false) := by decide +kernel

/-- Mailbox class 4 of two slots: empty, full, and closed (by its count of messages stored). -/
def mailbox (prod : BitVec 32) (o : Bool) : State :=
  { State.reset with up := true, flight := [.mailboxMessage { someMsg with toHost := true, re := false }]
                     mailboxes := [(4, { base := 1, ien := true, isOpen := o, slots := 2, prod := prod })] }

theorem test_meets_HostMemoryResult_mailbox :
    let m : Msg := { someMsg with toHost := true, re := false }
    let b (s : State) : Mailbox := Bank.get {} s.mailboxes 4
    (∀ p ∈ [((0 : Nat), true), (2, true), (0, false)], let s := mailbox (BitVec.ofNat 32 p.1) p.2
      s.flight.find? (sameBox m) = some (.mailboxMessage m) ∧ m.len ≤ 512 ∧ m.re = false ∧ Bank.find (s.core m.src).dead m.asid = none)
    ∧ (let s := (mailbox 2 true).mapCore 9 (fun c => { c with dead := [(1, 0x600000)] })
       Bank.find (s.core m.src).dead m.asid = some 0x600000 ∧ s.annex = []
       ∧ (s.deadProd 0x600000 + 2 ^ 32 - s.deadCons 0x600000) % 2 ^ 32 ≠ 56)
    ∧ ((mailbox 0 true).hostLink = true ∧ (b (mailbox 0 true)).isOpen = true
      ∧ ((b (mailbox 0 true)).prod - (b (mailbox 0 true)).cons).toNat ≠ (b (mailbox 0 true)).slots.toNat)
    ∧ ((b (mailbox 2 true)).prod - (b (mailbox 2 true)).cons).toNat = (b (mailbox 2 true)).slots.toNat
    ∧ (b (mailbox 0 false)).isOpen = false := by decide +kernel

/-- Package 3 is admitted to a peer window of 1 MiB at 0x100000, and request 7 is on its way to it. -/
def peering (a : PeerAcc) (ask : PeerAsk) : State :=
  { State.reset with up := true, exBase := 0x100000, exLen := 0x100000, peers := [(3, { admitted := true, asid := 1 })], peerOut := [(7, 3, a, ask)] }

theorem test_meets_PeerResult :
    let s := (peering (.load 0 8) (.context 9 false)).mapCore 40 (fun c => { c with overflow := [(1, [])] })
    let e : PeerEntry := Bank.get {} s.peers 3
    (e.admitted = true ∧ s.bitErrors = [] ∧ 0xFFFF8 + 8 ≤ s.exLen ∧ s.exBase + 0xFFFF8 + 8 ≤ s.hbmLimit ∧ s.readBusy (s.exBase + 0xFFFF8) 8 = false
      ∧ 0xFFFF8 % 8 = 0)
    ∧ (∀ a ∈ [PeerAcc.load 0xFFFF8 8, .store 1 0xFFFF8 [(5, false)], .atomic 0xFFFF8 1 true 5 0],
        s.peerWaits 3 9 (accRange a) (.peerAccess ⟨3, 9, none⟩ a) = false)
    ∧ (∀ b < 8, s.frame (s.exBase + 0xFFFF8 + b) = .plain ∧ s.settled ((s.exBase + 0xFFFF8 + b) / 128) = true)
    ∧ ((Bank.get {} s.peers 4 : PeerEntry).admitted = false ∧ ¬(0xFFFF9 + 8 ≤ s.exLen))
    ∧ ({ s with frames := [(31, .frozen)] }).frame (s.exBase + 0xF0000) = .frozen
    ∧ ((Bank.find (s.core 40).overflow e.asid).isSome = true ∧ (Bank.find (s.core 41).overflow e.asid).isSome = false ∧ 40 < 780) := by
  decide +kernel

theorem test_meets_PeerResult_answers :
    let l := (peering (.load 0 8) (.context 9 false)).mapCore 9 (fun c => { c with main := { c.main with wait := some (.remoteLoad (.peer 3 0) 0 7 3 false) } })
    let t : Transfer := { someTransfer with fetch := some (7, none) }
    let c := (peering (.load 0 8) (.copy 0 1 1)).mapCore 0 (fun k => { k with chans := [(1, { nextId := 3, transfers := [t] })] })
    (∀ a ∈ [(PeerAcc.load 0 8, PeerAsk.context 9 false), (.load 0 8, .copy 0 1 1), (.store 1 0 [(5, false)], .context 9 false),
        (.atomic 0 1 true 5 0, .far farRequest)], (peering a.1 a.2).peerOut.find? (fun e => e.1 == 7) = some (7, 3, a.1, a.2))
    ∧ ((l.core 9).ctx false).wait = some (.remoteLoad (.peer 3 0) 0 7 3 false)
    ∧ c.transfer 0 1 1 = some t ∧ t.fetch = some (7, none) := by decide +kernel

theorem test_meets_DebuggerResult :
    let s := mainWith [] (fun c => { c with wait := some (.swait 64 0) })
    let h := handlerAt []
    (0 < 780 ∧ s.recovery = false ∧ s.inSequence = false ∧ (s.core 0).halted = false ∧ (s.core 0).fenced = false ∧ (s.core 0).prv = false ∧ (s.core 0).run = none ∧ s.chunkOn 0 = none
      ∧ (Wait.swait 64 0).mustEnd = false ∧ (s.core 0).main.wait = some (.swait 64 0))
    ∧ ((h.core 0).halted = false ∧ (h.core 0).run.isSome = true ∧ h.chunkOn 0 = none)
    ∧ ((mainAt []).mapCore 0 (fun c => { c with halted := true })).me.halted = true := by decide +kernel

theorem test_meets_ManagementResult :
    let hb : Loc := .hbm 0x50000
    let sp : Loc := .scratch 3 64
    let s := { State.reset with bitErrors := [(hb, .uncorrectable), (sp, .crc 9)], corrections := [(5, 64)], budget := [(3, 100)] }
    let errors (l : List (Loc × ReadError)) (loc : Loc) := l.filter (fun e => decide (e.1 = loc))
    errors s.bitErrors hb = [(hb, .uncorrectable)] ∧ errors s.bitErrors sp = [(sp, .crc 9)] ∧ 8 < 9
    ∧ (∀ e ∈ [ReadError.corrected, .crc 8], errors [(hb, e)] hb = [(hb, e)] ∧ errors [(hb, e)] sp = [])
    ∧ s.recovery = false ∧ s.inSequence = false ∧ ({ s with recovery := true } : State).recovery = true
    ∧ 64 ≤ Bank.get 0 s.corrections 5 ∧ Bank.get 0 s.corrections 6 < 64 ∧ 0 < Bank.get 0 s.budget 3
    ∧ State.reset.up = false ∧ State.reset.recovery = false ∧ State.reset.faultyCompute = [] ∧ State.reset.faultyMemory = []
    ∧ State.reset.dropped = [] ∧ State.reset.fullDropped = [] ∧ State.reset.mpDie (State.reset.capsFrame / 128) = none := by decide +kernel

/-- Two pages of a contiguous group (R308): a walk from the second one holds the whole group, from its first entry. -/
theorem test_contiguous :
    let b := writeBytes (writeBytes (writeBytes [] 0x20000 8 0x30001) 0x30000 8 0x40001) 0x40000 8 0x50001
    let s := { State.reset with hbm := writeBytes (writeBytes b 0x50100 8 0x40083F) 0x50108 8 0x41083F }
    (match resolveAt s 0 [] 1 0x20 false .load 0x210123 with
      | .ok (g, l) => decide (g = .hbm 0x410123 ∧ l = [⟨1, 1, 21, 0x40083F⟩])
      | .error _ => false) = true := by decide +kernel

/-- The signature check is a free value (log 6): where it passes for the images at reset, the package comes up. -/
theorem test_meets_ManagementResult_images (d : Config.bodyDigest 0 = 0)
    (h : ∀ kind ≤ 1, Config.signatureGood [kind, 0, 0, 0] 0 = true) :
    (State.reset.imageOk State.reset.registrarImage && State.reset.imageOk State.reset.curatorImage) = true := by
  simp [State.imageOk, State.reset, imageHeader, bit, h, d]

theorem test_meets_DecodeEncode : (Instr.bfxu 1 2 32 31).wellFormed = true ∧ (encode (.bfxu 1 2 32 31)).isSome = true
    ∧ (Instr.save 3).wellFormed = true ∧ (encode (.save 3)).isSome = true := by decide +kernel

theorem test_meets_EncodeDecode : 0xFFFFC09F < 2 ^ 32 ∧ decodeBytes (leBytes 4 0x1870C114) = .instr (.add false 5 6 7) 4
    ∧ decodeBytes (leBytes 4 0xFFFF4000) = .instr .cNop 2 := by decide +kernel

/-- Core 0 runs `nop` from the booted state, and the 16-bit c.nop. -/
theorem test_meets_StepRunsDecoded :
    let s := { booted with agenda := [.run 0 false] }
    let a := { booted with cur := 0, curH := false }
    let c := a.me
    (∀ u ∈ [(a, 0x0006FE00, Instr.nop, 4), ({ a with hbm := writeBytes a.hbm 0x10000 4 0x4000 }, 0x4000, .cNop, 2)],
      u.1.seenLine (dieOf 0) (0x10000 / 128) = BitVec.ofNat 1024 u.2.1 ∧ decodeBytes (leBytes 4 u.2.1) = .instr u.2.2.1 u.2.2.2
      ∧ beyondHandler u.1 u.2.2.1 = false ∧ notJoin u.1 u.2.2.1 = false ∧ awaitsLiveIns u.1 u.2.2.1 = []
      ∧ touchesPoison (u.1.seenPoison (dieOf 0) (0x10000 / 128)) (0x10000 % 128) 4 = false)
    ∧ s.mayIssue 0 false = true ∧ (s.core 0).upset = none ∧ s.bitErrors = [] ∧ s.tagErrors = [] ∧ a.chunk = none
    ∧ c.main.pc.toNat < Config.untranslated ∧ (c.main.pc + 2).toNat < Config.untranslated ∧ 0x10000 % 128 + 4 ≤ 128
    ∧ poisoned a.poison 0x10000 4 = false ∧ (resolves a .fetch 0x10000).map (·.1) = some (.hbm 0x10000)
    ∧ (match resolveAt a 0 ((resolves a .fetch 0x10000).map (·.2)).toList.flatten 1 0x20 a.atS .fetch 0x10002 with
       | .ok (g, _) => decide (g = .hbm 0x10002)
       | .error _ => false) = true
    ∧ Bank.find c.icache (0x10000 / 128) = none ∧ c.icache.length < 512 := by decide +kernel

/-- A full instruction cache. -/
theorem test_meets_StepRunsDecoded_full :
    let c : Core := { (booted.core 0) with icache := (List.range 512).map (fun i => (i, 0)) }
    Bank.find c.icache (0x10000 / 128) = none ∧ 512 ≤ c.icache.length := by decide +kernel

theorem test_meets_MemoryStaysCanonical : Memory.wf booted = true := by decide +kernel

theorem test_meets_PackageStaysLegal : booted.Legal := by
  constructor
  case cores => decide +kernel
  case annex => decide +kernel
  case vit => decide +kernel
  case cat => decide +kernel
  case images => intro v hv; cases hv
  all_goals
    intro g hg
    have h : g.2.region = none ∧ g.2.saved = [] := by revert g; decide +kernel
  case records => intro r hr; rw [h.1] at hr; cases hr
  case held => intro v hv; rw [h.2] at hv; cases hv
/-! ## Results -/

/-- Elements of width `w`, the first lowest. -/
def vec (w : Nat) (l : List Nat) : BitVec 4096 := BitVec.ofNat 4096 (l.foldr (fun x n => x + 2 ^ w * n) 0)

/-- X(r) after an instruction. -/
noncomputable def xAfter (i : Instr) (s : State) (r : SReg) : Word := (ran i s).ctx.x r

/-- The first `n` elements of v`r` after an instruction. -/
noncomputable def vAfter (i : Instr) (s : State) (r : VReg) (w n : Nat) : List Nat := (List.range n).map (elem w ((ran i s).ctx.vr r))

/-- The examples of R79: the most negative number over −1, and a zero divisor. -/
theorem test_div_edges : xAfter (.div true 5 6 7) (mainAt [(6, 0x80000000), (7, 0xFFFFFFFFFFFFFFFF)]) 5 = 0xFFFFFFFF80000000
    ∧ xAfter (.div true 5 6 7) (mainAt [(6, 0x80000000)]) 5 = 0xFFFFFFFFFFFFFFFF := by decide +kernel

theorem test_remu_zero : xAfter (.remu true 5 6 7) (mainAt [(6, 0x80000000)]) 5 = 0xFFFFFFFF80000000 := by decide +kernel

/-- Both operands and the product by hand: (2^64 − 1)² = 2^128 − 2^65 + 1. -/
theorem test_mul_high : xAfter (.mulhu false 5 6 6) (mainAt [(6, 0xFFFFFFFFFFFFFFFF)]) 5 = 0xFFFFFFFFFFFFFFFE
    ∧ xAfter (.mulh false 5 6 6) (mainAt [(6, 0xFFFFFFFFFFFFFFFF)]) 5 = 0
    ∧ xAfter (.mulhsu false 5 6 7) (mainAt [(6, 0xFFFFFFFFFFFFFFFF), (7, 2)]) 5 = 0xFFFFFFFFFFFFFFFF := by decide +kernel

/-- A shift takes its amount modulo the width; a source may be the destination; s0 discards its result. -/
theorem test_shift_wraps : xAfter (.sll false 5 5 6) (mainAt [(5, 3), (6, 65)]) 5 = 6
    ∧ xAfter (.sra true 5 6 7) (mainAt [(6, 0x80000000), (7, 33)]) 5 = 0xFFFFFFFFC0000000
    ∧ xAfter (.add false 0 5 5) (mainAt [(5, 3)]) 0 = 0 := by decide +kernel

theorem test_count_zero : xAfter (.clz true 5 6) (mainAt []) 5 = 32 ∧ xAfter (.ctz false 5 6) (mainAt []) 5 = 64
    ∧ xAfter (.rev8 true 5 6) (mainAt [(6, 0x11223380)]) 5 = 0xFFFFFFFF80332211 := by decide +kernel

theorem test_bitField : xAfter (.bfxs 5 6 8 7) (mainAt [(6, 0x8500)]) 5 = 0xFFFFFFFFFFFFFF85
    ∧ xAfter (.bfi 5 6 60 3) (mainAt [(5, 1), (6, 0x19)]) 5 = 0x9000000000000001 := by decide +kernel

/-- The last `lih` of the example of chapter 4. -/
theorem test_lih : xAfter (.lih 5 0x1000) (mainAt [(5, 0x100000)]) 5 = 0x4000001000 ∧ xAfter (.leaPc 5 0x3FFFF) (mainAt []) 5 = 0xFFF := by
  decide +kernel

theorem test_compare : (ran (.klt true 3 5 6) (mainAt [(5, 0x80000000), (6, 1)])).ctx.kb 3 = true
    ∧ (ran (.klt false 3 5 6) (mainAt [(5, 0x80000000), (6, 1)])).ctx.kb 3 = false
    ∧ (ran (.kfun true 3 5 6) (mainAt [(5, 0x7FC00000)])).ctx.kb 3 = true ∧ (ran (.kfun true 3 5 6) (mainAt [(5, 0x7FC00000)])).ctx.fflags = 0
    ∧ (ran (.kfle true 3 5 6) (mainAt [(5, 0x7FC00000)])).ctx.fflags = 0x10 := by decide +kernel

/-- 1 + 2^−24 is a tie to even; the smallest subnormal halved underflows to 0; 1 ÷ 0. -/
theorem test_fadd_tie : xAfter (.fadd true 5 6 7) (mainAt [(6, 0x3F800000), (7, 0x33800000)]) 5 = 0x3F800000
    ∧ (ran (.fadd true 5 6 7) (mainAt [(6, 0x3F800000), (7, 0x33800000)])).ctx.fflags = 1 := by decide +kernel

theorem test_fdiv_zero : xAfter (.fdiv false 5 6 7) (mainAt [(6, 0x3FF0000000000000), (7, 0x8000000000000000)]) 5 = 0xFFF0000000000000
    ∧ (ran (.fdiv false 5 6 7) (mainAt [(6, 0x3FF0000000000000), (7, 0x8000000000000000)])).ctx.fflags = 8 := by decide +kernel

theorem test_fmul_underflow : xAfter (.fmul true 5 6 7) (mainAt [(6, 1), (7, 0x3F000000)]) 5 = 0
    ∧ (ran (.fmul true 5 6 7) (mainAt [(6, 1), (7, 0x3F000000)])).ctx.fflags = 3 := by decide +kernel

/-- The examples of R88: −7.5 toward zero, and 2^31. -/
theorem test_fcvt_word : xAfter (.fcvtWF true 1 5 6) (mainAt [(6, 0xC0F00000)]) 5 = 0xFFFFFFFFFFFFFFF9
    ∧ (ran (.fcvtWF true 1 5 6) (mainAt [(6, 0xC0F00000)])).ctx.fflags = 1
    ∧ xAfter (.fcvtWF true 1 5 6) (mainAt [(6, 0x4F000000)]) 5 = 0x7FFFFFFF
    ∧ (ran (.fcvtWF true 1 5 6) (mainAt [(6, 0x4F000000)])).ctx.fflags = 16 := by decide +kernel

theorem test_branch : (ran (.blt 5 6 0x7FC) (mainAt [(5, 0xFFFFFFFFFFFFFFFF)])).ctx.pc = 0xFF8
    ∧ (ran (.bltu 5 6 0x7FC) (mainAt [(5, 0xFFFFFFFFFFFFFFFF)])).ctx.pc = 0x1004
    ∧ (ran (.jalr 5 5 3) (mainAt [(5, 0x2000)])).ctx.pc = 0x2002 ∧ xAfter (.jalr 5 5 3) (mainAt [(5, 0x2000)]) 5 = 0x1004 := by
  decide +kernel

/-- Steps 4 and 6 of the loop example of chapter 5. -/
theorem test_loop_end : (let s := ran (.addi 5 5 1) (mainWith [(5, 100)] (fun c => { c with pc := 0x200C, loops := [⟨0x2004, 0x200C, 2⟩, ⟨0x200C, 0x200C, 3⟩] }))
       s.ctx.pc = 0x200C ∧ s.ctx.x 5 = 101 ∧ s.ctx.loops = [⟨0x2004, 0x200C, 2⟩, ⟨0x200C, 0x200C, 2⟩])
    ∧ (let s := ran (.addi 5 5 1) (mainWith [(5, 102)] (fun c => { c with pc := 0x200C, loops := [⟨0x2004, 0x200C, 2⟩, ⟨0x200C, 0x200C, 1⟩] }))
       s.ctx.pc = 0x2004 ∧ s.ctx.x 5 = 103 ∧ s.ctx.loops = [⟨0x2004, 0x200C, 1⟩]) := by decide +kernel

/-- A signed byte at the last place of the scratchpad; a store there; and what a misaligned load leaves. -/
theorem test_load_scratch :
    let s := (mainAt [(1, own 0 0x7FFFF), (5, 0x1A5)]).mapCore 0 (fun c => { c with scratch := [(0x7FFFF, 0x80)] })
    xAfter (.ld 0 6 1 0) s 6 = 0xFFFFFFFFFFFFFF80 ∧ xAfter (.ldu 0 6 1 0) s 6 = 0x80
    ∧ (ran (.st 0 5 1 0) s).byteAt (.scratch 0 0x7FFFF) = 0xA5 := by decide +kernel

theorem test_load_misaligned :
    let t := ran (.ld 1 6 1 0) (mainAt [(1, own 0 1)])
    t.me.causeCode = 0x16 ∧ t.me.tval = own 0 1 ∧ t.me.epc = 0x1000 ∧ t.me.prv = true := by decide +kernel

/-- Core 193's own alias of byte 0x100 (chapter 12), seen from core 0. -/
theorem test_remote_alias : (resolves booted .load 0xFFFFFE0060800100).map (·.1) = some (.remote 193 0 0x100)
    ∧ (resolves booted .load 0xFFFFFE0060900100).map (·.1) = some (.remote 193 1 0x100) := by decide +kernel

theorem test_cas :
    let s := (mainAt [(1, own 0 64), (2, 9), (5, 7)]).mapCore 0 (fun c => { c with scratch := [(64, 7)] })
    xAfter (.amCas true 0 5 1 2) s 5 = 7 ∧ (ran (.amCas true 0 5 1 2) s).byteAt (.scratch 0 64) = 9
    ∧ (ran (.amCas true 0 6 1 2) s).byteAt (.scratch 0 64) = 7 := by decide +kernel

/-- Two arrivals of the barrier example of chapter 6. -/
theorem test_ybar :
    let s := mainAt [(5, 3)]
    (ran (.ybar 4100 5) s).ctx.wait = some (.ybar 4100 3) ∧ (ran (.ybar 4100 5) s).syncAt 4100 = 1
    ∧ (ran (.ybar 4100 5) { s with sync := [(4100, 2)], mirror := [(0 * 65536 + 4100, 2)] }).ctx.wait = none := by decide +kernel

/-- The sync-word example of chapter 11: 3,072 bytes and then 1,024 of a target of 4,096. -/
theorem test_sync_word :
    let s := booted.mapCore 0 (fun c => { c with scratch := writeBytes (writeBytes [] 64 4 4096) 72 4 7 })
    let word (t : State) (o : Nat) := readBytes (t.core 0).scratch (64 + o) 4
    let t := ran (.syncWordCount ⟨9, 0, none⟩ 1 64 3072) s
    (word t 4 = 3072 ∧ word t 8 = 7) ∧ word (ran (.syncWordCount ⟨9, 0, none⟩ 1 64 1024) t) 4 = 0 ∧ word (ran (.syncWordCount ⟨9, 0, none⟩ 1 64 1024) t) 8 = 8 := by
  decide +kernel

/-- Strips 1, 3 and 4 of the strip-mining example of chapter 1. -/
theorem test_setvl : (ran (.setvl 1 5 6) (mainAt [(6, 1371)])).ctx.vl = 680 ∧ (ran (.setvl 1 5 6) (mainAt [(6, 11)])).ctx.vl = 8
    ∧ (ran (.setvl 1 5 6) (mainAt [(6, 3)])).ctx.vl = 3 := by decide +kernel

theorem test_vsadd :
    let s := vecWith 2 2 [] [(1, vec 8 [0x7F, 0x80]), (2, vec 8 [1, 0xFF])]
    vAfter (.vsadd false 0 3 1 2) s 3 8 3 = [0x7F, 0x80, 0] ∧ (ran (.vsadd false 0 3 1 2) s).ctx.fflags = 0x20 := by decide +kernel

/-- The stochastic rounding example of chapter 2. -/
theorem test_vfcvt_stochastic :
    let s := mainWith [] (fun c =>
      { c with vill := false, ew := 4, vl := 4, rndm := 5, seed := 1, v := [(1, vec 32 [0x3F80C000, 0x3F80C000, 0x3F80C000, 0x3F80C000])] })
    let t := ran (.vfcvt false 0 2 1 3) s
    (List.range 4).map (elem 16 (t.ctx.vr 2)) = [0x3F81, 0x3F80, 0x3F81, 0x3F81] ∧ t.ctx.seed = 0xB02C0003 ∧ t.ctx.fflags = 1 := by
  decide +kernel

/-- The reduction example of chapter 2. -/
theorem test_vfredsum :
    let s := vecWith 4 4 [] [(1, vec 32 [0x4B800000, 0x3F800000, 0x3F800000, 0xCB800000])]
    vAfter (.vfredsumO false 0 3 1 2) s 3 32 1 = [0] ∧ vAfter (.vfredsumT false 0 3 1 2) s 3 32 1 = [0x3F800000] := by decide +kernel

/-- The predicate example of chapter 7. -/
theorem test_predicates :
    let s := mainWith [] (fun c => { c with vill := false, ew := 2, vl := 8, p := [(4, 0b11111011), (5, 0b00100100)] })
    (ran (.pcut 4 3 5) s).ctx.pr 3 = 0b00111011 ∧ (ran (.pcut 0 3 5) s).ctx.pr 3 = 0b111 ∧ xAfter (.ppopc 4 6 5) s 6 = 1
    ∧ xAfter (.pfind 4 7 5) s 7 = 5 := by decide +kernel

/-- The sliding-window example of chapter 7. -/
theorem test_vldsr :
    let s := (vecWith 4 8 [(4, own 0 64), (5, 2)] [(3, vec 32 [10, 11, 12, 13, 14, 15, 16, 17])]).mapCore 0
      (fun c => { c with scratch := [(64, 18), (68, 19)] })
    vAfter (.vldsr 3 4 5) s 3 32 8 = [12, 13, 14, 15, 16, 17, 18, 19] := by decide +kernel

/-- Six-bit codes from bit 2 on (chapter 7). -/
theorem test_vld_bits :
    let s := (vecWith 1 2 [(4, own 0 64)] []).mapCore 0 (fun c => { c with scratch := [(64, 0b11010100), (65, 0b00001011)] })
    vAfter (.vld false 0 6 4 2) s 6 6 3 = [0b110101, 0b001011, 0] := by decide +kernel

/-- The AQ4 example of chapter 2: scale 0.5, zero point 8, code 0xB. -/
theorem test_aq_window :
    let s := (vecWith 4 1 [(4, own 1 0x102)] []).mapCore 0 (fun c =>
      { c with scratch := writeBytes [(0x102, 0xB0)] 0x70040 4 (0x3800 + 8 * 2 ^ 16) })
    vAfter (.vld false 0 6 4 4) s 6 32 1 = [0x3FC00000] := by decide +kernel

theorem test_vcompress :
    let s := mainWith [] (fun c => { c with vill := false, ew := 2, vl := 4, p := [(4, 0b1010)], v := [(1, vec 8 [5, 6, 7, 8]), (2, vec 8 [1, 2, 3, 4])] })
    vAfter (.vcompress false 4 2 1) s 2 8 4 = [6, 8, 3, 4] := by decide +kernel

/-- Row 3 of the product example of chapter 8: eight copies of 3 with a column of ones and with 0 … 7. -/
def tile : Plane :=
  { kind := .plain, fmt := 8, pk := 8, pn := 2,
    vals := (List.range 8).flatMap (fun r => [(r * 64, 1)] ++ if r = 0 then [] else [(r * 64 + 1, r)]) }

theorem test_mma :
    let s := (mainAt [(20, own 0 0x1000), (21, own 0 0x2000), (22, 1 + 0x10 * 2 ^ 16 + 0x10 * 2 ^ 32)]).mapCore 0 (fun c =>
      { c with mcfg := 0x188, active := tile, scratch := writeBytes [] 0x2000 8 0x0303030303030303 })
    readBytes (ran (.mma 20 21 22) s).me.scratch 0x1000 8 = 24 + 84 * 2 ^ 32 := by decide +kernel

/-- The channel example of chapter 8: transfers 5 and 6 complete, in the other order. -/
theorem test_cpydone :
    let t (i : Nat) : Transfer := { tid := i, len := 1, rows := 1, written := 1 }
    let s := booted.mapCore 0 (fun c => { c with chans := [(2, { nextId := 7, doneId := 5, transfers := [t 5, t 6] })] })
    let u := ran (.copyTransferComplete 0 2 6) s
    ((u.core 0).chan 2).doneId = 5 ∧ ((ran (.copyTransferComplete 0 2 5) u).core 0 |>.chan 2).doneId = 7 := by decide +kernel

/-- Line 0x0_0004_1080 belongs to core 193 and to quarter 3, with its home on CD3 (chapters 11 and 19). -/
theorem test_line_home : ({ State.reset with homeMap := [(0, 3 * 128)] }).owner (.hbm 0x41080) = 193
    ∧ State.reset.quarterDie (0x41080 / 128) = 3 := by decide +kernel

/-- Set 1 striped (chapter 19). -/
theorem test_stripe :
    let s := { State.reset with striped := [(1, true)] }
    s.homeOf 0x180005080 = 5 ∧ s.homeOf 0x180006000 = 6 := by decide +kernel

/-- The page-table example of chapter 18: a 512 MiB leaf without X, of a granule on CD0. -/
theorem test_walk :
    let s := { State.reset with homeMap := [(16, 0)], hbm := writeBytes (writeBytes (writeBytes [] 0x20000 8 0x30001) 0x30000 8 0x40001) (0x40000 + 0x1400) 8 0x20000002F }
    (match resolveAt s 0 [] 1 0x20 false .load 0x5000400000 with | .ok (g, _) => decide (g = .hbm 0x200400000) | .error _ => false) = true
    ∧ (match resolveAt s 0 [] 1 0x20 false .fetch 0x5000400000 with | .ok _ => 0 | .error (c, _) => c.code) = 0x13 := by decide +kernel

/-- The packet of the example of R22. -/
theorem test_entry_arguments :
    let r := entryRegs 5 { somePacket21 with nargs := 3, pairMask := 1, args := [0, 0x40, 0x10] ++ List.replicate 21 0 }
    Bank.get 0 r 16 = 0x4000000000 ∧ Bank.get 0 r 17 = 0x40 ∧ Bank.get 0 r 18 = 0x10 ∧ Bank.get 0 r 19 = 0 ∧ Bank.get 0 r 3 = 40 := by
  decide +kernel

theorem test_trap :
    let t := ran (.trap 9) ((mainAt [(56, 5)]).mapCore 0 (fun c => { c with tvec := 0x8000, trapBank := [(0, 6)] }))
    t.me.causeCode = 4 ∧ t.me.tval = 9 ∧ t.me.epc = 0x1000 ∧ t.ctx.pc = 0x8000 ∧ t.me.prv = true ∧ t.me.pprv = false ∧ t.ctx.x 56 = 6
    ∧ Bank.get 0 t.me.trapBank 0 = 5 := by decide +kernel

theorem test_privilege : (ran .eret (mainAt [])).me.causeCode = 1 ∧ (ran (.sysrd 0x800 5) (mainAt [])).me.causeCode = 1
    ∧ (ran (.syswr 0x000 5) (mainAt [])).me.causeCode = 0 ∧ (ran (.syswr 0x000 5) (mainAt [])).me.prv = true := by decide +kernel

/-- SEED takes 1 in place of 0, LEASE too, and RNDM refuses 6 (R20). -/
theorem test_system_registers : (ran (.syswr 0x012 5) (mainAt [])).ctx.seed = 1 ∧ (ran (.syswr 0x028 5) (mainAt [])).me.lease = 1
    ∧ (ran (.syswr 0x010 5) (mainAt [(5, 6)])).me.causeCode = 0 ∧ (ran (.syswr 0x010 5) (mainAt [(5, 6)])).me.prv = true
    ∧ xAfter (.sysrd 0x03F 5) (mainAt []) 5 = 0xFFFFFDFFFFFF0000 := by decide +kernel

theorem test_send :
    let t := ran (.send 1 8) (mainAt [(1, 0x0504_0008), (8, 0x77)])
    t.flight.length = 1 ∧ (match t.flight with | [.messageArrival m] => m.dst == 8 && m.cls == 4 && m.re && m.rclass == 2 && m.payload == 0x77 | _ => false) = true := by
  decide +kernel

/-- A speculative chunk's version is what a later chunk's probe finds, and a broadcast of its next store squashes the reader (R212, R217). -/
theorem test_probe :
    let old : Chunk := { runningChunk 0 true with versions := [versionOf3] }
    let s := inRegion [] (someRegion [old, runningChunk 1 true])
    (ran (.versionProbe 0 1 (.scratch 0 3)) s).flight = [.probeAnswer 0 1 (.scratch 0 3) (.version 0 1 0 0)] := by decide +kernel

/-- `withFetchWord` runs the word as the next step. -/
theorem test_step_word : (match step (State.reset.withFetchWord 32 0x0FFFC81F) with | .next t => (t.core 0).main.x 7 | _ => 0) = 0xFFFFFFFFFFFFFFFF := by
  decide +kernel


end Sys2Proof.Tests
end

section
/-! # setvl and setvli (R13, R129)

The length that R13 grants, as arithmetic of the request and the width; the context that the two instructions leave; and
the obligation, which puts the two together. -/

namespace Sys2Proof.Machine
open Sys2Proof

/-! ## The granted length (R13) -/

theorem granted_le_min (q w : Nat) : granted q w ≤ Nat.min q (vlmax w) := by
  simp only [granted]
  split
  · exact Nat.div_mul_le_self _ 4
  · exact Nat.le_refl _

theorem granted_le_request (q w : Nat) : granted q w ≤ q := Nat.le_trans (granted_le_min q w) (Nat.min_le_left _ _)

theorem granted_le_vlmax (q w : Nat) : granted q w ≤ vlmax w := Nat.le_trans (granted_le_min q w) (Nat.min_le_right _ _)

/-- Only a length above 4 at width 6 is rounded. -/
theorem granted_eq_min {q w : Nat} (h : w ≠ 6 ∨ q ≤ 4) : granted q w = Nat.min q (vlmax w) := by
  have hq : Nat.min q (vlmax w) ≤ q := Nat.min_le_left _ _
  exact if_neg (by omega)

theorem granted_six {q : Nat} (h : 4 < q) : granted q 6 = Nat.min q (vlmax 6) / 4 * 4 := by
  have hm : 4 < Nat.min q (vlmax 6) := Nat.lt_min.mpr ⟨h, by decide⟩
  exact if_pos ⟨rfl, hm⟩

/-- No width of Table 1.1 has a VLMAX above 1,024, that of width 4, so VL holds every granted length. -/
theorem vlmax_widthOf_le (ew : BitVec 3) : vlmax (widthOf ew) ≤ 1024 := by
  revert ew; decide

/-! ## The context left -/

/-- A context with the program counter and the loop stack of `c` moves on to where `c` does (R93). -/
theorem Ctx.fresh_retire_of_pc {c d : Ctx} (len : Word) (hp : d.pc = c.pc) (hl : d.loops = c.loops) :
    d.fresh.retire len =
      { d with pc := (c.retire len).pc, loops := (c.retire len).loops, issued := false, stamped := false } := by
  obtain ⟨hpc, hloops⟩ := Ctx.retire_pc_congr c d len hp hl
  rw [Ctx.fresh_retire, Ctx.retire_eq, hpc, hloops]
  rfl

/-- A vector length `g` at width code `ew` has been set and put in X(rd), and nothing else of `c` has changed but the
program counter and the loop stack, which have moved on. -/
structure LengthSet (ew : BitVec 3) (rd : SReg) (g : Nat) (c d : Ctx) : Prop where
  context : d = { c.completed with s := d.s, ew := ew, vill := false, vl := BitVec.ofNat 11 g, vstart := 0 }
  value : d.x rd = if rd = 0 then 0 else BitVec.ofNat 64 g
  others : ∀ r, r ≠ rd → d.x r = c.x r

/-- A write of X(rd) over the new vector configuration, completed, is such a context. -/
theorem lengthSet_retire (ew : BitVec 3) (rd : SReg) (g : Nat) (c : Ctx) :
    LengthSet ew rd g c
      ((({ c with ew := ew, vill := false, vl := BitVec.ofNat 11 g, vstart := 0 }.setX rd (BitVec.ofNat 64 g)).fresh).retire 4)
    where
  context := by
    rw [Ctx.fresh_retire_of_pc (c := c) 4 (by simp) (by simp), Ctx.setX_eq]
    rfl
  value := by
    rw [Ctx.x_retire, Ctx.x_fresh, Ctx.x_setX]
  others r hr := by
    rw [Ctx.x_retire, Ctx.x_fresh, Ctx.x_setX_ne _ _ hr]
    rfl

theorem givesCtx_mono {i : Instr} {s : State} {P Q : Ctx → Ctx → Prop} (hPQ : ∀ c d, P c d → Q c d) (h : GivesCtx i s P) :
    GivesCtx i s Q := by
  obtain ⟨t, ht, hP, hout⟩ := h
  exact ⟨t, ht, hPQ _ _ hP, hout⟩

theorem exec_setvl (ew : BitVec 3) (rd rs1 : SReg) (s : State) :
    exec (.setvl ew rd rs1) s = grant ew rd (fun c => (c.x rs1).toNat) s := rfl

theorem exec_setvli (ew : BitVec 3) (rd : SReg) (uimm : BitVec 12) (s : State) :
    exec (.setvli ew rd uimm) s = grant ew rd (fun _ => uimm.toNat) s := rfl

/-- What `grant`, the meaning that setvl and setvli share, does. -/
theorem givesCtx_of_exec_eq_grant {i : Instr} {s : State} {ew : BitVec 3} {rd : SReg} {q : Ctx → Nat}
    (h : exec i s = grant ew rd q s) : GivesCtx i s (LengthSet ew rd (granted (q s.ctx) (widthOf ew))) := by
  refine ⟨_, h, ?_, onlyContext_mapCtx _ _⟩
  rw [State.ctx_mapCtx]
  exact lengthSet_retire ew rd _ s.ctx

/-! ## The obligation -/

/-- Settles O20: both instructions are `grant` of their request, and `granted` is the length of R13. -/
theorem vectorLengthGrant : Obligations.VectorLengthGrant := by
  intro s ew rd rs1 uimm _ w most goes
  have hgoes {i : Instr} {q : Ctx → Nat} (h : exec i s = grant ew rd q s) : goes i (q s.ctx) := by
    refine ⟨granted (q s.ctx) w, ?context, granted_le_request _ w, granted_le_vlmax _ w, ?fits, granted_eq_min, ?rounded⟩
    case context =>
      exact givesCtx_mono (fun _ _ hset => ⟨hset.context, hset.value, hset.others⟩) (givesCtx_of_exec_eq_grant h)
    case fits =>
      exact Nat.lt_of_le_of_lt (Nat.le_trans (granted_le_vlmax _ w) (vlmax_widthOf_le ew)) (by decide)
    case rounded =>
      intro hw hq
      have hmost : most = vlmax 6 := by simp only [most, hw]; rfl
      rw [hw, hmost, granted_six hq]
      omega
  exact ⟨hgoes (exec_setvl ew rd rs1 s), hgoes (exec_setvli ew rd uimm s)⟩

end Sys2Proof.Machine
end

section
/-! # ALU, MUL and BIT operations (R76, R78, R79)

The operations of Table 5.2 as bit-vector operations of the library at every width, their result at the width that a
`.w` form selects, and the obligation. -/

namespace Sys2Proof.Machine
open Sys2Proof

/-! ## Completion with a scalar result -/

theorem Ctx.fflags_or_zero (c : Ctx) : c.fflags ||| 0 = c.fflags := BitVec.or_zero

/-- An instruction that writes X(rd), changes nothing else of its context, and completes. -/
theorem givesX_of_exec_eq_plain {i : Instr} {s : State} {len : Word} {f : Ctx → Ctx} {rd : SReg} {v : Word}
    (h : exec i s = s.plain len f) (hf : f s.ctx = s.ctx.setX rd v) : GivesX i s rd v len := by
  obtain ⟨t, ht, hw⟩ := plain_writesX s len rd v 0 s.ctx.seed f (by rw [hf, Ctx.fflags_or_zero, Ctx.setX_eq])
  exact ⟨t, h.trans ht, hw⟩

/-- A two-source operation at the width that `w` selects, of which `r` and `r32` are the two results. -/
theorem givesX_of_exec_eq_binary {i : Instr} {s : State} {w : Bool} {f : (n : Nat) → BitVec n → BitVec n → BitVec n}
    {rd rs1 rs2 : SReg} {r : Word} {r32 : BitVec 32} (h : exec i s = binary (atWidth w f) rd rs1 rs2 s)
    (h64 : f 64 (s.ctx.x rs1) (s.ctx.x rs2) = r) (h32 : f 32 (lowWord (s.ctx.x rs1)) (lowWord (s.ctx.x rs2)) = r32) :
    GivesX i s rd (if w then sextWord r32 else r) 4 := by
  subst h64 h32
  exact givesX_of_exec_eq_plain h rfl

theorem givesX_of_exec_eq_unary {i : Instr} {s : State} {len : Word} {f : Word → Word} {rd rs1 : SReg} {v : Word}
    (h : exec i s = unary len f rd rs1 s) (hv : f (s.ctx.x rs1) = v) : GivesX i s rd v len := by
  subst hv
  exact givesX_of_exec_eq_plain h rfl

/-! ## Rotation, minimum and maximum -/

theorem iRol_eq (n : Nat) (a b : BitVec n) : iRol n a b = a.rotateLeft b.toNat := BitVec.rotateLeft_mod_eq_rotateLeft

theorem iMin_eq (n : Nat) (a b : BitVec n) : iMin n a b = if a.sle b then a else b := by
  simp only [iMin, BitVec.sle_iff_toInt_le]

theorem iMax_eq (n : Nat) (a b : BitVec n) : iMax n a b = if a.sle b then b else a := by
  simp only [iMax, BitVec.sle_iff_toInt_le]

/-! ## The high half of a product -/

/-- Bits [2w − 1 : w] of a number held in 2w bits. -/
theorem extractLsb'_ofInt_double {w m : Nat} (h : m = w + w) (p : Int) :
    (BitVec.ofInt m p).extractLsb' w w = highHalf w p := by
  have hpos : (0 : Int) < 2 ^ w := Int.pow_pos (by decide)
  have hdiv : p % 2 ^ m / 2 ^ w = p / 2 ^ w % 2 ^ w := by
    have hp : p % 2 ^ m = p - 2 ^ w * (p / 2 ^ w / 2 ^ w) * 2 ^ w := by
      rw [Int.emod_def, h, Int.pow_add, Int.ediv_ediv_of_nonneg (Int.le_of_lt hpos), Int.mul_right_comm]
    rw [hp, Int.sub_mul_ediv_right _ _ (Int.ne_of_gt hpos), Int.emod_def]
  apply BitVec.eq_of_toInt_eq
  rw [highHalf, BitVec.toInt_eq_toNat_bmod, BitVec.toInt_ofInt, BitVec.extractLsb'_toNat, BitVec.toNat_ofInt,
    Nat.shiftRight_eq_div_pow]
  push_cast
  rw [Int.toNat_of_nonneg (Int.emod_nonneg _ (Int.ne_of_gt (Int.pow_pos (by decide)))), hdiv, Int.emod_emod]
  exact_mod_cast Int.emod_bmod (p / 2 ^ w) (2 ^ w)

theorem iMulh_eq {n m : Nat} (h : m = n + n) (a b : BitVec n) :
    iMulh n a b = (a.signExtend m * b.signExtend m).extractLsb' n n := by
  rw [iMulh, ← extractLsb'_ofInt_double h, BitVec.ofInt_mul]
  rfl

theorem iMulhu_eq {n m : Nat} (h : m = n + n) (a b : BitVec n) :
    iMulhu n a b = (a.setWidth m * b.setWidth m).extractLsb' n n := by
  rw [iMulhu, ← extractLsb'_ofInt_double h, BitVec.ofInt_mul, BitVec.ofInt_natCast, BitVec.ofInt_natCast,
    BitVec.ofNat_toNat, BitVec.ofNat_toNat]

theorem iMulhsu_eq {n m : Nat} (h : m = n + n) (a b : BitVec n) :
    iMulhsu n a b = (a.signExtend m * b.setWidth m).extractLsb' n n := by
  rw [iMulhsu, ← extractLsb'_ofInt_double h, BitVec.ofInt_mul, BitVec.ofInt_natCast, BitVec.ofNat_toNat]
  rfl

/-! ## Division, with the edge cases of Table 5.3 -/

/-- The quotient of the least number by −1 wraps on both sides. -/
theorem ofInt_tdiv_toInt {n : Nat} (a b : BitVec n) : BitVec.ofInt n (a.toInt.tdiv b.toInt) = a.sdiv b := by
  apply BitVec.eq_of_toInt_eq
  rw [BitVec.toInt_ofInt, BitVec.toInt_sdiv]

theorem iDiv_eq (n : Nat) (a b : BitVec n) : iDiv n a b = if b = 0 then BitVec.allOnes n else a.sdiv b := by
  rw [iDiv, ofInt_tdiv_toInt, ← BitVec.neg_one_eq_allOnes]
  rfl

theorem iDivu_eq (n : Nat) (a b : BitVec n) : iDivu n a b = if b = 0 then BitVec.allOnes n else a / b := by
  rw [iDivu, ← BitVec.neg_one_eq_allOnes]
  rfl

theorem iRem_eq (n : Nat) (a b : BitVec n) : iRem n a b = a.srem b := by
  rw [iRem, ← BitVec.toInt_srem, BitVec.ofInt_toInt]
  split
  · next hb => subst hb; exact BitVec.srem_zero.symm
  · rfl

theorem iRemu_eq (n : Nat) (a b : BitVec n) : iRemu n a b = a % b := by
  rw [iRemu]
  split
  · next hb => subst hb; exact BitVec.umod_zero.symm
  · rfl

/-! ## Counts of bits: clz, ctz and popc -/

/-- The width that `w` selects (R76). -/
def formWidth (w : Bool) : Nat := if w then 32 else 64

/-- Zero bits above the highest one bit among `n`; `n` for 0. -/
def leading (n x : Nat) : Nat := if x = 0 then n else n - 1 - x.log2

theorem iClz_eq (n : Nat) (a : BitVec n) : iClz n a = BitVec.ofNat n (leading n a.toNat) := rfl

theorem leading_le (n x : Nat) : leading n x ≤ n := by
  unfold leading
  split <;> omega

theorem testBit_above_leading {n x i : Nat} (hx : x < 2 ^ n) (hi : n - leading n x ≤ i) : x.testBit i = false := by
  unfold leading at hi
  split at hi
  · next h0 => rw [h0, Nat.zero_testBit]
  · next h0 =>
    have hlog : x.log2 < n := (Nat.log2_lt h0).mpr hx
    exact Nat.testBit_lt_two_pow ((Nat.log2_lt h0).mp (by omega))

theorem testBit_at_leading {n x : Nat} (hx : x < 2 ^ n) (h : leading n x < n) : x.testBit (n - 1 - leading n x) = true := by
  unfold leading at h ⊢
  split at h
  · omega
  · next h0 =>
    have hlog : x.log2 < n := (Nat.log2_lt h0).mpr hx
    rw [if_neg h0, show n - 1 - (n - 1 - x.log2) = x.log2 by omega]
    exact Nat.testBit_log2 h0

theorem trailing_le (n x : Nat) : trailing n x ≤ n := by
  induction n generalizing x with
  | zero => exact Nat.le_refl 0
  | succ n ih =>
    have hrest := ih (x / 2)
    rw [trailing]
    split <;> omega

theorem testBit_below_trailing {n x i : Nat} (hi : i < trailing n x) : x.testBit i = false := by
  induction n generalizing x i with
  | zero => simp [trailing] at hi
  | succ n ih =>
    rw [trailing] at hi
    split at hi
    · omega
    · next hodd =>
      cases i with
      | zero => simpa [Nat.testBit_zero] using hodd
      | succ i => rw [Nat.testBit_succ]; exact ih (by omega)

theorem testBit_at_trailing {n x : Nat} (h : trailing n x < n) : x.testBit (trailing n x) = true := by
  induction n generalizing x with
  | zero => omega
  | succ n ih =>
    rw [trailing] at h ⊢
    split
    · next hodd => simpa [Nat.testBit_zero] using hodd
    · next hodd =>
      rw [if_neg hodd] at h
      rw [Nat.add_comm, Nat.testBit_succ]
      exact ih (by omega)

theorem ones_eq_countP (n x : Nat) : ones n x = (List.range n).countP x.testBit := by
  induction n generalizing x with
  | zero => rfl
  | succ n ih =>
    have hshift : x.testBit ∘ Nat.succ = (x / 2).testBit := funext fun i => Nat.testBit_succ x i
    rw [ones, ih, List.range_succ_eq_map, List.countP_cons, List.countP_map, hshift, Nat.testBit_zero]
    rcases Nat.mod_two_eq_zero_or_one x with h | h <;> simp [h, Nat.add_comm]

theorem ones_le (n x : Nat) : ones n x ≤ n := by
  rw [ones_eq_countP]
  exact Nat.le_trans List.countP_le_length (Nat.le_of_eq List.length_range)

/-- A count of at most 32 is not negative as a 32-bit number. -/
theorem sextWord_ofNat {m : Nat} (h : m ≤ 32) : sextWord (BitVec.ofNat 32 m) = BitVec.ofNat 64 m := by
  have hnat : (BitVec.ofNat 32 m).toNat = m := Nat.mod_eq_of_lt (by omega)
  have hm : (BitVec.ofNat 32 m).toInt = m := by rw [BitVec.toInt_eq_toNat_of_lt (by omega), hnat]
  rw [sextWord, BitVec.signExtend, hm, BitVec.ofInt_natCast]

/-- A count `g` of the low bits of a source, at the width that `w` selects. -/
theorem atWidth1_count {f : (n : Nat) → BitVec n → BitVec n} {g : Nat → Nat → Nat}
    (hf : ∀ n a, f n a = BitVec.ofNat n (g n a.toNat)) (hg : ∀ n x, g n x ≤ n) (w : Bool) (a : Word) :
    atWidth1 w f a = BitVec.ofNat 64 (g (formWidth w) (a.toNat % 2 ^ formWidth w)) := by
  cases w with
  | false =>
    have ha : a.toNat % 2 ^ 64 = a.toNat := Nat.mod_eq_of_lt a.isLt
    exact (hf 64 a).trans (by rw [formWidth, if_neg (by decide), ha])
  | true =>
    have ha : (lowWord a).toNat = a.toNat % 2 ^ 32 := BitVec.toNat_setWidth 32 a
    rw [atWidth1, if_pos rfl, hf, sextWord_ofNat (hg _ _), ha]
    rfl

theorem testBit_mod_formWidth (w : Bool) (a : Word) {i : Nat} (hi : i < formWidth w) :
    (a.toNat % 2 ^ formWidth w).testBit i = a.getLsbD i := by
  rw [Nat.testBit_mod_two_pow, decide_eq_true hi, Bool.true_and]
  rfl

/-! ## rev8 -/

theorem revBytes_lt (k x : Nat) : revBytes k x < 256 ^ k := by
  induction k generalizing x with
  | zero => simp [revBytes]
  | succ k ih =>
    have hrest := ih (x / 256)
    have htop : x % 256 * 256 ^ k ≤ 255 * 256 ^ k := Nat.mul_le_mul_right _ (by omega)
    rw [revBytes, Nat.pow_succ]
    omega

/-- Byte `i` of `k` reversed bytes is byte `k − 1 − i` of them. -/
theorem revBytes_byte {k i : Nat} (x : Nat) (h : i < k) :
    revBytes k x / 256 ^ i % 256 = x / 256 ^ (k - 1 - i) % 256 := by
  induction k generalizing x i with
  | zero => omega
  | succ k ih =>
    have hlt := revBytes_lt k (x / 256)
    rw [revBytes]
    by_cases hik : i = k
    · subst hik
      rw [Nat.mul_comm, Nat.mul_add_div (Nat.pow_pos (by decide)), Nat.div_eq_of_lt hlt]
      simp
    · have hi : i < k := by omega
      obtain ⟨d, rfl⟩ : ∃ d, k = i + 1 + d := ⟨k - (i + 1), by omega⟩
      have hpow : x % 256 * 256 ^ (i + 1 + d) = 256 ^ i * (256 * (256 ^ d * (x % 256))) := by
        rw [Nat.pow_add, Nat.pow_succ]
        ac_rfl
      rw [hpow, Nat.mul_add_div (Nat.pow_pos (by decide)), Nat.mul_add_mod, ih (x / 256) hi,
        Nat.div_div_eq_div_mul, ← Nat.pow_succ']
      congr 3
      omega

theorem iRev8_byte {n k i : Nat} (hn : n = 8 * k) (a : BitVec n) (hi : i < k) :
    (iRev8 n a).extractLsb' (8 * i) 8 = a.extractLsb' (n - 8 - 8 * i) 8 := by
  have hpow (j : Nat) : 2 ^ (8 * j) = 256 ^ j := Nat.pow_mul 2 8 j
  have hk : n / 8 = k := by omega
  have hn2 : 2 ^ n = 256 ^ k := hn ▸ hpow k
  apply BitVec.eq_of_toNat_eq
  rw [BitVec.extractLsb'_toNat, BitVec.extractLsb'_toNat, Nat.shiftRight_eq_div_pow, Nat.shiftRight_eq_div_pow, iRev8,
    BitVec.toNat_ofNat, hk, show n - 8 - 8 * i = 8 * (k - 1 - i) by omega, hn2, hpow, hpow,
    Nat.mod_eq_of_lt (revBytes_lt _ _)]
  exact revBytes_byte a.toNat hi

theorem lowWord_sextWord (r : BitVec 32) : lowWord (sextWord r) = r := by
  ext i hi
  rw [lowWord, BitVec.getElem_setWidth, sextWord, BitVec.getLsbD_signExtend, if_pos hi, decide_eq_true (by omega),
    Bool.true_and]
  rfl

theorem lowWord_extract (a : Word) {j : Nat} (h : j + 8 ≤ 32) : (lowWord a).extractLsb' j 8 = a.extractLsb' j 8 :=
  BitVec.extractLsb'_setWidth_of_le h

/-- rev8 reverses the bytes of the width that `w` selects. -/
theorem rev8_byte (w : Bool) (a : Word) {i : Nat} (hi : i < formWidth w / 8) :
    (atWidth1 w iRev8 a).extractLsb' (8 * i) 8 = a.extractLsb' (formWidth w - 8 - 8 * i) 8 := by
  cases w with
  | false => exact iRev8_byte (k := 8) rfl a hi
  | true =>
    have hi4 : i < 4 := hi
    calc (sextWord (iRev8 32 (lowWord a))).extractLsb' (8 * i) 8
        = (iRev8 32 (lowWord a)).extractLsb' (8 * i) 8 := by rw [← lowWord_extract _ (by omega), lowWord_sextWord]
      _ = (lowWord a).extractLsb' (32 - 8 - 8 * i) 8 := iRev8_byte (k := 4) rfl _ hi4
      _ = a.extractLsb' (32 - 8 - 8 * i) 8 := lowWord_extract a (by omega)

/-! ## The obligation -/

/-- Settles O1: each two-source operation is a bit-vector operation of the library at either width, and the one-source
operations are counts and a reversal of the low bits of the source. -/
theorem aluResult : Obligations.AluResult := by
  constructor
  · intro s w rd rs1 rs2 a b c d gives
    have hgives {i : Instr} {f : (n : Nat) → BitVec n → BitVec n → BitVec n} {r : Word} {r32 : BitVec 32}
        (h : exec i s = binary (atWidth w f) rd rs1 rs2 s) (h64 : f 64 a b = r) (h32 : f 32 c d = r32) : gives i r r32 :=
      givesX_of_exec_eq_binary h h64 h32
    exact ⟨hgives rfl rfl rfl, hgives rfl rfl rfl, hgives rfl rfl rfl, hgives rfl rfl rfl, hgives rfl rfl rfl,
      hgives rfl rfl rfl, hgives rfl rfl rfl, hgives rfl rfl rfl, hgives rfl rfl rfl,
      hgives rfl (iRol_eq 64 a b) (iRol_eq 32 c d), hgives rfl (iMin_eq 64 a b) (iMin_eq 32 c d),
      hgives rfl (iMax_eq 64 a b) (iMax_eq 32 c d), hgives rfl rfl rfl, hgives rfl rfl rfl, hgives rfl rfl rfl,
      hgives rfl (iMulh_eq rfl a b) (iMulh_eq rfl c d), hgives rfl (iMulhu_eq rfl a b) (iMulhu_eq rfl c d),
      hgives rfl (iMulhsu_eq rfl a b) (iMulhsu_eq rfl c d), hgives rfl (iDiv_eq 64 a b) (iDiv_eq 32 c d),
      hgives rfl (iDivu_eq 64 a b) (iDivu_eq 32 c d), hgives rfl (iRem_eq 64 a b) (iRem_eq 32 c d),
      hgives rfl (iRemu_eq 64 a b) (iRemu_eq 32 c d)⟩
  · intro s w rd rs1 a n
    let x : Nat := a.toNat % 2 ^ n
    have hx : x < 2 ^ n := Nat.mod_lt _ (Nat.two_pow_pos n)
    have hbit {i : Nat} (hi : i < n) : a.getLsbD i = x.testBit i := (testBit_mod_formWidth w a hi).symm
    refine ⟨?clz, ?ctz, ?popc, ?rev8⟩
    case clz =>
      refine ⟨leading n x, leading_le n x, givesX_of_exec_eq_unary rfl (atWidth1_count iClz_eq leading_le w a), ?_, ?_⟩
      · intro i hi hin
        rw [hbit hin]
        exact testBit_above_leading hx hi
      · intro h
        rw [hbit (by omega)]
        exact testBit_at_leading hx h
    case ctz =>
      have hle : trailing n x ≤ n := trailing_le n x
      refine ⟨trailing n x, hle, givesX_of_exec_eq_unary rfl (atWidth1_count (fun _ _ => rfl) trailing_le w a), ?_, ?_⟩
      · intro i hi
        rw [hbit (by omega)]
        exact testBit_below_trailing hi
      · intro h
        rw [hbit h]
        exact testBit_at_trailing h
    case popc =>
      have hcount : (List.range n).countP a.getLsbD = ones n x := by
        rw [ones_eq_countP]
        exact List.countP_congr fun i hi => by rw [hbit (List.mem_range.mp hi)]
      rw [hcount]
      exact givesX_of_exec_eq_unary rfl (atWidth1_count (fun _ _ => rfl) ones_le w a)
    case rev8 =>
      refine ⟨atWidth1 w iRev8 a, givesX_of_exec_eq_unary rfl rfl, ?_, fun i hi => rev8_byte w a hi⟩
      rintro rfl
      exact congrArg sextWord (lowWord_sextWord _).symm

end Sys2Proof.Machine
end

section
/-! # Condition-bit instructions and floating-point compares (R84, R87) -/

namespace Sys2Proof.Machine
open Sys2Proof

/-! ## Completion with a condition bit -/

theorem completes_writesK_of_exec_eq_plain {i : Instr} {s : State} {f : Ctx → Ctx} {kd : KReg} {b : Bool} {fl : Flags}
    (h : exec i s = s.plain 4 f) (hf : f s.ctx = { s.ctx.setK kd b with fflags := s.ctx.fflags ||| fl }) :
    Completes i s (fun t => WritesK s t kd b fl) := by
  obtain ⟨t, ht, hw⟩ := plain_writesK s kd b fl f hf
  exact ⟨t, h.trans ht, hw⟩

/-- An instruction that writes a condition bit and raises no flag. -/
theorem completes_writesK_of_setK {i : Instr} {s : State} {f : Ctx → Ctx} {kd : KReg} {b : Bool}
    (h : exec i s = s.plain 4 f) (hf : f s.ctx = s.ctx.setK kd b) : Completes i s (fun t => WritesK s t kd b 0) :=
  completes_writesK_of_exec_eq_plain h (by rw [hf, Ctx.fflags_or_zero]; rfl)

/-! ## Integer compares -/

/-- A source of an integer compare: the register, or its bits [31:0] sign- or zero-extended (R84). -/
def compareOperand (w signed : Bool) (v : Word) : Word :=
  if w then (if signed then sextWord (lowWord v) else (lowWord v).setWidth 64) else v

theorem toInt_compareOperand (w : Bool) (v : Word) :
    (compareOperand w true v).toInt = if w then (lowWord v).toInt else v.toInt := by
  cases w with
  | false => rfl
  | true => exact BitVec.toInt_signExtend_of_le (by decide)

theorem toNat_compareOperand (w : Bool) (v : Word) :
    (compareOperand w false v).toNat = if w then (lowWord v).toNat else v.toNat := by
  cases w with
  | false => rfl
  | true => exact BitVec.toNat_setWidth_of_le (show 32 ≤ 64 by decide)

theorem compareOperand_beq (w : Bool) (a b : Word) :
    (compareOperand w false a == compareOperand w false b) = if w then lowWord a == lowWord b else a == b := by
  cases w with
  | false => rfl
  | true =>
    rw [Bool.eq_iff_iff, beq_iff_eq, ← BitVec.toNat_inj, toNat_compareOperand, toNat_compareOperand]
    simp [BitVec.toNat_inj]

theorem compareOperand_lt_signed (w : Bool) (a b : Word) :
    decide ((compareOperand w true a).toInt < (compareOperand w true b).toInt)
      = if w then (lowWord a).slt (lowWord b) else a.slt b := by
  rw [toInt_compareOperand, toInt_compareOperand]
  cases w <;> rfl

theorem compareOperand_lt_unsigned (w : Bool) (a b : Word) :
    decide ((compareOperand w false a).toNat < (compareOperand w false b).toNat)
      = if w then (lowWord a).ult (lowWord b) else a.ult b := by
  rw [toNat_compareOperand, toNat_compareOperand]
  cases w <;> rfl

/-- What `compareK`, the meaning that the integer compares share, does. -/
theorem completes_of_exec_eq_compareK {i : Instr} {s : State} {w signed : Bool} {f : Word → Word → Bool} {kd : KReg}
    {rs1 rs2 : SReg} {b : Bool} (h : exec i s = compareK w signed f kd rs1 rs2 s)
    (hb : f (compareOperand w signed (s.ctx.x rs1)) (compareOperand w signed (s.ctx.x rs2)) = b) :
    Completes i s (fun t => WritesK s t kd b 0) := by
  subst hb
  exact completes_writesK_of_setK h rfl

/-! ## Floating-point compares -/

theorem fpIn_eq (sg : Bool) (v : Word) : fpIn sg v = if sg then (lowWord v).toNat else v.toNat := by
  cases sg with
  | false => rfl
  | true => exact (BitVec.toNat_setWidth 32 v).symm

/-- NV for a signalling NaN among the operands. -/
theorem snan_or_snan (a b : FVal) : a.snan ||| b.snan = if a = .nan true ∨ b = .nan true then flagNV else 0 := by
  have hsnan (v : FVal) : v.snan = if v = .nan true then flagNV else 0 := by
    unfold FVal.snan
    split
    · rfl
    · next hv => rw [if_neg (hv ·)]
  rw [hsnan, hsnan]
  by_cases ha : a = .nan true <;> by_cases hb : b = .nan true <;> simp [ha, hb]

/-- Two values compare unless one is a NaN. -/
theorem cmp_eq_none_iff (a b : FVal) : FVal.cmp a b = none ↔ (a.isNan || b.isNan) = true := by
  cases a <;> cases b <;> simp [FVal.cmp, FVal.isNan]

theorem sign_range (t : Int) : let r : Int := if t < 0 then -1 else if t = 0 then 0 else 1; r = -1 ∨ r = 0 ∨ r = 1 := by
  by_cases hneg : t < 0
  · exact .inl (if_pos hneg)
  · by_cases hzero : t = 0
    · exact .inr (.inl ((if_neg hneg).trans (if_pos hzero)))
    · exact .inr (.inr ((if_neg hneg).trans (if_neg hzero)))

theorem cmp_range {a b : FVal} {t : Int} (h : FVal.cmp a b = some t) : t = -1 ∨ t = 0 ∨ t = 1 := by
  unfold FVal.cmp at h
  split at h
  case h_1 | h_2 => cases h
  case h_3 n1 n2 =>
    cases h
    cases n1 <;> cases n2 <;> decide
  case h_4 neg _ _ _ =>
    cases h
    cases neg <;> decide
  case h_5 _ _ _ neg =>
    cases h
    cases neg <;> decide
  case h_6 =>
    cases h
    exact sign_range _

theorem completes_of_exec_eq_fpCompare {i : Instr} {s : State} {op : FCmp} {sg : Bool} {kd : KReg} {rs1 rs2 : SReg}
    {r : Bool × Flags} (h : exec i s = fpCompare op sg kd rs1 rs2 s)
    (hr : (scalarFmt sg).compare op (fpIn sg (s.ctx.x rs1)) (fpIn sg (s.ctx.x rs2)) = r) :
    Completes i s (fun t => WritesK s t kd r.1 r.2) := by
  subst hr
  exact completes_writesK_of_exec_eq_plain h rfl

theorem beq_eq_decide_eq {α : Type} [DecidableEq α] [BEq α] [LawfulBEq α] (a b : α) : (a == b) = decide (a = b) := by
  rw [Bool.eq_iff_iff, beq_iff_eq, decide_eq_true_iff]

theorem decide_eq_not_decide {p q : Prop} [Decidable p] [Decidable q] (h : ¬q ↔ p) : decide p = !decide q := by
  rw [← decide_not]
  exact decide_eq_decide.mpr h.symm

/-! ## The instructions -/

section Arms
variable (w sg : Bool) (kd ka kb : KReg) (rs1 rs2 : SReg) (s : State)

theorem exec_keq : exec (.keq w kd rs1 rs2) s = compareK w false (fun a b => a == b) kd rs1 rs2 s := rfl
theorem exec_kne : exec (.kne w kd rs1 rs2) s = compareK w false (fun a b => a != b) kd rs1 rs2 s := rfl
theorem exec_klt :
    exec (.klt w kd rs1 rs2) s = compareK w true (fun a b => decide (a.toInt < b.toInt)) kd rs1 rs2 s := rfl
theorem exec_kge :
    exec (.kge w kd rs1 rs2) s = compareK w true (fun a b => decide (b.toInt ≤ a.toInt)) kd rs1 rs2 s := rfl
theorem exec_kltu :
    exec (.kltu w kd rs1 rs2) s = compareK w false (fun a b => decide (a.toNat < b.toNat)) kd rs1 rs2 s := rfl
theorem exec_kgeu :
    exec (.kgeu w kd rs1 rs2) s = compareK w false (fun a b => decide (b.toNat ≤ a.toNat)) kd rs1 rs2 s := rfl
theorem exec_kand : exec (.kand kd ka kb) s = s.plain 4 (fun c => c.setK kd (c.kb ka && c.kb kb)) := rfl
theorem exec_kor : exec (.kor kd ka kb) s = s.plain 4 (fun c => c.setK kd (c.kb ka || c.kb kb)) := rfl
theorem exec_kxor : exec (.kxor kd ka kb) s = s.plain 4 (fun c => c.setK kd (c.kb ka ^^ c.kb kb)) := rfl
theorem exec_kset : exec (.kset kd rs1) s = s.plain 4 (fun c => c.setK kd (decide (c.x rs1 ≠ 0))) := rfl
theorem exec_kfeq : exec (.kfeq sg kd rs1 rs2) s = fpCompare .eq sg kd rs1 rs2 s := rfl
theorem exec_kflt : exec (.kflt sg kd rs1 rs2) s = fpCompare .lt sg kd rs1 rs2 s := rfl
theorem exec_kfle : exec (.kfle sg kd rs1 rs2) s = fpCompare .le sg kd rs1 rs2 s := rfl
theorem exec_kfun : exec (.kfun sg kd rs1 rs2) s = fpCompare .un sg kd rs1 rs2 s := rfl

end Arms

/-! ## The obligation -/

/-- Settles O3: an integer compare reads its sources as integers of the width that `w` selects, and a floating-point
compare is `Fmt.compare` of the sources' codes. -/
theorem compareResult : Obligations.CompareResult := by
  constructor
  · intro s w kd ka kb rs1 rs2 a b c d gives
    have hcompare {i : Instr} {signed : Bool} {f : Word → Word → Bool} {v : Bool}
        (h : exec i s = compareK w signed f kd rs1 rs2 s)
        (hv : f (compareOperand w signed a) (compareOperand w signed b) = v) : gives i v :=
      completes_of_exec_eq_compareK h hv
    refine ⟨hcompare (exec_keq ..) (compareOperand_beq w a b), hcompare (exec_kne ..) ?kne,
      hcompare (exec_klt ..) (compareOperand_lt_signed w a b), hcompare (exec_kge ..) ?kge,
      hcompare (exec_kltu ..) (compareOperand_lt_unsigned w a b), hcompare (exec_kgeu ..) ?kgeu,
      completes_writesK_of_setK (exec_kand ..) rfl, completes_writesK_of_setK (exec_kor ..) rfl,
      completes_writesK_of_setK (exec_kxor ..) rfl, completes_writesK_of_setK (exec_kset ..) ?kset⟩
    case kne =>
      rw [bne, compareOperand_beq]
      cases w <;> rfl
    case kge => rw [decide_eq_not_decide Int.not_lt, compareOperand_lt_signed]
    case kgeu => rw [decide_eq_not_decide Nat.not_lt, compareOperand_lt_unsigned]
    case kset => rw [decide_not, ← beq_eq_decide_eq]; rfl
  · intro s sg kd rs1 rs2 f x a b nan quiet any gives
    have hcompare {i : Instr} {op : FCmp} {v : Bool} {fl : Flags} (h : exec i s = fpCompare op sg kd rs1 rs2 s)
        (hv : f.compare op (if sg then (lowWord (s.ctx.x rs1)).toNat else (s.ctx.x rs1).toNat)
          (if sg then (lowWord (s.ctx.x rs2)).toNat else (s.ctx.x rs2).toNat) = (v, fl)) : gives i v fl := by
      rw [← fpIn_eq, ← fpIn_eq] at hv
      exact completes_of_exec_eq_fpCompare h hv
    have hquiet : a.snan ||| b.snan = quiet := snan_or_snan a b
    refine ⟨hcompare (exec_kfeq ..) (Prod.ext (beq_eq_decide_eq _ _) hquiet),
      hcompare (exec_kflt ..) (Prod.ext (beq_eq_decide_eq _ _) rfl),
      hcompare (exec_kfle ..) (Prod.ext ?kfle rfl), hcompare (exec_kfun ..) (Prod.ext rfl hquiet), ?ordered, ?unordered⟩
    case kfle =>
      show (FVal.cmp a b == some (-1) || FVal.cmp a b == some 0) = _
      rw [Bool.decide_or, beq_eq_decide_eq, beq_eq_decide_eq]
    case ordered =>
      intro hnan
      cases ht : FVal.cmp a b with
      | none => exact absurd ((cmp_eq_none_iff a b).mp ht) (Bool.eq_false_iff.mp hnan)
      | some t => simpa using cmp_range ht
    case unordered => exact (cmp_eq_none_iff a b).mpr

end Sys2Proof.Machine
end

section
/-! # Branches and jumps away from a live END (R89, R95) -/

namespace Sys2Proof.Machine
open Sys2Proof

/-! ## Away from a live END -/

/-- No entry is stepped: the program counter moves on, and the loop stack stays (R93). -/
theorem Ctx.retire_of_not_atLoopEnd {c : Ctx} (h : c.atLoopEnd = false) (len : Word) :
    c.retire len = { c with pc := c.pc + len } := by
  unfold Ctx.atLoopEnd at h
  unfold Ctx.retire
  split at h
  · next hl => simp only [hl]
  · next l0 hl => simp only [hl]; rw [if_neg (by simpa using h)]
  · next l0 l1 t hl => simp only [hl]; rw [if_neg (by simpa using h)]

theorem transfer_of_not_atLoopEnd {s : State} (h : s.ctx.atLoopEnd = false) (f : Ctx → Ctx) :
    transfer f s = .next (s.setCtx (f s.ctx).fresh) := by
  rw [transfer, h, if_neg Bool.false_ne_true]

theorem parcels_eq {n : Nat} (off : BitVec n) : parcels off = 2 * off.signExtend 64 := BitVec.mul_comm _ _

/-! ## Conditional branches -/

/-- What a conditional branch to `dest` leaves: it goes there, or moves on by `len`. -/
def Branches (len : Word) (taken : Bool) (dest : Word) (s t : State) : Prop :=
  if taken then Moves s t dest (keepLoops s.ctx.loops dest) else Moves s t (s.ctx.pc + len) s.ctx.loops

theorem moves_setCtx (s : State) (pc : Word) (loops : List LoopEntry) :
    Moves s (s.setCtx { s.ctx with pc := pc, loops := loops, issued := false, stamped := false }) pc loops :=
  ⟨State.ctx_setCtx s _, onlyContext_setCtx s _⟩

/-- What `branch`, the meaning that the conditional branches share, does. -/
theorem completes_of_exec_eq_branch {i : Instr} {s : State} {n : Nat} {len : Word} {cond : Ctx → Bool} {off : BitVec n}
    {taken : Bool} (hend : s.ctx.atLoopEnd = false) (h : exec i s = branch len cond (parcels off) s)
    (htaken : cond s.ctx = taken) :
    Completes i s (Branches len taken (s.ctx.pc + 2 * off.signExtend 64) s) := by
  rw [branch, transfer_of_not_atLoopEnd hend, htaken, parcels_eq] at h
  refine ⟨_, h, ?_⟩
  cases taken with
  | true => exact moves_setCtx s _ _
  | false =>
    rw [if_neg Bool.false_ne_true, Ctx.retire_of_not_atLoopEnd hend]
    exact moves_setCtx s _ _

/-! ## Jumps -/

/-- What a jump to `tgt` with link register `rd` leaves (R89, R95). -/
structure Links (s t : State) (rd : SReg) (tgt : Word) : Prop where
  package : t = s.setCtx { s.ctx with s := t.ctx.s, pc := tgt, issued := false, stamped := false,
                                      loops := if rd = 0 then keepLoops s.ctx.loops tgt else s.ctx.loops }
  value : t.ctx.x rd = if rd = 0 then 0 else s.ctx.pc + 4
  others : ∀ r, r ≠ rd → t.ctx.x r = s.ctx.x r
  memory : ∀ l, t.byteAt l = s.byteAt l

theorem links_setCtx (s : State) (rd : SReg) (tgt : Word) : Links s (s.setCtx (s.ctx.link rd tgt).fresh) rd tgt where
  package := by
    rw [State.ctx_setCtx, Ctx.link]
    split
    · rfl
    · rw [Ctx.setX_eq]; rfl
  value := by
    rw [State.ctx_setCtx, Ctx.x_fresh, Ctx.link]
    split
    · next h => subst h; rfl
    · next h => exact (Ctx.x_setX s.ctx rd _).trans (if_neg h)
  others r hr := by
    rw [State.ctx_setCtx, Ctx.x_fresh, Ctx.link]
    split
    · rfl
    · exact Ctx.x_setX_ne s.ctx _ hr
  memory := byteAt_setCtx s _

theorem completes_of_exec_eq_transfer_link {i : Instr} {s : State} {f : Ctx → Ctx} {rd : SReg} {tgt : Word}
    (hend : s.ctx.atLoopEnd = false) (h : exec i s = transfer f s) (hf : f s.ctx = s.ctx.link rd tgt) :
    Completes i s (fun t => Links s t rd tgt) := by
  rw [transfer_of_not_atLoopEnd hend, hf] at h
  exact ⟨_, h, links_setCtx s rd tgt⟩

/-! ## The instructions -/

section Arms
variable (rd rs1 rs2 : SReg) (k : KReg) (s : State)

theorem exec_beq (off : BitVec 11) :
    exec (.beq rs1 rs2 off) s = branch 4 (fun c => c.x rs1 == c.x rs2) (parcels off) s := rfl
theorem exec_bne (off : BitVec 11) :
    exec (.bne rs1 rs2 off) s = branch 4 (fun c => c.x rs1 != c.x rs2) (parcels off) s := rfl
theorem exec_blt (off : BitVec 11) :
    exec (.blt rs1 rs2 off) s = branch 4 (fun c => decide ((c.x rs1).toInt < (c.x rs2).toInt)) (parcels off) s := rfl
theorem exec_bge (off : BitVec 11) :
    exec (.bge rs1 rs2 off) s = branch 4 (fun c => decide ((c.x rs2).toInt ≤ (c.x rs1).toInt)) (parcels off) s := rfl
theorem exec_bltu (off : BitVec 11) :
    exec (.bltu rs1 rs2 off) s = branch 4 (fun c => decide ((c.x rs1).toNat < (c.x rs2).toNat)) (parcels off) s := rfl
theorem exec_bgeu (off : BitVec 11) :
    exec (.bgeu rs1 rs2 off) s = branch 4 (fun c => decide ((c.x rs2).toNat ≤ (c.x rs1).toNat)) (parcels off) s := rfl
theorem exec_bkt (off : BitVec 20) : exec (.bkt k off) s = branch 4 (fun c => c.kb k) (parcels off) s := rfl
theorem exec_bkf (off : BitVec 20) : exec (.bkf k off) s = branch 4 (fun c => !c.kb k) (parcels off) s := rfl
theorem exec_cBnez (off : BitVec 5) : exec (.cBnez rs1 off) s = branch 2 (fun c => c.x rs1 != 0) (parcels off) s := rfl
theorem exec_cBeqz (off : BitVec 5) : exec (.cBeqz rs1 off) s = branch 2 (fun c => c.x rs1 == 0) (parcels off) s := rfl
theorem exec_cBkt (off : BitVec 8) : exec (.cBkt k off) s = branch 2 (fun c => c.kb k) (parcels off) s := rfl
theorem exec_cBkf (off : BitVec 8) : exec (.cBkf k off) s = branch 2 (fun c => !c.kb k) (parcels off) s := rfl
theorem exec_jal (off : BitVec 18) : exec (.jal rd off) s = transfer (fun c => c.link rd (c.pc + parcels off)) s := rfl
theorem exec_jalr (imm : BitVec 12) :
    exec (.jalr rd rs1 imm) s = transfer (fun c => c.link rd (evenTarget (c.x rs1 + simm imm))) s := rfl
theorem exec_cJ (off : BitVec 11) : exec (.cJ off) s = transfer (fun c => c.jump (c.pc + parcels off)) s := rfl
theorem exec_cJr : exec (.cJr rs1) s = transfer (fun c => c.jump (evenTarget (c.x rs1))) s := rfl

end Arms

/-! ## The obligation -/

/-- Settles O6: the branches are `branch` of their condition, and the jumps are `transfer` of a link. -/
theorem controlTransferResult : Obligations.ControlTransferResult := by
  constructor
  · intro s rs1 rs2 rs k off off20 off5 off8 hend a b goes
    have hgoes {i : Instr} {n : Nat} {len : Word} {cond : Ctx → Bool} {o : BitVec n} {taken : Bool}
        (h : exec i s = branch len cond (parcels o) s) (htaken : cond s.ctx = taken) :
        goes i len taken (o.signExtend 64) := completes_of_exec_eq_branch hend h htaken
    exact ⟨hgoes (exec_beq ..) rfl, hgoes (exec_bne ..) rfl, hgoes (exec_blt ..) rfl,
      hgoes (exec_bge ..) (decide_eq_not_decide Int.not_lt), hgoes (exec_bltu ..) rfl,
      hgoes (exec_bgeu ..) (decide_eq_not_decide Nat.not_lt), hgoes (exec_bkt ..) rfl, hgoes (exec_bkf ..) rfl,
      hgoes (exec_cBnez ..) rfl, hgoes (exec_cBeqz ..) rfl, hgoes (exec_cBkt ..) rfl, hgoes (exec_cBkf ..) rfl⟩
  · intro s rd rs1 off imm off11 hend goes
    have hgoes {i : Instr} {f : Ctx → Ctx} {rd : SReg} {tgt : Word} (h : exec i s = transfer f s)
        (hf : f s.ctx = s.ctx.link rd tgt) : goes i rd tgt := by
      obtain ⟨t, ht, hlinks⟩ := completes_of_exec_eq_transfer_link hend h hf
      exact ⟨t, ht, hlinks.package, hlinks.value, hlinks.others, hlinks.memory⟩
    refine ⟨hgoes (exec_jal ..) ?jal, hgoes (exec_jalr ..) rfl, hgoes (exec_cJ ..) ?cJ, hgoes (exec_cJr ..) rfl⟩
    case jal => rw [parcels_eq]
    case cJ =>
      rw [parcels_eq]
      rfl

end Sys2Proof.Machine
end
